-- ==== Sys2Proof/Word.lean ====
section
/-! DEFINITION. The word types of the ZW-880 and their plainest conversions (spec/00 R1, R6). -/
namespace Sys2Proof

/-- A byte. -/
abbrev Byte := BitVec 8
/-- A lane register value, 32 bits (R53). -/
abbrev Word := BitVec 32
/-- A uniform register value or a register pair, 64 bits (R53). -/
abbrev DWord := BitVec 64

/-- A 64-bit word of a natural number, wrapped (R6 Wrap). -/
abbrev dw (n : Nat) : DWord := BitVec.ofNat 64 n
/-- A 32-bit word of a natural number, wrapped (R6 Wrap). -/
abbrev w32 (n : Nat) : Word := BitVec.ofNat 32 n

end Sys2Proof
end

