-- ==== Sys2Proof/Syntax.lean ====
section
/-! DEFINITION. The instructions and machine events of the ZW-880: one constructor per row of the
opcode table. A constructor of an encoded instruction carries every field of its words that the spec does not fix
(spec/07 R149 to R173 and the entries of 08 to 12); a constructor of an event carries what identifies the event. -/
namespace Sys2Proof

/-- One row of the opcode table each (spec/07 Tables 7.9 and 7.10, spec/95 for the events). -/
inductive Instr where
  /-- IADD (R177). -/
  | iadd (nw : Bool) (d : BitVec 7) (a : BitVec 8) (b : BitVec 8)
  /-- IADD_EXT (R177). -/
  | iaddExt (nw : Bool) (d : BitVec 7) (a : BitVec 8) (fmt : BitVec 4) (b : BitVec 8)
  /-- ISUB (R177). -/
  | isub (nw : Bool) (d : BitVec 7) (a : BitVec 8) (b : BitVec 8)
  /-- ISUB_EXT (R177). -/
  | isubExt (nw : Bool) (d : BitVec 7) (a : BitVec 8) (fmt : BitVec 4) (b : BitVec 8)
  /-- IMUL (R177). -/
  | imul (nw : Bool) (d : BitVec 7) (a : BitVec 8) (b : BitVec 8)
  /-- IMUL_EXT (R177). -/
  | imulExt (nw : Bool) (d : BitVec 7) (a : BitVec 8) (fmt : BitVec 4) (b : BitVec 8)
  /-- IMULHS (R177). -/
  | imulhs (nw : Bool) (d : BitVec 7) (a : BitVec 8) (b : BitVec 8)
  /-- IMULHS_EXT (R177). -/
  | imulhsExt (nw : Bool) (d : BitVec 7) (a : BitVec 8) (fmt : BitVec 4) (b : BitVec 8)
  /-- IMULHU (R177). -/
  | imulhu (nw : Bool) (d : BitVec 7) (a : BitVec 8) (b : BitVec 8)
  /-- IMULHU_EXT (R177). -/
  | imulhuExt (nw : Bool) (d : BitVec 7) (a : BitVec 8) (fmt : BitVec 4) (b : BitVec 8)
  /-- IMAD (R178). -/
  | imad (nw : Bool) (d : BitVec 7) (a : BitVec 8) (b : BitVec 8) (c : BitVec 8)
  /-- IMIN (R179). -/
  | imin (nw : Bool) (d : BitVec 7) (a : BitVec 8) (b : BitVec 8)
  /-- IMAX (R179). -/
  | imax (nw : Bool) (d : BitVec 7) (a : BitVec 8) (b : BitVec 8)
  /-- UMIN (R179). -/
  | umin (nw : Bool) (d : BitVec 7) (a : BitVec 8) (b : BitVec 8)
  /-- UMAX (R179). -/
  | umax (nw : Bool) (d : BitVec 7) (a : BitVec 8) (b : BitVec 8)
  /-- AND (R179). -/
  | vand (nw : Bool) (d : BitVec 7) (a : BitVec 8) (b : BitVec 8)
  /-- OR (R179). -/
  | vor (nw : Bool) (d : BitVec 7) (a : BitVec 8) (b : BitVec 8)
  /-- XOR (R179). -/
  | vxor (nw : Bool) (d : BitVec 7) (a : BitVec 8) (b : BitVec 8)
  /-- ANDN (R179). -/
  | vandn (nw : Bool) (d : BitVec 7) (a : BitVec 8) (b : BitVec 8)
  /-- SHL (R179). -/
  | shl (nw : Bool) (d : BitVec 7) (a : BitVec 8) (b : BitVec 8)
  /-- SHR (R179). -/
  | shr (nw : Bool) (d : BitVec 7) (a : BitVec 8) (b : BitVec 8)
  /-- SAR (R179). -/
  | sar (nw : Bool) (d : BitVec 7) (a : BitVec 8) (b : BitVec 8)
  /-- ROTL (R179). -/
  | rotl (nw : Bool) (d : BitVec 7) (a : BitVec 8) (b : BitVec 8)
  /-- POPC (R179). -/
  | popc (nw : Bool) (d : BitVec 7) (a : BitVec 8)
  /-- CLZ (R179). -/
  | clz (nw : Bool) (d : BitVec 7) (a : BitVec 8)
  /-- BREV (R179). -/
  | brev (nw : Bool) (d : BitVec 7) (a : BitVec 8)
  /-- BFX (R181). -/
  | bfx (nw : Bool) (d : BitVec 7) (a : BitVec 8) (b : BitVec 8) (sx : BitVec 1)
  /-- BFI (R181). -/
  | bfi (nw : Bool) (d : BitVec 7) (a : BitVec 8) (b : BitVec 8) (c : BitVec 8)
  /-- BPERM (R182). -/
  | bperm (nw : Bool) (d : BitVec 7) (a : BitVec 8) (b : BitVec 8) (c : BitVec 8)
  /-- BITF (R183). -/
  | bitf (nw : Bool) (d : BitVec 7) (a : BitVec 8) (b : BitVec 8) (c : BitVec 8) (f1 : BitVec 4) (f0 : BitVec 4)
  /-- IADD64 (R184). -/
  | iadd64 (nw : Bool) (d : BitVec 7) (a : BitVec 8) (b : BitVec 8)
  /-- ISUB64 (R184). -/
  | isub64 (nw : Bool) (d : BitVec 7) (a : BitVec 8) (b : BitVec 8)
  /-- IMULW (R184). -/
  | imulw (nw : Bool) (d : BitVec 7) (a : BitVec 8) (b : BitVec 8)
  /-- ICMP (R185). -/
  | icmp (nw : Bool) (d : BitVec 7) (a : BitVec 8) (b : BitVec 8) (c : BitVec 8) (cond : BitVec 4)
  /-- SEL (R186). -/
  | sel (nw : Bool) (d : BitVec 7) (a : BitVec 8) (b : BitVec 8) (c : BitVec 8) (p : BitVec 1)
  /-- MOV (R187). -/
  | mov (nw : Bool) (d : BitVec 7) (a : BitVec 8)
  /-- MOVI (R187). -/
  | movi (nw : Bool) (d : BitVec 7) (imm : BitVec 32)
  /-- IADDI (R180). -/
  | iaddi (nw : Bool) (d : BitVec 7) (a : BitVec 8) (imm : BitVec 8)
  /-- SHLI (R180). -/
  | shli (nw : Bool) (d : BitVec 7) (a : BitVec 8) (imm : BitVec 8)
  /-- SHRI (R180). -/
  | shri (nw : Bool) (d : BitVec 7) (a : BitVec 8) (imm : BitVec 8)
  /-- SARI (R180). -/
  | sari (nw : Bool) (d : BitVec 7) (a : BitVec 8) (imm : BitVec 8)
  /-- ANDI (R180). -/
  | andi (nw : Bool) (d : BitVec 7) (a : BitVec 8) (imm : BitVec 8)
  /-- ORI (R180). -/
  | ori (nw : Bool) (d : BitVec 7) (a : BitVec 8) (imm : BitVec 8)
  /-- XORI (R180). -/
  | xori (nw : Bool) (d : BitVec 7) (a : BitVec 8) (imm : BitVec 8)
  /-- FADD (R189). -/
  | fadd (nw : Bool) (d : BitVec 7) (a : BitVec 8) (b : BitVec 8)
  /-- FADD_EXT (R189). -/
  | faddExt (nw : Bool) (d : BitVec 7) (a : BitVec 8) (fmt : BitVec 4) (b : BitVec 8)
  /-- FSUB (R189). -/
  | fsub (nw : Bool) (d : BitVec 7) (a : BitVec 8) (b : BitVec 8)
  /-- FSUB_EXT (R189). -/
  | fsubExt (nw : Bool) (d : BitVec 7) (a : BitVec 8) (fmt : BitVec 4) (b : BitVec 8)
  /-- FMUL (R189). -/
  | fmul (nw : Bool) (d : BitVec 7) (a : BitVec 8) (b : BitVec 8)
  /-- FMUL_EXT (R189). -/
  | fmulExt (nw : Bool) (d : BitVec 7) (a : BitVec 8) (fmt : BitVec 4) (b : BitVec 8)
  /-- FFMA (R190). -/
  | ffma (nw : Bool) (d : BitVec 7) (a : BitVec 8) (b : BitVec 8)
  /-- FFMA_EXT (R190). -/
  | ffmaExt (nw : Bool) (d : BitVec 7) (a : BitVec 8) (c : BitVec 8) (fmt : BitVec 4) (b : BitVec 8)
  /-- FMIN (R115). -/
  | fmin (nw : Bool) (d : BitVec 7) (a : BitVec 8) (b : BitVec 8)
  /-- FMIN_EXT (R115). -/
  | fminExt (nw : Bool) (d : BitVec 7) (a : BitVec 8) (fmt : BitVec 4) (b : BitVec 8)
  /-- FMAX (R115). -/
  | fmax (nw : Bool) (d : BitVec 7) (a : BitVec 8) (b : BitVec 8)
  /-- FMAX_EXT (R115). -/
  | fmaxExt (nw : Bool) (d : BitVec 7) (a : BitVec 8) (fmt : BitVec 4) (b : BitVec 8)
  /-- FMINN (R115). -/
  | fminn (nw : Bool) (d : BitVec 7) (a : BitVec 8) (b : BitVec 8)
  /-- FMINN_EXT (R115). -/
  | fminnExt (nw : Bool) (d : BitVec 7) (a : BitVec 8) (fmt : BitVec 4) (b : BitVec 8)
  /-- FMAXN (R115). -/
  | fmaxn (nw : Bool) (d : BitVec 7) (a : BitVec 8) (b : BitVec 8)
  /-- FMAXN_EXT (R115). -/
  | fmaxnExt (nw : Bool) (d : BitVec 7) (a : BitVec 8) (fmt : BitVec 4) (b : BitVec 8)
  /-- FCMP (R193). -/
  | fcmp (nw : Bool) (d : BitVec 7) (a : BitVec 8) (b : BitVec 8) (c : BitVec 8) (cond : BitVec 4) (fmt : BitVec 4)
  /-- FCLASS (R192). -/
  | fclass (nw : Bool) (d : BitVec 7) (a : BitVec 8)
  /-- FCLASS_EXT (R192). -/
  | fclassExt (nw : Bool) (d : BitVec 7) (a : BitVec 8) (fmt : BitVec 4)
  /-- FRCP (R114). -/
  | frcp (nw : Bool) (d : BitVec 7) (a : BitVec 8)
  /-- FRCP_EXT (R114). -/
  | frcpExt (nw : Bool) (d : BitVec 7) (a : BitVec 8) (fmt : BitVec 4)
  /-- FRSQ (R114). -/
  | frsq (nw : Bool) (d : BitVec 7) (a : BitVec 8)
  /-- FRSQ_EXT (R114). -/
  | frsqExt (nw : Bool) (d : BitVec 7) (a : BitVec 8) (fmt : BitVec 4)
  /-- FEXP2 (R114). -/
  | fexp2 (nw : Bool) (d : BitVec 7) (a : BitVec 8)
  /-- FEXP2_EXT (R114). -/
  | fexp2Ext (nw : Bool) (d : BitVec 7) (a : BitVec 8) (fmt : BitVec 4)
  /-- FLOG2 (R114). -/
  | flog2 (nw : Bool) (d : BitVec 7) (a : BitVec 8)
  /-- FLOG2_EXT (R114). -/
  | flog2Ext (nw : Bool) (d : BitVec 7) (a : BitVec 8) (fmt : BitVec 4)
  /-- FSINPI (R114). -/
  | fsinpi (nw : Bool) (d : BitVec 7) (a : BitVec 8)
  /-- FSINPI_EXT (R114). -/
  | fsinpiExt (nw : Bool) (d : BitVec 7) (a : BitVec 8) (fmt : BitVec 4)
  /-- FCOSPI (R114). -/
  | fcospi (nw : Bool) (d : BitVec 7) (a : BitVec 8)
  /-- FCOSPI_EXT (R114). -/
  | fcospiExt (nw : Bool) (d : BitVec 7) (a : BitVec 8) (fmt : BitVec 4)
  /-- FSQRT (R191). -/
  | fsqrt (nw : Bool) (d : BitVec 7) (a : BitVec 8)
  /-- FSQRT_EXT (R191). -/
  | fsqrtExt (nw : Bool) (d : BitVec 7) (a : BitVec 8) (fmt : BitVec 4)
  /-- FRND (R191). -/
  | frnd (nw : Bool) (d : BitVec 7) (a : BitVec 8)
  /-- FRND_EXT (R191). -/
  | frndExt (nw : Bool) (d : BitVec 7) (a : BitVec 8) (fmt : BitVec 4)
  /-- CVT (R194). -/
  | cvt (nw : Bool) (d : BitVec 7) (a : BitVec 8) (fmt : BitVec 4) (six : BitVec 3) (sfmt : BitVec 4)
  /-- CVTSC (R195). -/
  | cvtsc (nw : Bool) (d : BitVec 7) (a : BitVec 8) (b : BitVec 8) (fmt : BitVec 4) (six : BitVec 3) (sfmt : BitVec 4)
  /-- PACK (R196). -/
  | pack (nw : Bool) (d : BitVec 7) (a : BitVec 8) (b : BitVec 8) (fmt : BitVec 4) (idx : BitVec 3)
  /-- UNPK (R197). -/
  | unpk (nw : Bool) (d : BitVec 7) (a : BitVec 8) (fmt : BitVec 4) (idx : BitVec 3)
  /-- IDOT4 (R198). -/
  | idot4 (nw : Bool) (d : BitVec 7) (a : BitVec 8) (b : BitVec 8)
  /-- IDOT4_EXT (R198). -/
  | idot4Ext (nw : Bool) (d : BitVec 7) (a : BitVec 8) (c : BitVec 8) (fmt : BitVec 4) (b : BitVec 8)
  /-- FDOT2 (R199). -/
  | fdot2 (nw : Bool) (d : BitVec 7) (a : BitVec 8) (b : BitVec 8)
  /-- FDOT2_EXT (R199). -/
  | fdot2Ext (nw : Bool) (d : BitVec 7) (a : BitVec 8) (c : BitVec 8) (fmt : BitVec 4) (b : BitVec 8)
  /-- SHFL (R201). -/
  | shfl (nw : Bool) (d : BitVec 7) (a : BitVec 8) (b : BitVec 8)
  /-- SHFL_EXT (R201). -/
  | shflExt (nw : Bool) (d : BitVec 7) (a : BitVec 8) (c : BitVec 8) (fmt : BitVec 4) (b : BitVec 8)
  /-- SHFLUP (R201). -/
  | shflup (nw : Bool) (d : BitVec 7) (a : BitVec 8) (b : BitVec 8)
  /-- SHFLUP_EXT (R201). -/
  | shflupExt (nw : Bool) (d : BitVec 7) (a : BitVec 8) (c : BitVec 8) (fmt : BitVec 4) (b : BitVec 8)
  /-- SHFLDN (R201). -/
  | shfldn (nw : Bool) (d : BitVec 7) (a : BitVec 8) (b : BitVec 8)
  /-- SHFLDN_EXT (R201). -/
  | shfldnExt (nw : Bool) (d : BitVec 7) (a : BitVec 8) (c : BitVec 8) (fmt : BitVec 4) (b : BitVec 8)
  /-- SHFLX (R201). -/
  | shflx (nw : Bool) (d : BitVec 7) (a : BitVec 8) (b : BitVec 8)
  /-- SHFLX_EXT (R201). -/
  | shflxExt (nw : Bool) (d : BitVec 7) (a : BitVec 8) (c : BitVec 8) (fmt : BitVec 4) (b : BitVec 8)
  /-- LRED (R203). -/
  | lred (nw : Bool) (d : BitVec 7) (a : BitVec 8) (fmt : BitVec 4) (opr : BitVec 4)
  /-- LSCAN (R204). -/
  | lscan (nw : Bool) (d : BitVec 7) (a : BitVec 8) (c : BitVec 8) (fmt : BitVec 4) (excl : BitVec 1) (opr : BitVec 4)
  /-- VOTE (R205). -/
  | vote (nw : Bool) (d : BitVec 7) (a : BitVec 8) (mode : BitVec 2)
  /-- BCAST (R206). -/
  | bcast (nw : Bool) (d : BitVec 7) (a : BitVec 8) (b : BitVec 8) (c : BitVec 8)
  /-- RVSEND (R207). -/
  | rvsend (a : BitVec 8) (n1 : BitVec 3) (slot : BitVec 4)
  /-- RVRECV (R207). -/
  | rvrecv (d : BitVec 7) (c : BitVec 8) (n1 : BitVec 3) (slot : BitVec 4)
  /-- XCHGX (R208). -/
  | xchgx (d : BitVec 7) (a : BitVec 8) (n1 : BitVec 2) (ch : BitVec 8)
  /-- LNSADD (R200). -/
  | lnsadd (nw : Bool) (d : BitVec 7) (a : BitVec 8) (b : BitVec 8)
  /-- LNSMUL (R200). -/
  | lnsmul (nw : Bool) (d : BitVec 7) (a : BitVec 8) (b : BitVec 8)
  /-- LD (R238). -/
  | ld (d : BitVec 7) (a : BitVec 8) (strm : BitVec 4) (fmt : BitVec 4) (scope : BitVec 3) (ord : BitVec 2) (imm : BitVec 11)
  /-- ST (R238). -/
  | st (a : BitVec 8) (b : BitVec 8) (strm : BitVec 4) (fmt : BitVec 4) (scope : BitVec 3) (ord : BitVec 2) (imm : BitVec 11)
  /-- LDS (R240). -/
  | lds (d : BitVec 7) (a : BitVec 8) (strm : BitVec 4) (fmt : BitVec 4) (level : BitVec 2) (fe : BitVec 2) (imm : BitVec 11)
  /-- STS (R240). -/
  | sts (a : BitVec 8) (b : BitVec 8) (strm : BitVec 4) (fmt : BitVec 4) (level : BitVec 2) (fe : BitVec 2) (imm : BitVec 11)
  /-- ATOM (R243). -/
  | atom (d : BitVec 7) (a : BitVec 8) (b : BitVec 8) (strm : BitVec 4) (fmt : BitVec 4) (scope : BitVec 3) (ord : BitVec 2) (aop : BitVec 5) (off : BitVec 6)
  /-- RED (R243). -/
  | red (a : BitVec 8) (b : BitVec 8) (strm : BitVec 4) (fmt : BitVec 4) (scope : BitVec 3) (ord : BitVec 2) (aop : BitVec 5) (off : BitVec 6)
  /-- CAS (R243). -/
  | cas (d : BitVec 7) (a : BitVec 8) (b : BitVec 8) (c : BitVec 8) (strm : BitVec 4) (fmt : BitVec 4) (scope : BitVec 3) (ord : BitVec 2) (w64 : BitVec 1) (off : BitVec 6)
  /-- KVMAP (R259). -/
  | kvmap (d : BitVec 7) (a : BitVec 8) (b : BitVec 8) (c : BitVec 8) (strm : BitVec 4) (scope : BitVec 3) (ord : BitVec 2) (sel : BitVec 1)
  /-- KVAPP (R260). -/
  | kvapp (a : BitVec 8) (b : BitVec 8) (c : BitVec 8) (strm : BitVec 4) (scope : BitVec 3) (ord : BitVec 2)
  /-- QADD (R292). -/
  | qadd (d : BitVec 7) (a : BitVec 8) (b : BitVec 8)
  /-- QSUB (R292). -/
  | qsub (d : BitVec 7) (a : BitVec 8) (b : BitVec 8)
  /-- QMUL (R292). -/
  | qmul (d : BitVec 7) (a : BitVec 8) (b : BitVec 8)
  /-- QDIV (R292). -/
  | qdiv (d : BitVec 7) (a : BitVec 8) (b : BitVec 8)
  /-- QNEG (R292). -/
  | qneg (d : BitVec 7) (a : BitVec 8)
  /-- QENC (R292). -/
  | qenc (d : BitVec 7) (a : BitVec 8) (b : BitVec 8)
  /-- QDEC (R293). -/
  | qdec (d : BitVec 7) (a : BitVec 8)
  /-- SADD (R212). -/
  | sadd (nw : Bool) (d : BitVec 7) (a : BitVec 8) (b : BitVec 8)
  /-- SSUB (R212). -/
  | ssub (nw : Bool) (d : BitVec 7) (a : BitVec 8) (b : BitVec 8)
  /-- SMUL (R212). -/
  | smul (nw : Bool) (d : BitVec 7) (a : BitVec 8) (b : BitVec 8)
  /-- SAND (R212). -/
  | sand (nw : Bool) (d : BitVec 7) (a : BitVec 8) (b : BitVec 8)
  /-- SOR (R212). -/
  | sor (nw : Bool) (d : BitVec 7) (a : BitVec 8) (b : BitVec 8)
  /-- SXOR (R212). -/
  | sxor (nw : Bool) (d : BitVec 7) (a : BitVec 8) (b : BitVec 8)
  /-- SSHL (R212). -/
  | sshl (nw : Bool) (d : BitVec 7) (a : BitVec 8) (b : BitVec 8)
  /-- SSHR (R212). -/
  | sshr (nw : Bool) (d : BitVec 7) (a : BitVec 8) (b : BitVec 8)
  /-- SSAR (R212). -/
  | ssar (nw : Bool) (d : BitVec 7) (a : BitVec 8) (b : BitVec 8)
  /-- SMIN (R212). -/
  | smin (nw : Bool) (d : BitVec 7) (a : BitVec 8) (b : BitVec 8)
  /-- SMAX (R212). -/
  | smax (nw : Bool) (d : BitVec 7) (a : BitVec 8) (b : BitVec 8)
  /-- SMOV (R212). -/
  | smov (nw : Bool) (d : BitVec 7) (a : BitVec 8)
  /-- SPOPC (R212). -/
  | spopc (nw : Bool) (d : BitVec 7) (a : BitVec 8)
  /-- SCLZ (R212). -/
  | sclz (nw : Bool) (d : BitVec 7) (a : BitVec 8)
  /-- SFFS (R212). -/
  | sffs (nw : Bool) (d : BitVec 7) (a : BitVec 8)
  /-- SADDI (R213). -/
  | saddi (nw : Bool) (d : BitVec 7) (imm : BitVec 16)
  /-- SMOVI (R213). -/
  | smovi (nw : Bool) (d : BitVec 7) (imm : BitVec 16)
  /-- SMOVL (R213). -/
  | smovl (nw : Bool) (d : BitVec 7) (imm : BitVec 16)
  /-- SMOVH (R213). -/
  | smovh (nw : Bool) (d : BitVec 7) (imm : BitVec 16)
  /-- SCMP (R214). -/
  | scmp (nw : Bool) (d : BitVec 7) (a : BitVec 8) (b : BitVec 8) (cond : BitVec 4)
  /-- MFS (R215). -/
  | mfs (nw : Bool) (d : BitVec 7) (imm : BitVec 16)
  /-- MTS (R216). -/
  | mts (d : BitVec 7) (imm : BitVec 16)
  /-- MVTC_TO (R219). -/
  | mvtcTo (d : BitVec 7) (a : BitVec 8)
  /-- MVTC_FROM (R219). -/
  | mvtcFrom (nw : Bool) (d : BitVec 7) (a : BitVec 8)
  /-- BRA (R222). -/
  | bra (off : BitVec 24)
  /-- CALL (R222). -/
  | call (off : BitVec 24)
  /-- BRZ (R221). -/
  | brz (d : BitVec 7) (imm : BitVec 16)
  /-- BRNZ (R221). -/
  | brnz (d : BitVec 7) (imm : BitVec 16)
  /-- BRANY (R221). -/
  | brany (d : BitVec 7) (imm : BitVec 16)
  /-- BRALL (R221). -/
  | brall (d : BitVec 7) (imm : BitVec 16)
  /-- BRNONE (R221). -/
  | brnone (d : BitVec 7) (imm : BitVec 16)
  /-- LOOP (R221). -/
  | loop (d : BitVec 7) (imm : BitVec 16)
  /-- RET (R222). -/
  | ret (a : BitVec 8)
  /-- JMPR (R222). -/
  | jmpr (nw : Bool) (d : BitVec 7) (a : BitVec 8)
  /-- EXMAND (R224). -/
  | exmand (a : BitVec 8)
  /-- EXMSET (R224). -/
  | exmset (a : BitVec 8)
  /-- TRAP (R230). -/
  | trap (imm : BitVec 16)
  /-- REP (R226). -/
  | rep (cnt : BitVec 6) (sd : BitVec 1) (sa : BitVec 1) (sb : BitVec 1) (str : BitVec 2)
  /-- MCALL (R227). -/
  | mcall (d : BitVec 7) (a : BitVec 8) (b : BitVec 8)
  /-- ELECT (R228). -/
  | elect (nw : Bool) (d : BitVec 7) (a : BitVec 8)
  /-- BAR (R249). -/
  | bar (scope : BitVec 3) (ord : BitVec 2) (id : BitVec 4)
  /-- BARARV (R249). -/
  | bararv (scope : BitVec 3) (ord : BitVec 2) (id : BitVec 4)
  /-- BARWT (R249). -/
  | barwt (scope : BitVec 3) (ord : BitVec 2) (id : BitVec 4)
  /-- FENCE (R246). -/
  | fence (strm : BitVec 4) (scope : BitVec 3) (ord : BitVec 2)
  /-- SFENCE (R246). -/
  | sfence (a : BitVec 8) (scope : BitVec 3) (ord : BitVec 2)
  /-- QFENCE (R248). -/
  | qfence (d : BitVec 7) (scope : BitVec 3) (ord : BitVec 2) (qmask : BitVec 8)
  /-- QPUSH (R251). -/
  | qpush (a : BitVec 8) (b : BitVec 8)
  /-- QPOP (R251). -/
  | qpop (d : BitVec 7) (b : BitVec 8)
  /-- EVSET (R253). -/
  | evset (a : BitVec 8) (scope : BitVec 3) (ord : BitVec 2) (win : BitVec 2)
  /-- EVCLR (R253). -/
  | evclr (a : BitVec 8) (scope : BitVec 3) (ord : BitVec 2) (win : BitVec 2)
  /-- EVWAIT (R253). -/
  | evwait (a : BitVec 8) (scope : BitVec 3) (ord : BitVec 2) (any : BitVec 1) (win : BitVec 2)
  /-- ACQTOK (R263). -/
  | acqtok (b : BitVec 8)
  /-- RELTOK (R263). -/
  | reltok (b : BitVec 8)
  /-- TLD (R271). -/
  | tld (d : BitVec 7) (a : BitVec 8) (b : BitVec 8) (c : BitVec 8) (strm : BitVec 4) (scope : BitVec 3) (ord : BitVec 2) (q : BitVec 3) (dr : BitVec 3) (dc : BitVec 3)
  /-- TST (R271). -/
  | tst (d : BitVec 7) (a : BitVec 8) (b : BitVec 8) (c : BitVec 8) (strm : BitVec 4) (scope : BitVec 3) (ord : BitVec 2) (q : BitVec 3) (dr : BitVec 3) (dc : BitVec 3)
  /-- TZERO (R272). -/
  | tzero (d : BitVec 7) (kind : BitVec 1)
  /-- MMA (R274). -/
  | mma (d : BitVec 7) (a : BitVec 8) (b : BitVec 8)
  /-- MMAS (R275). -/
  | mmas (d : BitVec 7) (a : BitVec 8) (b : BitVec 8) (sb : BitVec 4) (sa : BitVec 4)
  /-- MMAM (R276). -/
  | mmam (d : BitVec 7) (a : BitVec 8) (b : BitVec 8) (tm : BitVec 4)
  /-- ACCRD (R277). -/
  | accrd (d : BitVec 7) (a : BitVec 8) (b : BitVec 8) (row : BitVec 6)
  /-- ACCWR (R277). -/
  | accwr (a : BitVec 8) (b : BitVec 8) (c : BitVec 8) (row : BitVec 6)
  /-- TTASK (R278). -/
  | ttask (d : BitVec 7) (a : BitVec 8) (strm : BitVec 4) (scope : BitVec 3) (ord : BitVec 2) (q : BitVec 3)
  /-- TDESC (R280). -/
  | tdesc (d : BitVec 7) (a : BitVec 8) (c : BitVec 8) (strm : BitVec 4) (scope : BitVec 3) (ord : BitVec 2) (q : BitVec 3)
  /-- REMAP (R281). -/
  | remap (d : BitVec 7) (a : BitVec 8) (c : BitVec 8) (strm : BitVec 4) (scope : BitVec 3) (ord : BitVec 2) (q : BitVec 3)
  /-- CPY (R282). -/
  | cpy (d : BitVec 7) (a : BitVec 8) (b : BitVec 8) (c : BitVec 8) (strm : BitVec 4) (scope : BitVec 3) (ord : BitVec 2) (q : BitVec 3) (sloc : BitVec 2) (dloc : BitVec 2)
  /-- CPY_TENSOR (R283). -/
  | cpyTensor (d : BitVec 7) (a : BitVec 8) (b : BitVec 8) (c : BitVec 8) (strm : BitVec 4) (scope : BitVec 3) (ord : BitVec 2) (q : BitVec 3)
  /-- CPYACC (R286). -/
  | cpyacc (d : BitVec 7) (a : BitVec 8) (b : BitVec 8) (c : BitVec 8) (strm : BitVec 4) (fmt : BitVec 4) (scope : BitVec 3) (ord : BitVec 2) (q : BitVec 3) (sloc : BitVec 2) (dloc : BitVec 2)
  /-- CPYDD (R287). -/
  | cpydd (d : BitVec 7) (a : BitVec 8) (b : BitVec 8) (c : BitVec 8) (strm : BitVec 4) (scope : BitVec 3) (ord : BitVec 2) (q : BitVec 3) (sloc : BitVec 2)
  /-- GATHER (R284). -/
  | gather (d : BitVec 7) (a : BitVec 8) (strm : BitVec 4) (scope : BitVec 3) (ord : BitVec 2) (q : BitVec 3) (sloc : BitVec 2) (dloc : BitVec 2)
  /-- MCAST (R285). -/
  | mcast (d : BitVec 7) (a : BitVec 8) (b : BitVec 8) (c : BitVec 8) (strm : BitVec 4) (scope : BitVec 3) (ord : BitVec 2) (q : BitVec 3) (sloc : BitVec 2) (dlev : BitVec 2)
  /-- MCAST_TENSOR (R285). -/
  | mcastTensor (d : BitVec 7) (a : BitVec 8) (b : BitVec 8) (c : BitVec 8) (strm : BitVec 4) (scope : BitVec 3) (ord : BitVec 2) (q : BitVec 3) (dlev : BitVec 2)
  /-- BWAIT (R269). -/
  | bwait (scope : BitVec 3) (ord : BitVec 2) (n : BitVec 8)
  /-- CRMERGE (R288). -/
  | crmerge (d : BitVec 7) (a : BitVec 8) (b : BitVec 8) (c : BitVec 8) (strm : BitVec 4) (scope : BitVec 3) (ord : BitVec 2) (q : BitVec 3) (slot : BitVec 4)
  /-- CRFIN (R288). -/
  | crfin (d : BitVec 7) (a : BitVec 8) (b : BitVec 8) (c : BitVec 8) (strm : BitVec 4) (scope : BitVec 3) (ord : BitVec 2) (q : BitVec 3) (slot : BitVec 4)
  /-- CVOPEN (R298). -/
  | cvopen (d : BitVec 7) (a : BitVec 8) (strm : BitVec 4) (scope : BitVec 3) (ord : BitVec 2)
  /-- CVBIND (R299). -/
  | cvbind (a : BitVec 8) (strm : BitVec 4) (scope : BitVec 3) (ord : BitVec 2) (rr : BitVec 2) (role : BitVec 3)
  /-- CVSEND (R301). -/
  | cvsend (a : BitVec 8) (b : BitVec 8) (strm : BitVec 4) (scope : BitVec 3) (ord : BitVec 2) (im : BitVec 1) (rr : BitVec 2) (kind : BitVec 5)
  /-- CVRECV (R302). -/
  | cvrecv (d : BitVec 7) (a : BitVec 8) (strm : BitVec 4) (scope : BitVec 3) (ord : BitVec 2) (rr : BitVec 2)
  /-- CVCHOOSE (R301). -/
  | cvchoose (strm : BitVec 4) (scope : BitVec 3) (ord : BitVec 2) (rr : BitVec 2) (kind : BitVec 5)
  /-- CVDELEG (R303). -/
  | cvdeleg (strm : BitVec 4) (scope : BitVec 3) (ord : BitVec 2) (rrp : BitVec 2) (rr : BitVec 2) (kind : BitVec 5)
  /-- CVCLOSE (R304). -/
  | cvclose (strm : BitVec 4) (scope : BitVec 3) (ord : BitVec 2) (rr : BitVec 2)
  /-- TTCLR (R309). -/
  | ttclr (a : BitVec 8)
  /-- TTADD (R309). -/
  | ttadd (d : BitVec 7) (a : BitVec 8) (b : BitVec 8)
  /-- TTANC (R309). -/
  | ttanc (a : BitVec 8) (b : BitVec 8)
  /-- TTPOS (R309). -/
  | ttpos (d : BitVec 7) (a : BitVec 8) (sel : BitVec 1)
  /-- TTPRUNE (R309). -/
  | ttprune (d : BitVec 7) (a : BitVec 8) (c : BitVec 8)
  /-- Event INSTRUCTION_FETCH_FAULT (R61): A fetch at or past the end of the text raises illegal instruction without an issue. -/
  | instructionFetchFault (crew : Nat)
  /-- Event CHAIN_ABANDON (R161): A chain instruction that waits more than 64 cycles abandons the chain back to its head. -/
  | chainAbandon (crew : Nat)
  /-- Event CHAIN_RESUME (R161): An abandoned chain issues again from its head once the awaited register is written. -/
  | chainResume (crew : Nat)
  /-- Event PICKER_URGENT (R334): A crew's wait count reaches 64 and it becomes urgent in the issue picker. -/
  | pickerUrgent (crew : Nat)
  /-- Event HANDLER_INSTRUCTION_LIMIT (R394): The handler's 65,536-instruction count expires and the crew halts. -/
  | handlerInstructionLimit (crew : Nat)
  /-- Event HANDLER_WAIT_LIMIT (R406): A handler blocked or parked for 2^20 cycles escalates as a double fault. -/
  | handlerWaitLimit (crew : Nat)
  /-- Event CREW_INTERRUPT_DELIVERY (R400): A held crew interrupt is delivered as code 0x12 once the crew is ready. -/
  | crewInterruptDelivery (crew : Nat)
  /-- Event TEAM_RETIRE (R48): A team retires once its crews, engine queues and stores are complete, freeing its resources. -/
  | teamRetire (slot : Nat)
  /-- Event ALMANAC_SCHEDULE (R34): Almanac evaluates eligible launches and budgets and issues bind or pre-empt commands. -/
  | almanacSchedule (act : Nat) (launch : Nat) (slot : Nat)
  /-- Event SLOT_BIND (R331): Slot-table BIND command checks claims and the image, loads text and sets the initial team state. -/
  | slotBind (slot : Nat)
  /-- Event SLOT_RESTORE (R414): Slot-table RESTORE command loads a team's save image. -/
  | slotRestore (slot : Nat)
  /-- Event SLOT_PREEMPT (R409): Slot-table PREEMPT command sets SAVING and starts stopping the team's crews. -/
  | slotPreempt (slot : Nat)
  /-- Event SLOT_OP_RESERVED (R331): A reserved OP value sets the entry REFUSED. -/
  | slotOpReserved (slot : Nat)
  /-- Event FORCED_SAVE_EXPIRY (R409): The 2^20-cycle pre-emption count expires and remaining crews stop at their next resumption point. -/
  | forcedSaveExpiry (slot : Nat)
  /-- Event SAVE_COMPLETE (R411): The save image is fully written and the entry becomes SAVED. -/
  | saveComplete (slot : Nat)
  /-- Event FAULT_DOMAIN_END (R395): Almanac ends a fault domain, stopping its teams and discarding their commands. -/
  | faultDomainEnd (ctx : Nat) (fdom : Nat)
  /-- Event UNIT_FENCE (R432): Almanac pre-empts and fences a lastingly faulty core or cluster. -/
  | unitFence (core : Nat)
  /-- Event GRANULE_SERVICE (R59): A scratchpad bank serves a waiting granule once its full-empty condition holds. -/
  | granuleService (crew : Nat) (granule : Nat)
  /-- Event QUEUE_SERVICE (R45): A blocked QPUSH or QPOP is served once allowance or an entry is available. -/
  | queueService (crew : Nat)
  /-- Event BARRIER_RELEASE (R43): A barrier phase completes and releases its waiting crews. -/
  | barrierRelease (launch : Nat) (phase : Nat)
  /-- Event RENDEZVOUS_MATCH (R207): A sender and receiver of one slot are matched and registers transferred. -/
  | rendezvousMatch (team : Nat) (slot : Nat)
  /-- Event XCHGX_PAIR (R208): Two crews on one channel pair and exchange registers. -/
  | xchgxPair (launch : Nat) (ch : Nat)
  /-- Event REMOTE_REQUEST_ARRIVE (R365): A target checks and performs a remote request in the tagged context, or refuses it. -/
  | remoteRequestArrive (src : Nat) (tag : Nat) (sec : Bool) (kind : Nat) (va : BitVec 64) (size : Nat) (aop : BitVec 5) (fmt : BitVec 4) (data : BitVec 64) (data2 : BitVec 64)
  /-- Event COW_PATH (R70): The management core breaks copy-on-write for a page and replays the write. -/
  | cowPath (ctx : Nat) (page : Nat)
  /-- Event ENGINE_COMMAND_START (R264): A queued engine command starts after its predecessor in the queue completes. -/
  | engineCommandStart (team : Nat) (q : Nat)
  /-- Event ENGINE_COMMAND_COMPLETE (R264): An engine command's writes are performed and its status word written to D. -/
  | engineCommandComplete (team : Nat) (q : Nat)
  /-- Event MATRIX_STEP (R274): The matrix engine performs one chunk step of a matrix operation. -/
  | matrixStep (core : Nat) (party : Nat)
  /-- Event REMAP_PASS (R92): One REMAP pass moves elements and updates PIDX. -/
  | remapPass (crew : Option Nat) (team : Nat) (q : Nat)
  /-- Event TILE_TASK_DISPATCH (R279): The cluster task scheduler gives an eligible tile task to a free engine. -/
  | tileTaskDispatch (cluster : Nat) (task : Nat)
  /-- Event TASK_DEPENDENCE_POLL (R336): The scheduler rereads a waiting task's dependence word at least every 1,024 cycles. -/
  | taskDependencePoll (cluster : Nat) (task : Nat)
  /-- Event TILE_TASK_COMPLETE (R279): A tile task writes C, its status and increments its completion counter. -/
  | tileTaskComplete (cluster : Nat) (task : Nat)
  /-- Event CPYACC_CONTRIBUTION (R286): A granule's reorder buffer applies the contribution whose index it expects next. -/
  | cpyaccContribution (team : Nat) (q : Nat)
  /-- Event MERGE_SESSION_MERGE (R288): The reduction unit merges triples of a session in ascending rank. -/
  | mergeSessionMerge (cluster : Nat) (launch : Nat) (slot : Nat)
  /-- Event CRFIN_COMPLETE (R288): A waiting CRFIN writes the merged result once all N triples are merged. -/
  | crfinComplete (team : Nat) (q : Nat)
  /-- Event CPYDD_PAGE_STEP (R287): The dedup serialiser looks up, compares and maps or inserts one page. -/
  | cpyddPageStep (team : Nat) (q : Nat)
  /-- Event CONV_HOME_REQUEST (R300): A conversation home checks a request and refuses it or waits for a slot. -/
  | convHomeRequest (crew : Nat)
  /-- Event CONV_ACCEPT (R300): A waiting request is accepted when a message slot is free and the state advances. -/
  | convAccept (conv : Nat)
  /-- Event CONV_DELIVER (R302): A blocked CVRECV takes the oldest message for its role and frees its slot. -/
  | convDeliver (crew : Nat)
  /-- NOP (R233). -/
  | nop
  /-- EXIT (R223). -/
  | exit
  /-- TRET (R231). -/
  | tret
  /-- CKPT (R232). -/
  | ckpt
  /-- YIELD (R229). -/
  | yield_
  /-- BCLOSE (R269). -/
  | bclose
  /-- Event EVEC_WRITEBACK (R31): The event unit writes the vector back to EVEC once the context has no team bound. -/
  | evecWriteback (ctx : Nat)
  /-- Event SLOT_HOLD_UPDATE (R333): A write of word 0 with OP 0 changes HOLD and PRIO only. -/
  | slotHoldUpdate (slot : Nat) (hold : Bool) (prio : Nat)
  /-- Event REMOTE_REPLY (R46): A remote reply writes the parked crew's destination and makes it ready. -/
  | remoteReply (req : Nat) (refusal : Nat) (data : BitVec 64)
  /-- Event REQUEST_LOST (R429): A request on a downed plane or with an unreachable response is completed as lost. -/
  | requestLost (req : Nat)
  /-- Event LEASE_GRANT (R74): The home slice grants a near-atomic lease once no other cluster holds one. -/
  | leaseGrant (cluster : Nat) (line : Nat) (size : Nat)
  /-- Event LEASE_IDLE_RELEASE (R74): A lease unused for 1,024 interconnect cycles is released. -/
  | leaseIdleRelease (cluster : Nat) (line : Nat)
  /-- Event KICK (R357): A KICK write updates the accepted kick count or sets OVR. -/
  | kick (fn : Nat) (ring : Nat) (v : BitVec 64)
  /-- Event RCTL_WRITE (R356): A ring control write enabling the ring resets HEAD and the kick count. -/
  | rctlWrite (fn : Nat) (ring : Nat) (v : BitVec 64)
  /-- Event RING_RECORD_READ (R357): The front end reads a ring record and hands it to Almanac when its SEQTAG matches. -/
  | ringRecordRead (fn : Nat) (ring : Nat) (hostRec : BitVec 1024)
  /-- Event RING_STALE_TIMEOUT (R357): The 10 µs record wait expires, setting STALE and disabling the ring. -/
  | ringStaleTimeout (fn : Nat) (ring : Nat)
  /-- Event EVDATA_READ (R360): A host read of an event window, a SYSTEM-scope acquire. -/
  | evdataRead (fn : Nat) (win : Nat)
  /-- Event HOST_BAR2_READ (R361): A host read through BAR2 of device physical space. -/
  | hostBar2Read (fn : Nat) (addr : Nat) (size : Nat)
  /-- Event HOST_BAR2_WRITE (R361): A host write through BAR2 of device physical space. -/
  | hostBar2Write (fn : Nat) (addr : Nat) (size : Nat) (data : BitVec 64)
  /-- Event INVCMD (R367): A write of INVCMD starts a translation invalidation. -/
  | invcmd (v : BitVec 64)
  /-- Event INVALIDATION_DRAIN_DONE (R367): Every drain marker reaches its queue head and BUSY clears. -/
  | invalidationDrainDone
  /-- Event ATTCMD (R371): A write of ATTCMD requests an attestation report. -/
  | attcmd (v : BitVec 64)
  /-- Event ATTESTATION_REPORT_DONE (R371): The firmware writes the signed report and ATTSTAT reads DONE. -/
  | attestationReportDone
  /-- Event RSVBASE (R375): A write of RSVBASE resets the frame reserve head and tail. -/
  | rsvbase (v : BitVec 64)
  /-- Event RSVTAIL (R375): A write of RSVTAIL places frames into the reserve. -/
  | rsvtail (v : BitVec 64)
  /-- Event FDCMD (R399): A driver write of FDCMD ends the named fault domain. -/
  | fdcmd (v : BitVec 64)
  /-- Event CIRQCMD (R400): A driver write of CIRQCMD requests a crew interrupt. -/
  | cirqcmd (v : BitVec 64)
  /-- Event SECLIMIT_WRITE (R374): A secure write of a secure-range register pair, with LOCK making it read-only. -/
  | seclimitWrite (stack : Nat) (range : Nat) (limit : Bool) (sec : Bool) (v : BitVec 64)
  /-- Event EQTRIG (R439): A write of EQTRIG fires Equinox from software. -/
  | eqtrig (v : BitVec 64)
  /-- Event EQUINOX_BUFFER_DONE (R439): The snapshot buffer is written and EQDONE is set. -/
  | equinoxBufferDone
  /-- Event VIGIL_CLR (R436): A monitor control write with CLR resets its statistic registers. -/
  | vigilClr (m : Nat) (v : BitVec 64)
  /-- Event VIGIL_SAMPLE (R437): A monitor takes a sample into its minimum, maximum, count and histogram. -/
  | vigilSample (m : Nat) (v : Nat)
  /-- Event REGISTER_WRITE (R355): A write to a BAR0 register without behaviour of its own. -/
  | registerWrite (fn : Nat) (off : Nat) (v : BitVec 64)
  /-- Event I3C_HEALTH_READ (R442): The board management controller reads the health summary. -/
  | i3cHealthRead
  /-- Event BOOT (R370): At power-on die 0 verifies and measures firmware and brings up the package. -/
  | boot
  /-- Event THERMAL_TRIP (R19): A junction passes 115 °C and the package stops all issue. -/
  | thermalTrip (die : Nat)
  /-- Event POWER_WINDOW (R18): A 1 ms power window ends and the issue limit is set or released. -/
  | powerWindow (watts : Nat)
  /-- Event LINK_REPLAY (R426): A CRC error or sequence gap makes the sender replay from its retry buffer. -/
  | linkReplay (link : Nat)
  /-- Event LINK_RETRAIN (R426): Eight consecutive replays of one flit make the link retrain. -/
  | linkRetrain (link : Nat) (ok : Bool)
  /-- Event CROSSBAR_AGING (R338): A request waiting 256 crossbar cycles is treated as tag 0. -/
  | crossbarAging (die : Nat) (port : Nat) (input : Nat)
  /-- Event ERROR_WINDOW_END (R440): A classification window ends and the unit's counts return to zero. -/
  | errorWindowEnd (kind : Nat)
  /-- Event COPY_ENGINE_ERROR (R431): An internal copy-engine error ends its command with FAULT cause 0x0B. -/
  | copyEngineError (team : Nat) (q : Nat)
  /-- Event MATRIX_ENGINE_ERROR (R431): An internal matrix or reduction unit error ends the fault domains using it. -/
  | matrixEngineError (core : Nat)
  /-- Event LOAD_RESULT_RETURN (R238): The data of a local memory or scratchpad load returns after every lane has been served and is written into D, ending any wait on the pending load result. -/
  | loadResultReturn (crew : Nat) (reg : Nat)
  /-- Event REMOTE_ACKNOWLEDGEMENT (R244): The acknowledgement of a posted remote ST or RED reaches the issuing endpoint and frees the releases and held SO accesses that wait for it. -/
  | remoteAcknowledgement (req : Nat)
deriving DecidableEq, Repr

end Sys2Proof
end

