-- ==== Sys2Proof/WellFormed.lean ====
section
/-! DEFINITION. Well-formedness of an instruction as syntax: the field values that have words of their own (R150:
B = 0x8F is the two-word marker; R235: SCOPE is zero where it is not read; R408: an immediate send has no B), and
the ranges of the numbers that identify an event's unit. -/
namespace Sys2Proof

/-- SCOPE is read only where ORD is not 0; where it is not read it must be zero (R235). -/
def scopeRead (ord : BitVec 2) (scope : BitVec 3) : Bool := ord != 0#2 || scope == 0#3

/-- B of a one-word form is not the two-word marker (R150). -/
def notMarker (b : BitVec 8) : Bool := b != 0x8F#8

/-- The check on an instruction's fields. -/
def wellFormed (i : Instr) : Bool :=
  match i with
  | .iadd _ _ _ b => notMarker b
  | .iaddExt _ _ _ _ _ => true
  | .isub _ _ _ b => notMarker b
  | .isubExt _ _ _ _ _ => true
  | .imul _ _ _ b => notMarker b
  | .imulExt _ _ _ _ _ => true
  | .imulhs _ _ _ b => notMarker b
  | .imulhsExt _ _ _ _ _ => true
  | .imulhu _ _ _ b => notMarker b
  | .imulhuExt _ _ _ _ _ => true
  | .imad _ _ _ _ _ => true
  | .imin _ _ _ _ => true
  | .imax _ _ _ _ => true
  | .umin _ _ _ _ => true
  | .umax _ _ _ _ => true
  | .vand _ _ _ _ => true
  | .vor _ _ _ _ => true
  | .vxor _ _ _ _ => true
  | .vandn _ _ _ _ => true
  | .shl _ _ _ _ => true
  | .shr _ _ _ _ => true
  | .sar _ _ _ _ => true
  | .rotl _ _ _ _ => true
  | .popc _ _ _ => true
  | .clz _ _ _ => true
  | .brev _ _ _ => true
  | .bfx _ _ _ _ _ => true
  | .bfi _ _ _ _ _ => true
  | .bperm _ _ _ _ _ => true
  | .bitf _ _ _ _ _ _ _ => true
  | .iadd64 _ _ _ _ => true
  | .isub64 _ _ _ _ => true
  | .imulw _ _ _ _ => true
  | .icmp _ _ _ _ _ _ => true
  | .sel _ _ _ _ _ _ => true
  | .mov _ _ _ => true
  | .movi _ _ _ => true
  | .iaddi _ _ _ _ => true
  | .shli _ _ _ _ => true
  | .shri _ _ _ _ => true
  | .sari _ _ _ _ => true
  | .andi _ _ _ _ => true
  | .ori _ _ _ _ => true
  | .xori _ _ _ _ => true
  | .fadd _ _ _ b => notMarker b
  | .faddExt _ _ _ _ _ => true
  | .fsub _ _ _ b => notMarker b
  | .fsubExt _ _ _ _ _ => true
  | .fmul _ _ _ b => notMarker b
  | .fmulExt _ _ _ _ _ => true
  | .ffma _ _ _ b => notMarker b
  | .ffmaExt _ _ _ _ _ _ => true
  | .fmin _ _ _ b => notMarker b
  | .fminExt _ _ _ _ _ => true
  | .fmax _ _ _ b => notMarker b
  | .fmaxExt _ _ _ _ _ => true
  | .fminn _ _ _ b => notMarker b
  | .fminnExt _ _ _ _ _ => true
  | .fmaxn _ _ _ b => notMarker b
  | .fmaxnExt _ _ _ _ _ => true
  | .fcmp _ _ _ _ _ _ _ => true
  | .fclass _ _ _ => true
  | .fclassExt _ _ _ _ => true
  | .frcp _ _ _ => true
  | .frcpExt _ _ _ _ => true
  | .frsq _ _ _ => true
  | .frsqExt _ _ _ _ => true
  | .fexp2 _ _ _ => true
  | .fexp2Ext _ _ _ _ => true
  | .flog2 _ _ _ => true
  | .flog2Ext _ _ _ _ => true
  | .fsinpi _ _ _ => true
  | .fsinpiExt _ _ _ _ => true
  | .fcospi _ _ _ => true
  | .fcospiExt _ _ _ _ => true
  | .fsqrt _ _ _ => true
  | .fsqrtExt _ _ _ _ => true
  | .frnd _ _ _ => true
  | .frndExt _ _ _ _ => true
  | .cvt _ _ _ _ _ _ => true
  | .cvtsc _ _ _ _ _ _ _ => true
  | .pack _ _ _ _ _ _ => true
  | .unpk _ _ _ _ _ => true
  | .idot4 _ _ _ b => notMarker b
  | .idot4Ext _ _ _ _ _ _ => true
  | .fdot2 _ _ _ b => notMarker b
  | .fdot2Ext _ _ _ _ _ _ => true
  | .shfl _ _ _ b => notMarker b
  | .shflExt _ _ _ _ _ _ => true
  | .shflup _ _ _ b => notMarker b
  | .shflupExt _ _ _ _ _ _ => true
  | .shfldn _ _ _ b => notMarker b
  | .shfldnExt _ _ _ _ _ _ => true
  | .shflx _ _ _ b => notMarker b
  | .shflxExt _ _ _ _ _ _ => true
  | .lred _ _ _ _ _ => true
  | .lscan _ _ _ _ _ _ _ => true
  | .vote _ _ _ _ => true
  | .bcast _ _ _ _ _ => true
  | .rvsend _ _ _ => true
  | .rvrecv _ _ _ _ => true
  | .xchgx _ _ _ _ => true
  | .lnsadd _ _ _ _ => true
  | .lnsmul _ _ _ _ => true
  | .ld _ _ _ _ scope ord _ => scopeRead ord scope
  | .st _ _ _ _ scope ord _ => scopeRead ord scope
  | .lds _ _ _ _ _ _ _ => true
  | .sts _ _ _ _ _ _ _ => true
  | .atom _ _ _ _ _ scope ord _ _ => scopeRead ord scope
  | .red _ _ _ _ scope ord _ _ => scopeRead ord scope
  | .cas _ _ _ _ _ _ scope ord _ _ => scopeRead ord scope
  | .kvmap _ _ _ _ _ scope ord _ => scopeRead ord scope
  | .kvapp _ _ _ _ scope ord => scopeRead ord scope
  | .qadd _ _ _ => true
  | .qsub _ _ _ => true
  | .qmul _ _ _ => true
  | .qdiv _ _ _ => true
  | .qneg _ _ => true
  | .qenc _ _ _ => true
  | .qdec _ _ => true
  | .nop => true
  | .sadd _ _ _ _ => true
  | .ssub _ _ _ _ => true
  | .smul _ _ _ _ => true
  | .sand _ _ _ _ => true
  | .sor _ _ _ _ => true
  | .sxor _ _ _ _ => true
  | .sshl _ _ _ _ => true
  | .sshr _ _ _ _ => true
  | .ssar _ _ _ _ => true
  | .smin _ _ _ _ => true
  | .smax _ _ _ _ => true
  | .smov _ _ _ => true
  | .spopc _ _ _ => true
  | .sclz _ _ _ => true
  | .sffs _ _ _ => true
  | .saddi _ _ _ => true
  | .smovi _ _ _ => true
  | .smovl _ _ _ => true
  | .smovh _ _ _ => true
  | .scmp _ _ _ _ _ => true
  | .mfs _ _ _ => true
  | .mts _ _ => true
  | .mvtcTo _ _ => true
  | .mvtcFrom _ _ _ => true
  | .bra _ => true
  | .call _ => true
  | .brz _ _ => true
  | .brnz _ _ => true
  | .brany _ _ => true
  | .brall _ _ => true
  | .brnone _ _ => true
  | .loop _ _ => true
  | .ret _ => true
  | .jmpr _ _ _ => true
  | .exit => true
  | .exmand _ => true
  | .exmset _ => true
  | .trap _ => true
  | .tret => true
  | .ckpt => true
  | .rep _ _ _ _ _ => true
  | .mcall _ _ _ => true
  | .yield_ => true
  | .elect _ _ _ => true
  | .bar _ _ _ => true
  | .bararv _ _ _ => true
  | .barwt _ _ _ => true
  | .fence _ _ _ => true
  | .sfence _ _ _ => true
  | .qfence _ scope ord _ => scopeRead ord scope
  | .qpush _ _ => true
  | .qpop _ _ => true
  | .evset _ scope ord _ => scopeRead ord scope
  | .evclr _ scope ord _ => scopeRead ord scope
  | .evwait _ scope ord _ _ => scopeRead ord scope
  | .acqtok _ => true
  | .reltok _ => true
  | .tld _ _ _ _ _ scope ord _ _ _ => scopeRead ord scope
  | .tst _ _ _ _ _ scope ord _ _ _ => scopeRead ord scope
  | .tzero _ _ => true
  | .mma _ _ _ => true
  | .mmas _ _ _ _ _ => true
  | .mmam _ _ _ _ => true
  | .accrd _ _ _ _ => true
  | .accwr _ _ _ _ => true
  | .ttask _ _ _ scope ord _ => scopeRead ord scope
  | .tdesc _ _ _ _ scope ord _ => scopeRead ord scope
  | .remap _ _ _ _ scope ord _ => scopeRead ord scope
  | .cpy _ _ _ _ _ scope ord _ _ _ => scopeRead ord scope
  | .cpyTensor _ _ _ _ _ scope ord _ => scopeRead ord scope
  | .cpyacc _ _ _ _ _ _ scope ord _ _ _ => scopeRead ord scope
  | .cpydd _ _ _ _ _ scope ord _ _ => scopeRead ord scope
  | .gather _ _ _ scope ord _ _ _ => scopeRead ord scope
  | .mcast _ _ _ _ _ scope ord _ _ _ => scopeRead ord scope
  | .mcastTensor _ _ _ _ _ scope ord _ _ => scopeRead ord scope
  | .bclose => true
  | .bwait scope ord _ => scopeRead ord scope
  | .crmerge _ _ _ _ _ scope ord _ _ => scopeRead ord scope
  | .crfin _ _ _ _ _ scope ord _ _ => scopeRead ord scope
  | .cvopen _ _ _ scope ord => scopeRead ord scope
  | .cvbind _ _ scope ord _ _ => scopeRead ord scope
  | .cvsend _ b _ scope ord im _ _ => scopeRead ord scope && (im == 0#1 || b == 0x88#8)
  | .cvrecv _ _ _ scope ord _ => scopeRead ord scope
  | .cvchoose _ scope ord _ _ => scopeRead ord scope
  | .cvdeleg _ scope ord _ _ _ => scopeRead ord scope
  | .cvclose _ scope ord _ => scopeRead ord scope
  | .ttclr _ => true
  | .ttadd _ _ _ => true
  | .ttanc _ _ => true
  | .ttpos _ _ _ => true
  | .ttprune _ _ _ => true
  | .instructionFetchFault crew => decide (crew < 24576)
  | .chainAbandon crew => decide (crew < 24576)
  | .chainResume crew => decide (crew < 24576)
  | .pickerUrgent crew => decide (crew < 24576)
  | .handlerInstructionLimit crew => decide (crew < 24576)
  | .handlerWaitLimit crew => decide (crew < 24576)
  | .crewInterruptDelivery crew => decide (crew < 24576)
  | .teamRetire slot => decide (slot < 1536)
  | .evecWriteback _ => true
  | .almanacSchedule _ _ _ => true
  | .slotBind slot => decide (slot < 1536)
  | .slotRestore slot => decide (slot < 1536)
  | .slotPreempt slot => decide (slot < 1536)
  | .slotOpReserved slot => decide (slot < 1536)
  | .slotHoldUpdate slot _ _ => decide (slot < 1536)
  | .forcedSaveExpiry slot => decide (slot < 1536)
  | .saveComplete slot => decide (slot < 1536)
  | .faultDomainEnd _ _ => true
  | .unitFence core => decide (core < 768)
  | .granuleService crew _ => decide (crew < 24576)
  | .queueService crew => decide (crew < 24576)
  | .barrierRelease _ _ => true
  | .rendezvousMatch team _ => decide (team < 1536)
  | .xchgxPair _ _ => true
  | .remoteReply _ _ _ => true
  | .remoteRequestArrive _ _ _ _ _ _ _ _ _ _ => true
  | .requestLost _ => true
  | .leaseGrant cluster _ _ => decide (cluster < 96)
  | .leaseIdleRelease cluster _ => decide (cluster < 96)
  | .cowPath _ _ => true
  | .engineCommandStart team q => decide (team < 1536) && decide (q < 8)
  | .engineCommandComplete team q => decide (team < 1536) && decide (q < 8)
  | .matrixStep core _ => decide (core < 768)
  | .remapPass _ team q => decide (team < 1536) && decide (q < 8)
  | .tileTaskDispatch cluster _ => decide (cluster < 96)
  | .taskDependencePoll cluster _ => decide (cluster < 96)
  | .tileTaskComplete cluster _ => decide (cluster < 96)
  | .cpyaccContribution team q => decide (team < 1536) && decide (q < 8)
  | .mergeSessionMerge cluster _ _ => decide (cluster < 96)
  | .crfinComplete team q => decide (team < 1536) && decide (q < 8)
  | .cpyddPageStep team q => decide (team < 1536) && decide (q < 8)
  | .convHomeRequest _ => true
  | .convAccept conv => decide (conv < 4096)
  | .convDeliver _ => true
  | .kick fn ring _ => decide (fn < 2) && decide (ring < 8)
  | .rctlWrite fn ring _ => decide (fn < 2) && decide (ring < 8)
  | .ringRecordRead fn ring _ => decide (fn < 2) && decide (ring < 8)
  | .ringStaleTimeout fn ring => decide (fn < 2) && decide (ring < 8)
  | .evdataRead fn win => decide (fn < 2) && decide (win < 4)
  | .hostBar2Read fn _ _ => decide (fn < 2)
  | .hostBar2Write fn _ _ _ => decide (fn < 2)
  | .invcmd _ => true
  | .invalidationDrainDone => true
  | .attcmd _ => true
  | .attestationReportDone => true
  | .rsvbase _ => true
  | .rsvtail _ => true
  | .fdcmd _ => true
  | .cirqcmd _ => true
  | .seclimitWrite stack range _ _ _ => decide (stack < 8) && decide (range < 4)
  | .eqtrig _ => true
  | .equinoxBufferDone => true
  | .vigilClr m _ => decide (m < 32)
  | .vigilSample m _ => decide (m < 32)
  | .registerWrite fn _ _ => decide (fn < 2)
  | .i3cHealthRead => true
  | .boot => true
  | .thermalTrip die => decide (die < 8)
  | .powerWindow _ => true
  | .linkReplay _ => true
  | .linkRetrain _ _ => true
  | .crossbarAging die port _ => decide (die < 8) && decide (port < 72)
  | .errorWindowEnd _ => true
  | .copyEngineError team q => decide (team < 1536) && decide (q < 8)
  | .matrixEngineError core => decide (core < 768)
  | .loadResultReturn crew _ => decide (crew < 24576)
  | .remoteAcknowledgement _ => true

/-- A well-formed instruction. -/
abbrev WellFormed (i : Instr) : Prop := wellFormed i = true

end Sys2Proof
end

