-- ==== Sys2Proof/Decode.lean ====
section
/-! DEFINITION. The decoder of spec/07 (R149 to R173), total on every word sequence and rejecting by name, and
after it the encoder written from the same tables. -/
namespace Sys2Proof

/-- Bits lo up to lo + n - 1 of a word (R1). -/
def bits (w : BitVec 32) (lo n : Nat) : BitVec n := w.extractLsb' lo n

/-- Why a word sequence is no instruction (R173, stage 1 of R401). Each is an illegal instruction. -/
inductive Reject where
  /-- An opcode that Tables 7.9 and 7.10 do not list. -/
  | unassigned
  /-- A nonzero reserved bit, or an unused field without its required value. -/
  | reservedField
  /-- NW = 1 on an instruction that pushes nothing (R158). -/
  | nwWithoutPush
  /-- SCOPE nonzero where it is not read (R235). -/
  | scopeUnread
  /-- A first or second word at or past the end of the text (R61). -/
  | pastText
deriving DecidableEq, Repr

/-- The fields of a first word (Table 7.1). -/
structure FirstWord where
  word : BitVec 32
  op : BitVec 8
  nw : Bool
  d : BitVec 7
  a : BitVec 8
  b : BitVec 8
  imm16 : BitVec 16
  off24 : BitVec 24
deriving DecidableEq, Repr

/-- Cut a first word into its fields (R149). -/
def FirstWord.of (w : BitVec 32) : FirstWord :=
  { word := w, op := bits w 24 8, nw := bits w 23 1 == 1#1, d := bits w 16 7, a := bits w 8 8, b := bits w 0 8
    imm16 := bits w 0 16, off24 := bits w 0 24 }

/-- What a first word says: an instruction of one word, or one that needs its extension word E. -/
inductive Form where
  | one (i : Except Reject Instr)
  | two (i : BitVec 32 → Except Reject Instr)

/-- Reject with the reason r unless the condition holds. -/
def req (c : Bool) (r : Reject) (k : Except Reject Instr) : Except Reject Instr := if c then k else .error r

/-- The opcodes 0x00 to 0x0F of the first byte (V-set, Table 7.9). -/
def decodeRow0 (n : Nat) (f : FirstWord) : Form :=
  match n with
  | 0 => if f.b == 0x8F#8 then .two (fun e => req (bits e 24 8 == 0x88#8 && bits e 20 4 == 0#4 && bits e 8 8 == 0#8) .reservedField (.ok (.iaddExt f.nw f.d f.a (bits e 16 4) (bits e 0 8))))
    else .one (.ok (.iadd f.nw f.d f.a f.b))
  | 1 => if f.b == 0x8F#8 then .two (fun e => req (bits e 24 8 == 0x88#8 && bits e 20 4 == 0#4 && bits e 8 8 == 0#8) .reservedField (.ok (.isubExt f.nw f.d f.a (bits e 16 4) (bits e 0 8))))
    else .one (.ok (.isub f.nw f.d f.a f.b))
  | 2 => if f.b == 0x8F#8 then .two (fun e => req (bits e 24 8 == 0x88#8 && bits e 20 4 == 0#4 && bits e 8 8 == 0#8) .reservedField (.ok (.imulExt f.nw f.d f.a (bits e 16 4) (bits e 0 8))))
    else .one (.ok (.imul f.nw f.d f.a f.b))
  | 3 => if f.b == 0x8F#8 then .two (fun e => req (bits e 24 8 == 0x88#8 && bits e 20 4 == 0#4 && bits e 8 8 == 0#8) .reservedField (.ok (.imulhsExt f.nw f.d f.a (bits e 16 4) (bits e 0 8))))
    else .one (.ok (.imulhs f.nw f.d f.a f.b))
  | 4 => if f.b == 0x8F#8 then .two (fun e => req (bits e 24 8 == 0x88#8 && bits e 20 4 == 0#4 && bits e 8 8 == 0#8) .reservedField (.ok (.imulhuExt f.nw f.d f.a (bits e 16 4) (bits e 0 8))))
    else .one (.ok (.imulhu f.nw f.d f.a f.b))
  | 5 => .two (fun e => req (bits e 0 24 == 0#24) .reservedField (.ok (.imad f.nw f.d f.a f.b (bits e 24 8))))
  | 6 => .one (.ok (.imin f.nw f.d f.a f.b))
  | 7 => .one (.ok (.imax f.nw f.d f.a f.b))
  | 8 => .one (.ok (.umin f.nw f.d f.a f.b))
  | 9 => .one (.ok (.umax f.nw f.d f.a f.b))
  | 10 => .one (.ok (.vand f.nw f.d f.a f.b))
  | 11 => .one (.ok (.vor f.nw f.d f.a f.b))
  | 12 => .one (.ok (.vxor f.nw f.d f.a f.b))
  | 13 => .one (.ok (.vandn f.nw f.d f.a f.b))
  | 14 => .one (.ok (.shl f.nw f.d f.a f.b))
  | 15 => .one (.ok (.shr f.nw f.d f.a f.b))
  | _ => .one (.error .unassigned)

/-- The opcodes 0x10 to 0x1F of the first byte (V-set, Table 7.9). -/
def decodeRow1 (n : Nat) (f : FirstWord) : Form :=
  match n with
  | 0 => .one (.ok (.sar f.nw f.d f.a f.b))
  | 1 => .one (.ok (.rotl f.nw f.d f.a f.b))
  | 2 => .one (req (f.b == 0x88#8) .reservedField (.ok (.popc f.nw f.d f.a)))
  | 3 => .one (req (f.b == 0x88#8) .reservedField (.ok (.clz f.nw f.d f.a)))
  | 4 => .one (req (f.b == 0x88#8) .reservedField (.ok (.brev f.nw f.d f.a)))
  | 5 => .two (fun e => req (bits e 24 8 == 0x88#8 && bits e 1 23 == 0#23) .reservedField (.ok (.bfx f.nw f.d f.a f.b (bits e 0 1))))
  | 6 => .two (fun e => req (bits e 0 24 == 0#24) .reservedField (.ok (.bfi f.nw f.d f.a f.b (bits e 24 8))))
  | 7 => .two (fun e => req (bits e 0 24 == 0#24) .reservedField (.ok (.bperm f.nw f.d f.a f.b (bits e 24 8))))
  | 8 => .two (fun e => req (bits e 8 16 == 0#16) .reservedField (.ok (.bitf f.nw f.d f.a f.b (bits e 24 8) (bits e 4 4) (bits e 0 4))))
  | 9 => .one (.ok (.iadd64 f.nw f.d f.a f.b))
  | 10 => .one (.ok (.isub64 f.nw f.d f.a f.b))
  | 11 => .one (.ok (.imulw f.nw f.d f.a f.b))
  | 12 => .two (fun e => req (bits e 0 20 == 0#20) .reservedField (.ok (.icmp f.nw f.d f.a f.b (bits e 24 8) (bits e 20 4))))
  | 13 => .two (fun e => req (bits e 1 23 == 0#23) .reservedField (.ok (.sel f.nw f.d f.a f.b (bits e 24 8) (bits e 0 1))))
  | 14 => .one (req (f.b == 0x88#8) .reservedField (.ok (.mov f.nw f.d f.a)))
  | 15 => .two (fun e => req (f.a == 0x88#8 && f.b == 0x88#8) .reservedField (.ok (.movi f.nw f.d e)))
  | _ => .one (.error .unassigned)

/-- The opcodes 0x20 to 0x2F of the first byte (V-set, Table 7.9). -/
def decodeRow2 (n : Nat) (f : FirstWord) : Form :=
  match n with
  | 0 => .one (.ok (.iaddi f.nw f.d f.a f.b))
  | 1 => .one (.ok (.shli f.nw f.d f.a f.b))
  | 2 => .one (.ok (.shri f.nw f.d f.a f.b))
  | 3 => .one (.ok (.sari f.nw f.d f.a f.b))
  | 4 => .one (.ok (.andi f.nw f.d f.a f.b))
  | 5 => .one (.ok (.ori f.nw f.d f.a f.b))
  | 6 => .one (.ok (.xori f.nw f.d f.a f.b))
  | 8 => if f.b == 0x8F#8 then .two (fun e => req (bits e 24 8 == 0x88#8 && bits e 20 4 == 0#4 && bits e 8 8 == 0#8) .reservedField (.ok (.faddExt f.nw f.d f.a (bits e 16 4) (bits e 0 8))))
    else .one (.ok (.fadd f.nw f.d f.a f.b))
  | 9 => if f.b == 0x8F#8 then .two (fun e => req (bits e 24 8 == 0x88#8 && bits e 20 4 == 0#4 && bits e 8 8 == 0#8) .reservedField (.ok (.fsubExt f.nw f.d f.a (bits e 16 4) (bits e 0 8))))
    else .one (.ok (.fsub f.nw f.d f.a f.b))
  | 10 => if f.b == 0x8F#8 then .two (fun e => req (bits e 24 8 == 0x88#8 && bits e 20 4 == 0#4 && bits e 8 8 == 0#8) .reservedField (.ok (.fmulExt f.nw f.d f.a (bits e 16 4) (bits e 0 8))))
    else .one (.ok (.fmul f.nw f.d f.a f.b))
  | 11 => if f.b == 0x8F#8 then .two (fun e => req (bits e 20 4 == 0#4 && bits e 8 8 == 0#8) .reservedField (.ok (.ffmaExt f.nw f.d f.a (bits e 24 8) (bits e 16 4) (bits e 0 8))))
    else .one (.ok (.ffma f.nw f.d f.a f.b))
  | 12 => if f.b == 0x8F#8 then .two (fun e => req (bits e 24 8 == 0x88#8 && bits e 20 4 == 0#4 && bits e 8 8 == 0#8) .reservedField (.ok (.fminExt f.nw f.d f.a (bits e 16 4) (bits e 0 8))))
    else .one (.ok (.fmin f.nw f.d f.a f.b))
  | 13 => if f.b == 0x8F#8 then .two (fun e => req (bits e 24 8 == 0x88#8 && bits e 20 4 == 0#4 && bits e 8 8 == 0#8) .reservedField (.ok (.fmaxExt f.nw f.d f.a (bits e 16 4) (bits e 0 8))))
    else .one (.ok (.fmax f.nw f.d f.a f.b))
  | 14 => if f.b == 0x8F#8 then .two (fun e => req (bits e 24 8 == 0x88#8 && bits e 20 4 == 0#4 && bits e 8 8 == 0#8) .reservedField (.ok (.fminnExt f.nw f.d f.a (bits e 16 4) (bits e 0 8))))
    else .one (.ok (.fminn f.nw f.d f.a f.b))
  | 15 => if f.b == 0x8F#8 then .two (fun e => req (bits e 24 8 == 0x88#8 && bits e 20 4 == 0#4 && bits e 8 8 == 0#8) .reservedField (.ok (.fmaxnExt f.nw f.d f.a (bits e 16 4) (bits e 0 8))))
    else .one (.ok (.fmaxn f.nw f.d f.a f.b))
  | _ => .one (.error .unassigned)

/-- The opcodes 0x30 to 0x3F of the first byte (V-set, Table 7.9). -/
def decodeRow3 (n : Nat) (f : FirstWord) : Form :=
  match n with
  | 0 => .two (fun e => req (bits e 0 16 == 0#16) .reservedField (.ok (.fcmp f.nw f.d f.a f.b (bits e 24 8) (bits e 20 4) (bits e 16 4))))
  | 1 => if f.b == 0x8F#8 then .two (fun e => req (bits e 24 8 == 0x88#8 && bits e 20 4 == 0#4 && bits e 8 8 == 0#8 && bits e 0 8 == 136#8) .reservedField (.ok (.fclassExt f.nw f.d f.a (bits e 16 4))))
    else .one (req (f.b == 0x88#8) .reservedField (.ok (.fclass f.nw f.d f.a)))
  | 2 => if f.b == 0x8F#8 then .two (fun e => req (bits e 24 8 == 0x88#8 && bits e 20 4 == 0#4 && bits e 8 8 == 0#8 && bits e 0 8 == 136#8) .reservedField (.ok (.frcpExt f.nw f.d f.a (bits e 16 4))))
    else .one (req (f.b == 0x88#8) .reservedField (.ok (.frcp f.nw f.d f.a)))
  | 3 => if f.b == 0x8F#8 then .two (fun e => req (bits e 24 8 == 0x88#8 && bits e 20 4 == 0#4 && bits e 8 8 == 0#8 && bits e 0 8 == 136#8) .reservedField (.ok (.frsqExt f.nw f.d f.a (bits e 16 4))))
    else .one (req (f.b == 0x88#8) .reservedField (.ok (.frsq f.nw f.d f.a)))
  | 4 => if f.b == 0x8F#8 then .two (fun e => req (bits e 24 8 == 0x88#8 && bits e 20 4 == 0#4 && bits e 8 8 == 0#8 && bits e 0 8 == 136#8) .reservedField (.ok (.fexp2Ext f.nw f.d f.a (bits e 16 4))))
    else .one (req (f.b == 0x88#8) .reservedField (.ok (.fexp2 f.nw f.d f.a)))
  | 5 => if f.b == 0x8F#8 then .two (fun e => req (bits e 24 8 == 0x88#8 && bits e 20 4 == 0#4 && bits e 8 8 == 0#8 && bits e 0 8 == 136#8) .reservedField (.ok (.flog2Ext f.nw f.d f.a (bits e 16 4))))
    else .one (req (f.b == 0x88#8) .reservedField (.ok (.flog2 f.nw f.d f.a)))
  | 6 => if f.b == 0x8F#8 then .two (fun e => req (bits e 24 8 == 0x88#8 && bits e 20 4 == 0#4 && bits e 8 8 == 0#8 && bits e 0 8 == 136#8) .reservedField (.ok (.fsinpiExt f.nw f.d f.a (bits e 16 4))))
    else .one (req (f.b == 0x88#8) .reservedField (.ok (.fsinpi f.nw f.d f.a)))
  | 7 => if f.b == 0x8F#8 then .two (fun e => req (bits e 24 8 == 0x88#8 && bits e 20 4 == 0#4 && bits e 8 8 == 0#8 && bits e 0 8 == 136#8) .reservedField (.ok (.fcospiExt f.nw f.d f.a (bits e 16 4))))
    else .one (req (f.b == 0x88#8) .reservedField (.ok (.fcospi f.nw f.d f.a)))
  | 8 => if f.b == 0x8F#8 then .two (fun e => req (bits e 24 8 == 0x88#8 && bits e 20 4 == 0#4 && bits e 8 8 == 0#8 && bits e 0 8 == 136#8) .reservedField (.ok (.fsqrtExt f.nw f.d f.a (bits e 16 4))))
    else .one (req (f.b == 0x88#8) .reservedField (.ok (.fsqrt f.nw f.d f.a)))
  | 9 => if f.b == 0x8F#8 then .two (fun e => req (bits e 24 8 == 0x88#8 && bits e 20 4 == 0#4 && bits e 8 8 == 0#8 && bits e 0 8 == 136#8) .reservedField (.ok (.frndExt f.nw f.d f.a (bits e 16 4))))
    else .one (req (f.b == 0x88#8) .reservedField (.ok (.frnd f.nw f.d f.a)))
  | 10 => .two (fun e => req (f.b == 0x88#8 && bits e 24 8 == 0x88#8 && bits e 20 4 == 0#4 && bits e 7 9 == 0#9) .reservedField (.ok (.cvt f.nw f.d f.a (bits e 16 4) (bits e 4 3) (bits e 0 4))))
  | 11 => .two (fun e => req (bits e 24 8 == 0x88#8 && bits e 20 4 == 0#4 && bits e 7 9 == 0#9) .reservedField (.ok (.cvtsc f.nw f.d f.a f.b (bits e 16 4) (bits e 4 3) (bits e 0 4))))
  | 12 => .two (fun e => req (bits e 24 8 == 0x88#8 && bits e 20 4 == 0#4 && bits e 3 13 == 0#13) .reservedField (.ok (.pack f.nw f.d f.a f.b (bits e 16 4) (bits e 0 3))))
  | 13 => .two (fun e => req (f.b == 0x88#8 && bits e 24 8 == 0x88#8 && bits e 20 4 == 0#4 && bits e 3 13 == 0#13) .reservedField (.ok (.unpk f.nw f.d f.a (bits e 16 4) (bits e 0 3))))
  | 14 => if f.b == 0x8F#8 then .two (fun e => req (bits e 20 4 == 0#4 && bits e 8 8 == 0#8) .reservedField (.ok (.idot4Ext f.nw f.d f.a (bits e 24 8) (bits e 16 4) (bits e 0 8))))
    else .one (.ok (.idot4 f.nw f.d f.a f.b))
  | 15 => if f.b == 0x8F#8 then .two (fun e => req (bits e 20 4 == 0#4 && bits e 8 8 == 0#8) .reservedField (.ok (.fdot2Ext f.nw f.d f.a (bits e 24 8) (bits e 16 4) (bits e 0 8))))
    else .one (.ok (.fdot2 f.nw f.d f.a f.b))
  | _ => .one (.error .unassigned)

/-- The opcodes 0x40 to 0x4F of the first byte (V-set, Table 7.9). -/
def decodeRow4 (n : Nat) (f : FirstWord) : Form :=
  match n with
  | 0 => if f.b == 0x8F#8 then .two (fun e => req (bits e 20 4 == 0#4 && bits e 8 8 == 0#8) .reservedField (.ok (.shflExt f.nw f.d f.a (bits e 24 8) (bits e 16 4) (bits e 0 8))))
    else .one (.ok (.shfl f.nw f.d f.a f.b))
  | 1 => if f.b == 0x8F#8 then .two (fun e => req (bits e 20 4 == 0#4 && bits e 8 8 == 0#8) .reservedField (.ok (.shflupExt f.nw f.d f.a (bits e 24 8) (bits e 16 4) (bits e 0 8))))
    else .one (.ok (.shflup f.nw f.d f.a f.b))
  | 2 => if f.b == 0x8F#8 then .two (fun e => req (bits e 20 4 == 0#4 && bits e 8 8 == 0#8) .reservedField (.ok (.shfldnExt f.nw f.d f.a (bits e 24 8) (bits e 16 4) (bits e 0 8))))
    else .one (.ok (.shfldn f.nw f.d f.a f.b))
  | 3 => if f.b == 0x8F#8 then .two (fun e => req (bits e 20 4 == 0#4 && bits e 8 8 == 0#8) .reservedField (.ok (.shflxExt f.nw f.d f.a (bits e 24 8) (bits e 16 4) (bits e 0 8))))
    else .one (.ok (.shflx f.nw f.d f.a f.b))
  | 4 => .two (fun e => req (f.b == 0x88#8 && bits e 24 8 == 0x88#8 && bits e 20 4 == 0#4 && bits e 4 12 == 0#12) .reservedField (.ok (.lred f.nw f.d f.a (bits e 16 4) (bits e 0 4))))
  | 5 => .two (fun e => req (f.b == 0x88#8 && bits e 20 4 == 0#4 && bits e 5 11 == 0#11) .reservedField (.ok (.lscan f.nw f.d f.a (bits e 24 8) (bits e 16 4) (bits e 4 1) (bits e 0 4))))
  | 6 => .two (fun e => req (f.b == 0x88#8 && bits e 24 8 == 0x88#8 && bits e 2 22 == 0#22) .reservedField (.ok (.vote f.nw f.d f.a (bits e 0 2))))
  | 7 => .two (fun e => req (bits e 0 24 == 0#24) .reservedField (.ok (.bcast f.nw f.d f.a f.b (bits e 24 8))))
  | 8 => .two (fun e => req (!f.nw) .nwWithoutPush (req (f.d == 0#7 && f.b == 0x88#8 && bits e 24 8 == 0x88#8 && bits e 7 17 == 0#17) .reservedField (.ok (.rvsend f.a (bits e 4 3) (bits e 0 4)))))
  | 9 => .two (fun e => req (!f.nw) .nwWithoutPush (req (f.a == 0x88#8 && f.b == 0x88#8 && bits e 7 17 == 0#17) .reservedField (.ok (.rvrecv f.d (bits e 24 8) (bits e 4 3) (bits e 0 4)))))
  | 10 => .two (fun e => req (!f.nw) .nwWithoutPush (req (f.b == 0x88#8 && bits e 24 8 == 0x88#8 && bits e 10 14 == 0#14) .reservedField (.ok (.xchgx f.d f.a (bits e 8 2) (bits e 0 8)))))
  | 11 => .one (.ok (.lnsadd f.nw f.d f.a f.b))
  | 12 => .one (.ok (.lnsmul f.nw f.d f.a f.b))
  | _ => .one (.error .unassigned)

/-- The opcodes 0x50 to 0x5F of the first byte (V-set, Table 7.9). -/
def decodeRow5 (n : Nat) (f : FirstWord) : Form :=
  match n with
  | 0 => .two (fun e => req (!f.nw) .nwWithoutPush (req (f.b == 0x88#8 && bits e 24 8 == 0x88#8) .reservedField (req (scopeRead (bits e 11 2) (bits e 13 3)) .scopeUnread (.ok (.ld f.d f.a (bits e 20 4) (bits e 16 4) (bits e 13 3) (bits e 11 2) (bits e 0 11))))))
  | 1 => .two (fun e => req (!f.nw) .nwWithoutPush (req (f.d == 0#7 && bits e 24 8 == 0x88#8) .reservedField (req (scopeRead (bits e 11 2) (bits e 13 3)) .scopeUnread (.ok (.st f.a f.b (bits e 20 4) (bits e 16 4) (bits e 13 3) (bits e 11 2) (bits e 0 11))))))
  | 2 => .two (fun e => req (!f.nw) .nwWithoutPush (req (f.b == 0x88#8 && bits e 24 8 == 0x88#8 && bits e 11 1 == 0#1) .reservedField (.ok (.lds f.d f.a (bits e 20 4) (bits e 16 4) (bits e 14 2) (bits e 12 2) (bits e 0 11)))))
  | 3 => .two (fun e => req (!f.nw) .nwWithoutPush (req (f.d == 0#7 && bits e 24 8 == 0x88#8 && bits e 11 1 == 0#1) .reservedField (.ok (.sts f.a f.b (bits e 20 4) (bits e 16 4) (bits e 14 2) (bits e 12 2) (bits e 0 11)))))
  | 4 => .two (fun e => req (!f.nw) .nwWithoutPush (req (bits e 24 8 == 0x88#8) .reservedField (req (scopeRead (bits e 11 2) (bits e 13 3)) .scopeUnread (.ok (.atom f.d f.a f.b (bits e 20 4) (bits e 16 4) (bits e 13 3) (bits e 11 2) (bits e 6 5) (bits e 0 6))))))
  | 5 => .two (fun e => req (!f.nw) .nwWithoutPush (req (f.d == 0#7 && bits e 24 8 == 0x88#8) .reservedField (req (scopeRead (bits e 11 2) (bits e 13 3)) .scopeUnread (.ok (.red f.a f.b (bits e 20 4) (bits e 16 4) (bits e 13 3) (bits e 11 2) (bits e 6 5) (bits e 0 6))))))
  | 6 => .two (fun e => req (!f.nw) .nwWithoutPush (req (bits e 6 4 == 0#4) .reservedField (req (scopeRead (bits e 11 2) (bits e 13 3)) .scopeUnread (.ok (.cas f.d f.a f.b (bits e 24 8) (bits e 20 4) (bits e 16 4) (bits e 13 3) (bits e 11 2) (bits e 10 1) (bits e 0 6))))))
  | 7 => .two (fun e => req (!f.nw) .nwWithoutPush (req (bits e 16 4 == 0#4 && bits e 1 10 == 0#10) .reservedField (req (scopeRead (bits e 11 2) (bits e 13 3)) .scopeUnread (.ok (.kvmap f.d f.a f.b (bits e 24 8) (bits e 20 4) (bits e 13 3) (bits e 11 2) (bits e 0 1))))))
  | 8 => .two (fun e => req (!f.nw) .nwWithoutPush (req (f.d == 0#7 && bits e 16 4 == 0#4 && bits e 0 11 == 0#11) .reservedField (req (scopeRead (bits e 11 2) (bits e 13 3)) .scopeUnread (.ok (.kvapp f.a f.b (bits e 24 8) (bits e 20 4) (bits e 13 3) (bits e 11 2))))))
  | _ => .one (.error .unassigned)

/-- The opcodes 0x60 to 0x6F of the first byte (V-set, Table 7.9). -/
def decodeRow6 (n : Nat) (f : FirstWord) : Form :=
  match n with
  | 0 => .one (req (!f.nw) .nwWithoutPush (.ok (.qadd f.d f.a f.b)))
  | 1 => .one (req (!f.nw) .nwWithoutPush (.ok (.qsub f.d f.a f.b)))
  | 2 => .one (req (!f.nw) .nwWithoutPush (.ok (.qmul f.d f.a f.b)))
  | 3 => .one (req (!f.nw) .nwWithoutPush (.ok (.qdiv f.d f.a f.b)))
  | 4 => .one (req (!f.nw) .nwWithoutPush (req (f.b == 0x88#8) .reservedField (.ok (.qneg f.d f.a))))
  | 5 => .one (req (!f.nw) .nwWithoutPush (.ok (.qenc f.d f.a f.b)))
  | 6 => .one (req (!f.nw) .nwWithoutPush (req (f.b == 0x88#8) .reservedField (.ok (.qdec f.d f.a))))
  | _ => .one (.error .unassigned)

/-- The opcodes 0x80 to 0x8F of the first byte (S-set, Table 7.10). -/
def decodeRow8 (n : Nat) (f : FirstWord) : Form :=
  match n with
  | 0 => .one (req (!f.nw) .nwWithoutPush (req (f.d == 0#7 && f.a == 0x00#8 && f.b == 0x00#8) .reservedField (.ok .nop)))
  | 1 => .one (.ok (.sadd f.nw f.d f.a f.b))
  | 2 => .one (.ok (.ssub f.nw f.d f.a f.b))
  | 3 => .one (.ok (.smul f.nw f.d f.a f.b))
  | 4 => .one (.ok (.sand f.nw f.d f.a f.b))
  | 5 => .one (.ok (.sor f.nw f.d f.a f.b))
  | 6 => .one (.ok (.sxor f.nw f.d f.a f.b))
  | 7 => .one (.ok (.sshl f.nw f.d f.a f.b))
  | 8 => .one (.ok (.sshr f.nw f.d f.a f.b))
  | 9 => .one (.ok (.ssar f.nw f.d f.a f.b))
  | 10 => .one (.ok (.smin f.nw f.d f.a f.b))
  | 11 => .one (.ok (.smax f.nw f.d f.a f.b))
  | 12 => .one (req (f.b == 0x88#8) .reservedField (.ok (.smov f.nw f.d f.a)))
  | 13 => .one (req (f.b == 0x88#8) .reservedField (.ok (.spopc f.nw f.d f.a)))
  | 14 => .one (req (f.b == 0x88#8) .reservedField (.ok (.sclz f.nw f.d f.a)))
  | 15 => .one (req (f.b == 0x88#8) .reservedField (.ok (.sffs f.nw f.d f.a)))
  | _ => .one (.error .unassigned)

/-- The opcodes 0x90 to 0x9F of the first byte (S-set, Table 7.10). -/
def decodeRow9 (n : Nat) (f : FirstWord) : Form :=
  match n with
  | 0 => .one (.ok (.saddi f.nw f.d f.imm16))
  | 1 => .one (.ok (.smovi f.nw f.d f.imm16))
  | 2 => .one (.ok (.smovl f.nw f.d f.imm16))
  | 3 => .one (.ok (.smovh f.nw f.d f.imm16))
  | 4 => .two (fun e => req (bits e 24 8 == 0x88#8 && bits e 0 20 == 0#20) .reservedField (.ok (.scmp f.nw f.d f.a f.b (bits e 20 4))))
  | 5 => .one (.ok (.mfs f.nw f.d f.imm16))
  | 6 => .one (req (!f.nw) .nwWithoutPush (.ok (.mts f.d f.imm16)))
  | 7 => .two (fun e => if bits e 0 1 == 0#1 then req (!f.nw) .nwWithoutPush (req (f.b == 0x88#8 && bits e 24 8 == 0x88#8 && bits e 0 24 == 0#24) .reservedField (.ok (.mvtcTo f.d f.a)))
    else req (f.b == 0x88#8 && bits e 24 8 == 0x88#8 && bits e 1 23 == 0#23 && bits e 0 1 == 1#1) .reservedField (.ok (.mvtcFrom f.nw f.d f.a)))
  | _ => .one (.error .unassigned)

/-- The opcodes 0xA0 to 0xAF of the first byte (S-set, Table 7.10). -/
def decodeRowA (n : Nat) (f : FirstWord) : Form :=
  match n with
  | 0 => .one (.ok (.bra (f.off24)))
  | 1 => .one (.ok (.call (f.off24)))
  | 2 => .one (req (!f.nw) .nwWithoutPush (.ok (.brz f.d f.imm16)))
  | 3 => .one (req (!f.nw) .nwWithoutPush (.ok (.brnz f.d f.imm16)))
  | 4 => .one (req (!f.nw) .nwWithoutPush (.ok (.brany f.d f.imm16)))
  | 5 => .one (req (!f.nw) .nwWithoutPush (.ok (.brall f.d f.imm16)))
  | 6 => .one (req (!f.nw) .nwWithoutPush (.ok (.brnone f.d f.imm16)))
  | 7 => .one (req (!f.nw) .nwWithoutPush (.ok (.loop f.d f.imm16)))
  | 8 => .one (req (!f.nw) .nwWithoutPush (req (f.d == 0#7 && f.b == 0x88#8) .reservedField (.ok (.ret f.a))))
  | 9 => .one (req (f.b == 0x88#8) .reservedField (.ok (.jmpr f.nw f.d f.a)))
  | 10 => .one (req (!f.nw) .nwWithoutPush (req (f.d == 0#7 && f.a == 0x88#8 && f.b == 0x88#8) .reservedField (.ok .exit)))
  | 11 => .one (req (!f.nw) .nwWithoutPush (req (f.d == 0#7 && f.b == 0x88#8) .reservedField (.ok (.exmand f.a))))
  | 12 => .one (req (!f.nw) .nwWithoutPush (req (f.d == 0#7 && f.b == 0x88#8) .reservedField (.ok (.exmset f.a))))
  | 13 => .one (req (!f.nw) .nwWithoutPush (req (f.d == 0#7) .reservedField (.ok (.trap f.imm16))))
  | 14 => .one (req (!f.nw) .nwWithoutPush (req (f.d == 0#7 && f.a == 0x88#8 && f.b == 0x88#8) .reservedField (.ok .tret)))
  | 15 => .one (req (!f.nw) .nwWithoutPush (req (f.d == 0#7 && f.a == 0x88#8 && f.b == 0x88#8) .reservedField (.ok .ckpt)))
  | _ => .one (.error .unassigned)

/-- The opcodes 0xB0 to 0xBF of the first byte (S-set, Table 7.10). -/
def decodeRowB (n : Nat) (f : FirstWord) : Form :=
  match n with
  | 0 => .one (req (!f.nw) .nwWithoutPush (req (bits f.word 0 12 == 0#12) .reservedField (.ok (.rep (bits f.word 17 6) (bits f.word 16 1) (bits f.word 15 1) (bits f.word 14 1) (bits f.word 12 2)))))
  | 1 => .one (req (!f.nw) .nwWithoutPush (.ok (.mcall f.d f.a f.b)))
  | 2 => .one (req (!f.nw) .nwWithoutPush (req (f.d == 0#7 && f.a == 0x88#8 && f.b == 0x88#8) .reservedField (.ok .yield_)))
  | 3 => .one (req (f.b == 0x88#8) .reservedField (.ok (.elect f.nw f.d f.a)))
  | 8 => .two (fun e => req (!f.nw) .nwWithoutPush (req (f.d == 0#7 && f.a == 0x88#8 && f.b == 0x88#8 && bits e 24 8 == 0x88#8 && bits e 16 8 == 0#8 && bits e 4 7 == 0#7) .reservedField (.ok (.bar (bits e 13 3) (bits e 11 2) (bits e 0 4)))))
  | 9 => .two (fun e => req (!f.nw) .nwWithoutPush (req (f.d == 0#7 && f.a == 0x88#8 && f.b == 0x88#8 && bits e 24 8 == 0x88#8 && bits e 16 8 == 0#8 && bits e 4 7 == 0#7) .reservedField (.ok (.bararv (bits e 13 3) (bits e 11 2) (bits e 0 4)))))
  | 10 => .two (fun e => req (!f.nw) .nwWithoutPush (req (f.d == 0#7 && f.a == 0x88#8 && f.b == 0x88#8 && bits e 24 8 == 0x88#8 && bits e 16 8 == 0#8 && bits e 4 7 == 0#7) .reservedField (.ok (.barwt (bits e 13 3) (bits e 11 2) (bits e 0 4)))))
  | 11 => .two (fun e => req (!f.nw) .nwWithoutPush (req (f.d == 0#7 && f.a == 0x88#8 && f.b == 0x88#8 && bits e 24 8 == 0x88#8 && bits e 16 4 == 0#4 && bits e 0 11 == 0#11) .reservedField (.ok (.fence (bits e 20 4) (bits e 13 3) (bits e 11 2)))))
  | 12 => .two (fun e => req (!f.nw) .nwWithoutPush (req (f.d == 0#7 && f.b == 0x88#8 && bits e 24 8 == 0x88#8 && bits e 16 8 == 0#8 && bits e 0 11 == 0#11) .reservedField (.ok (.sfence f.a (bits e 13 3) (bits e 11 2)))))
  | 13 => .two (fun e => req (!f.nw) .nwWithoutPush (req (f.a == 0x88#8 && f.b == 0x88#8 && bits e 24 8 == 0x88#8 && bits e 16 8 == 0#8 && bits e 8 3 == 0#3) .reservedField (req (scopeRead (bits e 11 2) (bits e 13 3)) .scopeUnread (.ok (.qfence f.d (bits e 13 3) (bits e 11 2) (bits e 0 8))))))
  | 14 => .one (req (!f.nw) .nwWithoutPush (req (f.d == 0#7) .reservedField (.ok (.qpush f.a f.b))))
  | 15 => .one (req (!f.nw) .nwWithoutPush (req (f.a == 0x88#8) .reservedField (.ok (.qpop f.d f.b))))
  | _ => .one (.error .unassigned)

/-- The opcodes 0xC0 to 0xCF of the first byte (S-set, Table 7.10). -/
def decodeRowC (n : Nat) (f : FirstWord) : Form :=
  match n with
  | 0 => .two (fun e => req (!f.nw) .nwWithoutPush (req (f.d == 0#7 && f.b == 0x88#8 && bits e 24 8 == 0x88#8 && bits e 16 8 == 0#8 && bits e 2 9 == 0#9) .reservedField (req (scopeRead (bits e 11 2) (bits e 13 3)) .scopeUnread (.ok (.evset f.a (bits e 13 3) (bits e 11 2) (bits e 0 2))))))
  | 1 => .two (fun e => req (!f.nw) .nwWithoutPush (req (f.d == 0#7 && f.b == 0x88#8 && bits e 24 8 == 0x88#8 && bits e 16 8 == 0#8 && bits e 2 9 == 0#9) .reservedField (req (scopeRead (bits e 11 2) (bits e 13 3)) .scopeUnread (.ok (.evclr f.a (bits e 13 3) (bits e 11 2) (bits e 0 2))))))
  | 2 => .two (fun e => req (!f.nw) .nwWithoutPush (req (f.d == 0#7 && f.b == 0x88#8 && bits e 24 8 == 0x88#8 && bits e 16 8 == 0#8 && bits e 3 8 == 0#8) .reservedField (req (scopeRead (bits e 11 2) (bits e 13 3)) .scopeUnread (.ok (.evwait f.a (bits e 13 3) (bits e 11 2) (bits e 2 1) (bits e 0 2))))))
  | 3 => .one (req (!f.nw) .nwWithoutPush (req (f.d == 0#7 && f.a == 0x88#8) .reservedField (.ok (.acqtok f.b))))
  | 4 => .one (req (!f.nw) .nwWithoutPush (req (f.d == 0#7 && f.a == 0x88#8) .reservedField (.ok (.reltok f.b))))
  | _ => .one (.error .unassigned)

/-- The opcodes 0xD0 to 0xDF of the first byte (S-set, Table 7.10). -/
def decodeRowD (n : Nat) (f : FirstWord) : Form :=
  match n with
  | 0 => .two (fun e => req (!f.nw) .nwWithoutPush (req (bits e 16 4 == 0#4 && bits e 6 2 == 0#2) .reservedField (req (scopeRead (bits e 11 2) (bits e 13 3)) .scopeUnread (.ok (.tld f.d f.a f.b (bits e 24 8) (bits e 20 4) (bits e 13 3) (bits e 11 2) (bits e 8 3) (bits e 3 3) (bits e 0 3))))))
  | 1 => .two (fun e => req (!f.nw) .nwWithoutPush (req (bits e 16 4 == 0#4 && bits e 6 2 == 0#2) .reservedField (req (scopeRead (bits e 11 2) (bits e 13 3)) .scopeUnread (.ok (.tst f.d f.a f.b (bits e 24 8) (bits e 20 4) (bits e 13 3) (bits e 11 2) (bits e 8 3) (bits e 3 3) (bits e 0 3))))))
  | 2 => .two (fun e => req (!f.nw) .nwWithoutPush (req (f.a == 0x88#8 && f.b == 0x88#8 && bits e 24 8 == 0x88#8 && bits e 1 23 == 0#23) .reservedField (.ok (.tzero f.d (bits e 0 1)))))
  | 3 => .two (fun e => req (!f.nw) .nwWithoutPush (req (bits e 24 8 == 0x88#8 && bits e 0 24 == 0#24) .reservedField (.ok (.mma f.d f.a f.b))))
  | 4 => .two (fun e => req (!f.nw) .nwWithoutPush (req (bits e 24 8 == 0x88#8 && bits e 8 16 == 0#16) .reservedField (.ok (.mmas f.d f.a f.b (bits e 4 4) (bits e 0 4)))))
  | 5 => .two (fun e => req (!f.nw) .nwWithoutPush (req (bits e 24 8 == 0x88#8 && bits e 4 20 == 0#20) .reservedField (.ok (.mmam f.d f.a f.b (bits e 0 4)))))
  | 6 => .two (fun e => req (!f.nw) .nwWithoutPush (req (bits e 24 8 == 0x88#8 && bits e 6 18 == 0#18) .reservedField (.ok (.accrd f.d f.a f.b (bits e 0 6)))))
  | 7 => .two (fun e => req (!f.nw) .nwWithoutPush (req (f.d == 0#7 && bits e 6 18 == 0#18) .reservedField (.ok (.accwr f.a f.b (bits e 24 8) (bits e 0 6)))))
  | 8 => .two (fun e => req (!f.nw) .nwWithoutPush (req (f.b == 0x88#8 && bits e 24 8 == 0x88#8 && bits e 16 4 == 0#4 && bits e 0 8 == 0#8) .reservedField (req (scopeRead (bits e 11 2) (bits e 13 3)) .scopeUnread (.ok (.ttask f.d f.a (bits e 20 4) (bits e 13 3) (bits e 11 2) (bits e 8 3))))))
  | 9 => .two (fun e => req (!f.nw) .nwWithoutPush (req (f.b == 0x88#8 && bits e 16 4 == 0#4 && bits e 0 8 == 0#8) .reservedField (req (scopeRead (bits e 11 2) (bits e 13 3)) .scopeUnread (.ok (.tdesc f.d f.a (bits e 24 8) (bits e 20 4) (bits e 13 3) (bits e 11 2) (bits e 8 3))))))
  | 10 => .two (fun e => req (!f.nw) .nwWithoutPush (req (f.b == 0x88#8 && bits e 16 4 == 0#4 && bits e 0 8 == 0#8) .reservedField (req (scopeRead (bits e 11 2) (bits e 13 3)) .scopeUnread (.ok (.remap f.d f.a (bits e 24 8) (bits e 20 4) (bits e 13 3) (bits e 11 2) (bits e 8 3))))))
  | _ => .one (.error .unassigned)

/-- The opcodes 0xE0 to 0xEF of the first byte (S-set, Table 7.10). -/
def decodeRowE (n : Nat) (f : FirstWord) : Form :=
  match n with
  | 0 => .two (fun e => if bits e 7 1 == 0#1 then req (!f.nw) .nwWithoutPush (req (bits e 16 4 == 0#4 && bits e 7 1 == 0#1 && bits e 0 3 == 0#3) .reservedField (req (scopeRead (bits e 11 2) (bits e 13 3)) .scopeUnread (.ok (.cpy f.d f.a f.b (bits e 24 8) (bits e 20 4) (bits e 13 3) (bits e 11 2) (bits e 8 3) (bits e 5 2) (bits e 3 2)))))
    else req (!f.nw) .nwWithoutPush (req (bits e 16 4 == 0#4 && bits e 7 1 == 1#1 && bits e 0 7 == 0#7) .reservedField (req (scopeRead (bits e 11 2) (bits e 13 3)) .scopeUnread (.ok (.cpyTensor f.d f.a f.b (bits e 24 8) (bits e 20 4) (bits e 13 3) (bits e 11 2) (bits e 8 3))))))
  | 1 => .two (fun e => req (!f.nw) .nwWithoutPush (req (bits e 7 1 == 0#1 && bits e 0 3 == 0#3) .reservedField (req (scopeRead (bits e 11 2) (bits e 13 3)) .scopeUnread (.ok (.cpyacc f.d f.a f.b (bits e 24 8) (bits e 20 4) (bits e 16 4) (bits e 13 3) (bits e 11 2) (bits e 8 3) (bits e 5 2) (bits e 3 2))))))
  | 2 => .two (fun e => req (!f.nw) .nwWithoutPush (req (bits e 16 4 == 0#4 && bits e 7 1 == 0#1 && bits e 0 5 == 0#5) .reservedField (req (scopeRead (bits e 11 2) (bits e 13 3)) .scopeUnread (.ok (.cpydd f.d f.a f.b (bits e 24 8) (bits e 20 4) (bits e 13 3) (bits e 11 2) (bits e 8 3) (bits e 5 2))))))
  | 3 => .two (fun e => req (!f.nw) .nwWithoutPush (req (f.b == 0x88#8 && bits e 24 8 == 0x88#8 && bits e 16 4 == 0#4 && bits e 7 1 == 0#1 && bits e 0 3 == 0#3) .reservedField (req (scopeRead (bits e 11 2) (bits e 13 3)) .scopeUnread (.ok (.gather f.d f.a (bits e 20 4) (bits e 13 3) (bits e 11 2) (bits e 8 3) (bits e 5 2) (bits e 3 2))))))
  | 4 => .two (fun e => if bits e 7 1 == 0#1 then req (!f.nw) .nwWithoutPush (req (bits e 16 4 == 0#4 && bits e 7 1 == 0#1 && bits e 0 3 == 0#3) .reservedField (req (scopeRead (bits e 11 2) (bits e 13 3)) .scopeUnread (.ok (.mcast f.d f.a f.b (bits e 24 8) (bits e 20 4) (bits e 13 3) (bits e 11 2) (bits e 8 3) (bits e 5 2) (bits e 3 2)))))
    else req (!f.nw) .nwWithoutPush (req (bits e 16 4 == 0#4 && bits e 7 1 == 1#1 && bits e 5 2 == 0#2 && bits e 0 3 == 0#3) .reservedField (req (scopeRead (bits e 11 2) (bits e 13 3)) .scopeUnread (.ok (.mcastTensor f.d f.a f.b (bits e 24 8) (bits e 20 4) (bits e 13 3) (bits e 11 2) (bits e 8 3) (bits e 3 2))))))
  | 5 => .two (fun e => req (!f.nw) .nwWithoutPush (req (f.d == 0#7 && f.a == 0x88#8 && f.b == 0x88#8 && bits e 24 8 == 0x88#8 && bits e 0 24 == 0#24) .reservedField (.ok .bclose)))
  | 6 => .two (fun e => req (!f.nw) .nwWithoutPush (req (f.d == 0#7 && f.a == 0x88#8 && f.b == 0x88#8 && bits e 24 8 == 0x88#8 && bits e 16 8 == 0#8 && bits e 8 3 == 0#3) .reservedField (req (scopeRead (bits e 11 2) (bits e 13 3)) .scopeUnread (.ok (.bwait (bits e 13 3) (bits e 11 2) (bits e 0 8))))))
  | 7 => .two (fun e => req (!f.nw) .nwWithoutPush (req (bits e 16 4 == 0#4 && bits e 4 4 == 0#4) .reservedField (req (scopeRead (bits e 11 2) (bits e 13 3)) .scopeUnread (.ok (.crmerge f.d f.a f.b (bits e 24 8) (bits e 20 4) (bits e 13 3) (bits e 11 2) (bits e 8 3) (bits e 0 4))))))
  | 8 => .two (fun e => req (!f.nw) .nwWithoutPush (req (bits e 16 4 == 0#4 && bits e 4 4 == 0#4) .reservedField (req (scopeRead (bits e 11 2) (bits e 13 3)) .scopeUnread (.ok (.crfin f.d f.a f.b (bits e 24 8) (bits e 20 4) (bits e 13 3) (bits e 11 2) (bits e 8 3) (bits e 0 4))))))
  | _ => .one (.error .unassigned)

/-- The opcodes 0xF0 to 0xFF of the first byte (S-set, Table 7.10). -/
def decodeRowF (n : Nat) (f : FirstWord) : Form :=
  match n with
  | 0 => .two (fun e => req (!f.nw) .nwWithoutPush (req (f.b == 0x88#8 && bits e 24 8 == 0x88#8 && bits e 16 4 == 0#4 && bits e 0 11 == 0#11) .reservedField (req (scopeRead (bits e 11 2) (bits e 13 3)) .scopeUnread (.ok (.cvopen f.d f.a (bits e 20 4) (bits e 13 3) (bits e 11 2))))))
  | 1 => .two (fun e => req (!f.nw) .nwWithoutPush (req (f.d == 0#7 && f.b == 0x88#8 && bits e 24 8 == 0x88#8 && bits e 16 4 == 0#4 && bits e 5 6 == 0#6) .reservedField (req (scopeRead (bits e 11 2) (bits e 13 3)) .scopeUnread (.ok (.cvbind f.a (bits e 20 4) (bits e 13 3) (bits e 11 2) (bits e 3 2) (bits e 0 3))))))
  | 2 => .two (fun e => req (!f.nw) .nwWithoutPush (req (f.d == 0#7 && bits e 24 8 == 0x88#8 && bits e 16 4 == 0#4 && bits e 8 3 == 0#3) .reservedField (req (scopeRead (bits e 11 2) (bits e 13 3)) .scopeUnread (req ((bits e 7 1) == 0#1 || f.b == 0x88#8) .reservedField (.ok (.cvsend f.a f.b (bits e 20 4) (bits e 13 3) (bits e 11 2) (bits e 7 1) (bits e 5 2) (bits e 0 5)))))))
  | 3 => .two (fun e => req (!f.nw) .nwWithoutPush (req (f.b == 0x88#8 && bits e 24 8 == 0x88#8 && bits e 16 4 == 0#4 && bits e 7 4 == 0#4 && bits e 0 5 == 0#5) .reservedField (req (scopeRead (bits e 11 2) (bits e 13 3)) .scopeUnread (.ok (.cvrecv f.d f.a (bits e 20 4) (bits e 13 3) (bits e 11 2) (bits e 5 2))))))
  | 4 => .two (fun e => req (!f.nw) .nwWithoutPush (req (f.d == 0#7 && f.a == 0x88#8 && f.b == 0x88#8 && bits e 24 8 == 0x88#8 && bits e 16 4 == 0#4 && bits e 7 4 == 0#4) .reservedField (req (scopeRead (bits e 11 2) (bits e 13 3)) .scopeUnread (.ok (.cvchoose (bits e 20 4) (bits e 13 3) (bits e 11 2) (bits e 5 2) (bits e 0 5))))))
  | 5 => .two (fun e => req (!f.nw) .nwWithoutPush (req (f.d == 0#7 && f.a == 0x88#8 && f.b == 0x88#8 && bits e 24 8 == 0x88#8 && bits e 16 4 == 0#4 && bits e 9 2 == 0#2) .reservedField (req (scopeRead (bits e 11 2) (bits e 13 3)) .scopeUnread (.ok (.cvdeleg (bits e 20 4) (bits e 13 3) (bits e 11 2) (bits e 7 2) (bits e 5 2) (bits e 0 5))))))
  | 6 => .two (fun e => req (!f.nw) .nwWithoutPush (req (f.d == 0#7 && f.a == 0x88#8 && f.b == 0x88#8 && bits e 24 8 == 0x88#8 && bits e 16 4 == 0#4 && bits e 7 4 == 0#4 && bits e 0 5 == 0#5) .reservedField (req (scopeRead (bits e 11 2) (bits e 13 3)) .scopeUnread (.ok (.cvclose (bits e 20 4) (bits e 13 3) (bits e 11 2) (bits e 5 2))))))
  | 8 => .two (fun e => req (!f.nw) .nwWithoutPush (req (f.d == 0#7 && f.b == 0x88#8 && bits e 24 8 == 0x88#8 && bits e 0 24 == 0#24) .reservedField (.ok (.ttclr f.a))))
  | 9 => .two (fun e => req (!f.nw) .nwWithoutPush (req (bits e 24 8 == 0x88#8 && bits e 0 24 == 0#24) .reservedField (.ok (.ttadd f.d f.a f.b))))
  | 10 => .two (fun e => req (!f.nw) .nwWithoutPush (req (f.d == 0#7 && bits e 24 8 == 0x88#8 && bits e 0 24 == 0#24) .reservedField (.ok (.ttanc f.a f.b))))
  | 11 => .two (fun e => req (!f.nw) .nwWithoutPush (req (f.b == 0x88#8 && bits e 24 8 == 0x88#8 && bits e 1 23 == 0#23) .reservedField (.ok (.ttpos f.d f.a (bits e 0 1)))))
  | 12 => .two (fun e => req (!f.nw) .nwWithoutPush (req (f.b == 0x88#8 && bits e 0 24 == 0#24) .reservedField (.ok (.ttprune f.d f.a (bits e 24 8)))))
  | _ => .one (.error .unassigned)

/-- The opcode maps of Tables 7.9 and 7.10. -/
def decodeForm (f : FirstWord) : Form :=
  match f.op.toNat / 16 with
  | 0 => decodeRow0 (f.op.toNat % 16) f
  | 1 => decodeRow1 (f.op.toNat % 16) f
  | 2 => decodeRow2 (f.op.toNat % 16) f
  | 3 => decodeRow3 (f.op.toNat % 16) f
  | 4 => decodeRow4 (f.op.toNat % 16) f
  | 5 => decodeRow5 (f.op.toNat % 16) f
  | 6 => decodeRow6 (f.op.toNat % 16) f
  | 8 => decodeRow8 (f.op.toNat % 16) f
  | 9 => decodeRow9 (f.op.toNat % 16) f
  | 10 => decodeRowA (f.op.toNat % 16) f
  | 11 => decodeRowB (f.op.toNat % 16) f
  | 12 => decodeRowC (f.op.toNat % 16) f
  | 13 => decodeRowD (f.op.toNat % 16) f
  | 14 => decodeRowE (f.op.toNat % 16) f
  | 15 => decodeRowF (f.op.toNat % 16) f
  | _ => .one (.error .unassigned)

/-- Decode the words at a PC: the instruction and its length in words (R149). `none` for a word past the text. -/
def decode (w1 w2 : Option (BitVec 32)) : Except Reject (Instr × Nat) :=
  match w1 with
  | none => .error .pastText
  | some w =>
    match decodeForm (FirstWord.of w) with
    | .one r => r.map (·, 1)
    | .two k =>
      match w2 with
      | none => .error .pastText
      | some e => (k e).map (·, 2)

/-- A first word from its fields (Table 7.1). -/
def mkWord (op : BitVec 8) (nw : Bool) (d : BitVec 7) (a b : BitVec 8) : BitVec 32 :=
  op ++ (BitVec.ofBool nw ++ (d ++ (a ++ b)))

/-- The words of an encoded instruction, first word first; an event has none. -/
def encode (i : Instr) : List (BitVec 32) :=
  match i with
  | .iadd nw d a b => [mkWord 0x00#8 nw d a b]
  | .iaddExt nw d a fmt b => [mkWord 0x00#8 nw d a 0x8F#8, 0x88#8 ++ (0#4 ++ (fmt ++ (0#8 ++ b)))]
  | .isub nw d a b => [mkWord 0x01#8 nw d a b]
  | .isubExt nw d a fmt b => [mkWord 0x01#8 nw d a 0x8F#8, 0x88#8 ++ (0#4 ++ (fmt ++ (0#8 ++ b)))]
  | .imul nw d a b => [mkWord 0x02#8 nw d a b]
  | .imulExt nw d a fmt b => [mkWord 0x02#8 nw d a 0x8F#8, 0x88#8 ++ (0#4 ++ (fmt ++ (0#8 ++ b)))]
  | .imulhs nw d a b => [mkWord 0x03#8 nw d a b]
  | .imulhsExt nw d a fmt b => [mkWord 0x03#8 nw d a 0x8F#8, 0x88#8 ++ (0#4 ++ (fmt ++ (0#8 ++ b)))]
  | .imulhu nw d a b => [mkWord 0x04#8 nw d a b]
  | .imulhuExt nw d a fmt b => [mkWord 0x04#8 nw d a 0x8F#8, 0x88#8 ++ (0#4 ++ (fmt ++ (0#8 ++ b)))]
  | .imad nw d a b c => [mkWord 0x05#8 nw d a b, c ++ 0#24]
  | .imin nw d a b => [mkWord 0x06#8 nw d a b]
  | .imax nw d a b => [mkWord 0x07#8 nw d a b]
  | .umin nw d a b => [mkWord 0x08#8 nw d a b]
  | .umax nw d a b => [mkWord 0x09#8 nw d a b]
  | .vand nw d a b => [mkWord 0x0A#8 nw d a b]
  | .vor nw d a b => [mkWord 0x0B#8 nw d a b]
  | .vxor nw d a b => [mkWord 0x0C#8 nw d a b]
  | .vandn nw d a b => [mkWord 0x0D#8 nw d a b]
  | .shl nw d a b => [mkWord 0x0E#8 nw d a b]
  | .shr nw d a b => [mkWord 0x0F#8 nw d a b]
  | .sar nw d a b => [mkWord 0x10#8 nw d a b]
  | .rotl nw d a b => [mkWord 0x11#8 nw d a b]
  | .popc nw d a => [mkWord 0x12#8 nw d a 0x88#8]
  | .clz nw d a => [mkWord 0x13#8 nw d a 0x88#8]
  | .brev nw d a => [mkWord 0x14#8 nw d a 0x88#8]
  | .bfx nw d a b sx => [mkWord 0x15#8 nw d a b, 0x88#8 ++ (0#23 ++ sx)]
  | .bfi nw d a b c => [mkWord 0x16#8 nw d a b, c ++ 0#24]
  | .bperm nw d a b c => [mkWord 0x17#8 nw d a b, c ++ 0#24]
  | .bitf nw d a b c f1 f0 => [mkWord 0x18#8 nw d a b, c ++ (0#16 ++ (f1 ++ f0))]
  | .iadd64 nw d a b => [mkWord 0x19#8 nw d a b]
  | .isub64 nw d a b => [mkWord 0x1A#8 nw d a b]
  | .imulw nw d a b => [mkWord 0x1B#8 nw d a b]
  | .icmp nw d a b c cond => [mkWord 0x1C#8 nw d a b, c ++ (cond ++ 0#20)]
  | .sel nw d a b c p => [mkWord 0x1D#8 nw d a b, c ++ (0#23 ++ p)]
  | .mov nw d a => [mkWord 0x1E#8 nw d a 0x88#8]
  | .movi nw d imm => [mkWord 0x1F#8 nw d 0x88#8 0x88#8, imm]
  | .iaddi nw d a imm => [mkWord 0x20#8 nw d a imm]
  | .shli nw d a imm => [mkWord 0x21#8 nw d a imm]
  | .shri nw d a imm => [mkWord 0x22#8 nw d a imm]
  | .sari nw d a imm => [mkWord 0x23#8 nw d a imm]
  | .andi nw d a imm => [mkWord 0x24#8 nw d a imm]
  | .ori nw d a imm => [mkWord 0x25#8 nw d a imm]
  | .xori nw d a imm => [mkWord 0x26#8 nw d a imm]
  | .fadd nw d a b => [mkWord 0x28#8 nw d a b]
  | .faddExt nw d a fmt b => [mkWord 0x28#8 nw d a 0x8F#8, 0x88#8 ++ (0#4 ++ (fmt ++ (0#8 ++ b)))]
  | .fsub nw d a b => [mkWord 0x29#8 nw d a b]
  | .fsubExt nw d a fmt b => [mkWord 0x29#8 nw d a 0x8F#8, 0x88#8 ++ (0#4 ++ (fmt ++ (0#8 ++ b)))]
  | .fmul nw d a b => [mkWord 0x2A#8 nw d a b]
  | .fmulExt nw d a fmt b => [mkWord 0x2A#8 nw d a 0x8F#8, 0x88#8 ++ (0#4 ++ (fmt ++ (0#8 ++ b)))]
  | .ffma nw d a b => [mkWord 0x2B#8 nw d a b]
  | .ffmaExt nw d a c fmt b => [mkWord 0x2B#8 nw d a 0x8F#8, c ++ (0#4 ++ (fmt ++ (0#8 ++ b)))]
  | .fmin nw d a b => [mkWord 0x2C#8 nw d a b]
  | .fminExt nw d a fmt b => [mkWord 0x2C#8 nw d a 0x8F#8, 0x88#8 ++ (0#4 ++ (fmt ++ (0#8 ++ b)))]
  | .fmax nw d a b => [mkWord 0x2D#8 nw d a b]
  | .fmaxExt nw d a fmt b => [mkWord 0x2D#8 nw d a 0x8F#8, 0x88#8 ++ (0#4 ++ (fmt ++ (0#8 ++ b)))]
  | .fminn nw d a b => [mkWord 0x2E#8 nw d a b]
  | .fminnExt nw d a fmt b => [mkWord 0x2E#8 nw d a 0x8F#8, 0x88#8 ++ (0#4 ++ (fmt ++ (0#8 ++ b)))]
  | .fmaxn nw d a b => [mkWord 0x2F#8 nw d a b]
  | .fmaxnExt nw d a fmt b => [mkWord 0x2F#8 nw d a 0x8F#8, 0x88#8 ++ (0#4 ++ (fmt ++ (0#8 ++ b)))]
  | .fcmp nw d a b c cond fmt => [mkWord 0x30#8 nw d a b, c ++ (cond ++ (fmt ++ 0#16))]
  | .fclass nw d a => [mkWord 0x31#8 nw d a 0x88#8]
  | .fclassExt nw d a fmt => [mkWord 0x31#8 nw d a 0x8F#8, 0x88#8 ++ (0#4 ++ (fmt ++ (0#8 ++ 136#8)))]
  | .frcp nw d a => [mkWord 0x32#8 nw d a 0x88#8]
  | .frcpExt nw d a fmt => [mkWord 0x32#8 nw d a 0x8F#8, 0x88#8 ++ (0#4 ++ (fmt ++ (0#8 ++ 136#8)))]
  | .frsq nw d a => [mkWord 0x33#8 nw d a 0x88#8]
  | .frsqExt nw d a fmt => [mkWord 0x33#8 nw d a 0x8F#8, 0x88#8 ++ (0#4 ++ (fmt ++ (0#8 ++ 136#8)))]
  | .fexp2 nw d a => [mkWord 0x34#8 nw d a 0x88#8]
  | .fexp2Ext nw d a fmt => [mkWord 0x34#8 nw d a 0x8F#8, 0x88#8 ++ (0#4 ++ (fmt ++ (0#8 ++ 136#8)))]
  | .flog2 nw d a => [mkWord 0x35#8 nw d a 0x88#8]
  | .flog2Ext nw d a fmt => [mkWord 0x35#8 nw d a 0x8F#8, 0x88#8 ++ (0#4 ++ (fmt ++ (0#8 ++ 136#8)))]
  | .fsinpi nw d a => [mkWord 0x36#8 nw d a 0x88#8]
  | .fsinpiExt nw d a fmt => [mkWord 0x36#8 nw d a 0x8F#8, 0x88#8 ++ (0#4 ++ (fmt ++ (0#8 ++ 136#8)))]
  | .fcospi nw d a => [mkWord 0x37#8 nw d a 0x88#8]
  | .fcospiExt nw d a fmt => [mkWord 0x37#8 nw d a 0x8F#8, 0x88#8 ++ (0#4 ++ (fmt ++ (0#8 ++ 136#8)))]
  | .fsqrt nw d a => [mkWord 0x38#8 nw d a 0x88#8]
  | .fsqrtExt nw d a fmt => [mkWord 0x38#8 nw d a 0x8F#8, 0x88#8 ++ (0#4 ++ (fmt ++ (0#8 ++ 136#8)))]
  | .frnd nw d a => [mkWord 0x39#8 nw d a 0x88#8]
  | .frndExt nw d a fmt => [mkWord 0x39#8 nw d a 0x8F#8, 0x88#8 ++ (0#4 ++ (fmt ++ (0#8 ++ 136#8)))]
  | .cvt nw d a fmt six sfmt => [mkWord 0x3A#8 nw d a 0x88#8, 0x88#8 ++ (0#4 ++ (fmt ++ (0#9 ++ (six ++ sfmt))))]
  | .cvtsc nw d a b fmt six sfmt => [mkWord 0x3B#8 nw d a b, 0x88#8 ++ (0#4 ++ (fmt ++ (0#9 ++ (six ++ sfmt))))]
  | .pack nw d a b fmt idx => [mkWord 0x3C#8 nw d a b, 0x88#8 ++ (0#4 ++ (fmt ++ (0#13 ++ idx)))]
  | .unpk nw d a fmt idx => [mkWord 0x3D#8 nw d a 0x88#8, 0x88#8 ++ (0#4 ++ (fmt ++ (0#13 ++ idx)))]
  | .idot4 nw d a b => [mkWord 0x3E#8 nw d a b]
  | .idot4Ext nw d a c fmt b => [mkWord 0x3E#8 nw d a 0x8F#8, c ++ (0#4 ++ (fmt ++ (0#8 ++ b)))]
  | .fdot2 nw d a b => [mkWord 0x3F#8 nw d a b]
  | .fdot2Ext nw d a c fmt b => [mkWord 0x3F#8 nw d a 0x8F#8, c ++ (0#4 ++ (fmt ++ (0#8 ++ b)))]
  | .shfl nw d a b => [mkWord 0x40#8 nw d a b]
  | .shflExt nw d a c fmt b => [mkWord 0x40#8 nw d a 0x8F#8, c ++ (0#4 ++ (fmt ++ (0#8 ++ b)))]
  | .shflup nw d a b => [mkWord 0x41#8 nw d a b]
  | .shflupExt nw d a c fmt b => [mkWord 0x41#8 nw d a 0x8F#8, c ++ (0#4 ++ (fmt ++ (0#8 ++ b)))]
  | .shfldn nw d a b => [mkWord 0x42#8 nw d a b]
  | .shfldnExt nw d a c fmt b => [mkWord 0x42#8 nw d a 0x8F#8, c ++ (0#4 ++ (fmt ++ (0#8 ++ b)))]
  | .shflx nw d a b => [mkWord 0x43#8 nw d a b]
  | .shflxExt nw d a c fmt b => [mkWord 0x43#8 nw d a 0x8F#8, c ++ (0#4 ++ (fmt ++ (0#8 ++ b)))]
  | .lred nw d a fmt opr => [mkWord 0x44#8 nw d a 0x88#8, 0x88#8 ++ (0#4 ++ (fmt ++ (0#12 ++ opr)))]
  | .lscan nw d a c fmt excl opr => [mkWord 0x45#8 nw d a 0x88#8, c ++ (0#4 ++ (fmt ++ (0#11 ++ (excl ++ opr))))]
  | .vote nw d a mode => [mkWord 0x46#8 nw d a 0x88#8, 0x88#8 ++ (0#22 ++ mode)]
  | .bcast nw d a b c => [mkWord 0x47#8 nw d a b, c ++ 0#24]
  | .rvsend a n1 slot => [mkWord 0x48#8 false 0#7 a 0x88#8, 0x88#8 ++ (0#17 ++ (n1 ++ slot))]
  | .rvrecv d c n1 slot => [mkWord 0x49#8 false d 0x88#8 0x88#8, c ++ (0#17 ++ (n1 ++ slot))]
  | .xchgx d a n1 ch => [mkWord 0x4A#8 false d a 0x88#8, 0x88#8 ++ (0#14 ++ (n1 ++ ch))]
  | .lnsadd nw d a b => [mkWord 0x4B#8 nw d a b]
  | .lnsmul nw d a b => [mkWord 0x4C#8 nw d a b]
  | .ld d a strm fmt scope ord imm => [mkWord 0x50#8 false d a 0x88#8, 0x88#8 ++ (strm ++ (fmt ++ (scope ++ (ord ++ imm))))]
  | .st a b strm fmt scope ord imm => [mkWord 0x51#8 false 0#7 a b, 0x88#8 ++ (strm ++ (fmt ++ (scope ++ (ord ++ imm))))]
  | .lds d a strm fmt level fe imm => [mkWord 0x52#8 false d a 0x88#8, 0x88#8 ++ (strm ++ (fmt ++ (level ++ (fe ++ (0#1 ++ imm)))))]
  | .sts a b strm fmt level fe imm => [mkWord 0x53#8 false 0#7 a b, 0x88#8 ++ (strm ++ (fmt ++ (level ++ (fe ++ (0#1 ++ imm)))))]
  | .atom d a b strm fmt scope ord aop off => [mkWord 0x54#8 false d a b, 0x88#8 ++ (strm ++ (fmt ++ (scope ++ (ord ++ (aop ++ off)))))]
  | .red a b strm fmt scope ord aop off => [mkWord 0x55#8 false 0#7 a b, 0x88#8 ++ (strm ++ (fmt ++ (scope ++ (ord ++ (aop ++ off)))))]
  | .cas d a b c strm fmt scope ord w64 off => [mkWord 0x56#8 false d a b, c ++ (strm ++ (fmt ++ (scope ++ (ord ++ (w64 ++ (0#4 ++ off))))))]
  | .kvmap d a b c strm scope ord sel => [mkWord 0x57#8 false d a b, c ++ (strm ++ (0#4 ++ (scope ++ (ord ++ (0#10 ++ sel)))))]
  | .kvapp a b c strm scope ord => [mkWord 0x58#8 false 0#7 a b, c ++ (strm ++ (0#4 ++ (scope ++ (ord ++ 0#11))))]
  | .qadd d a b => [mkWord 0x60#8 false d a b]
  | .qsub d a b => [mkWord 0x61#8 false d a b]
  | .qmul d a b => [mkWord 0x62#8 false d a b]
  | .qdiv d a b => [mkWord 0x63#8 false d a b]
  | .qneg d a => [mkWord 0x64#8 false d a 0x88#8]
  | .qenc d a b => [mkWord 0x65#8 false d a b]
  | .qdec d a => [mkWord 0x66#8 false d a 0x88#8]
  | .nop => [mkWord 0x80#8 false 0#7 0x00#8 0x00#8]
  | .sadd nw d a b => [mkWord 0x81#8 nw d a b]
  | .ssub nw d a b => [mkWord 0x82#8 nw d a b]
  | .smul nw d a b => [mkWord 0x83#8 nw d a b]
  | .sand nw d a b => [mkWord 0x84#8 nw d a b]
  | .sor nw d a b => [mkWord 0x85#8 nw d a b]
  | .sxor nw d a b => [mkWord 0x86#8 nw d a b]
  | .sshl nw d a b => [mkWord 0x87#8 nw d a b]
  | .sshr nw d a b => [mkWord 0x88#8 nw d a b]
  | .ssar nw d a b => [mkWord 0x89#8 nw d a b]
  | .smin nw d a b => [mkWord 0x8A#8 nw d a b]
  | .smax nw d a b => [mkWord 0x8B#8 nw d a b]
  | .smov nw d a => [mkWord 0x8C#8 nw d a 0x88#8]
  | .spopc nw d a => [mkWord 0x8D#8 nw d a 0x88#8]
  | .sclz nw d a => [mkWord 0x8E#8 nw d a 0x88#8]
  | .sffs nw d a => [mkWord 0x8F#8 nw d a 0x88#8]
  | .saddi nw d imm => [0x90#8 ++ (BitVec.ofBool nw ++ (d ++ imm))]
  | .smovi nw d imm => [0x91#8 ++ (BitVec.ofBool nw ++ (d ++ imm))]
  | .smovl nw d imm => [0x92#8 ++ (BitVec.ofBool nw ++ (d ++ imm))]
  | .smovh nw d imm => [0x93#8 ++ (BitVec.ofBool nw ++ (d ++ imm))]
  | .scmp nw d a b cond => [mkWord 0x94#8 nw d a b, 0x88#8 ++ (cond ++ 0#20)]
  | .mfs nw d imm => [0x95#8 ++ (BitVec.ofBool nw ++ (d ++ imm))]
  | .mts d imm => [0x96#8 ++ (BitVec.ofBool false ++ (d ++ imm))]
  | .mvtcTo d a => [mkWord 0x97#8 false d a 0x88#8, 0x88#8 ++ 0#24]
  | .mvtcFrom nw d a => [mkWord 0x97#8 nw d a 0x88#8, 0x88#8 ++ (0#23 ++ 1#1)]
  | .bra off => [0xA0#8 ++ off]
  | .call off => [0xA1#8 ++ off]
  | .brz d imm => [0xA2#8 ++ (BitVec.ofBool false ++ (d ++ imm))]
  | .brnz d imm => [0xA3#8 ++ (BitVec.ofBool false ++ (d ++ imm))]
  | .brany d imm => [0xA4#8 ++ (BitVec.ofBool false ++ (d ++ imm))]
  | .brall d imm => [0xA5#8 ++ (BitVec.ofBool false ++ (d ++ imm))]
  | .brnone d imm => [0xA6#8 ++ (BitVec.ofBool false ++ (d ++ imm))]
  | .loop d imm => [0xA7#8 ++ (BitVec.ofBool false ++ (d ++ imm))]
  | .ret a => [mkWord 0xA8#8 false 0#7 a 0x88#8]
  | .jmpr nw d a => [mkWord 0xA9#8 nw d a 0x88#8]
  | .exit => [mkWord 0xAA#8 false 0#7 0x88#8 0x88#8]
  | .exmand a => [mkWord 0xAB#8 false 0#7 a 0x88#8]
  | .exmset a => [mkWord 0xAC#8 false 0#7 a 0x88#8]
  | .trap imm => [0xAD#8 ++ (BitVec.ofBool false ++ (0#7 ++ imm))]
  | .tret => [mkWord 0xAE#8 false 0#7 0x88#8 0x88#8]
  | .ckpt => [mkWord 0xAF#8 false 0#7 0x88#8 0x88#8]
  | .rep cnt sd sa sb str => [0xB0#8 ++ (0#1 ++ (cnt ++ (sd ++ (sa ++ (sb ++ (str ++ 0#12))))))]
  | .mcall d a b => [mkWord 0xB1#8 false d a b]
  | .yield_ => [mkWord 0xB2#8 false 0#7 0x88#8 0x88#8]
  | .elect nw d a => [mkWord 0xB3#8 nw d a 0x88#8]
  | .bar scope ord id => [mkWord 0xB8#8 false 0#7 0x88#8 0x88#8, 0x88#8 ++ (0#8 ++ (scope ++ (ord ++ (0#7 ++ id))))]
  | .bararv scope ord id => [mkWord 0xB9#8 false 0#7 0x88#8 0x88#8, 0x88#8 ++ (0#8 ++ (scope ++ (ord ++ (0#7 ++ id))))]
  | .barwt scope ord id => [mkWord 0xBA#8 false 0#7 0x88#8 0x88#8, 0x88#8 ++ (0#8 ++ (scope ++ (ord ++ (0#7 ++ id))))]
  | .fence strm scope ord => [mkWord 0xBB#8 false 0#7 0x88#8 0x88#8, 0x88#8 ++ (strm ++ (0#4 ++ (scope ++ (ord ++ 0#11))))]
  | .sfence a scope ord => [mkWord 0xBC#8 false 0#7 a 0x88#8, 0x88#8 ++ (0#8 ++ (scope ++ (ord ++ 0#11)))]
  | .qfence d scope ord qmask => [mkWord 0xBD#8 false d 0x88#8 0x88#8, 0x88#8 ++ (0#8 ++ (scope ++ (ord ++ (0#3 ++ qmask))))]
  | .qpush a b => [mkWord 0xBE#8 false 0#7 a b]
  | .qpop d b => [mkWord 0xBF#8 false d 0x88#8 b]
  | .evset a scope ord win => [mkWord 0xC0#8 false 0#7 a 0x88#8, 0x88#8 ++ (0#8 ++ (scope ++ (ord ++ (0#9 ++ win))))]
  | .evclr a scope ord win => [mkWord 0xC1#8 false 0#7 a 0x88#8, 0x88#8 ++ (0#8 ++ (scope ++ (ord ++ (0#9 ++ win))))]
  | .evwait a scope ord any win => [mkWord 0xC2#8 false 0#7 a 0x88#8, 0x88#8 ++ (0#8 ++ (scope ++ (ord ++ (0#8 ++ (any ++ win)))))]
  | .acqtok b => [mkWord 0xC3#8 false 0#7 0x88#8 b]
  | .reltok b => [mkWord 0xC4#8 false 0#7 0x88#8 b]
  | .tld d a b c strm scope ord q dr dc => [mkWord 0xD0#8 false d a b, c ++ (strm ++ (0#4 ++ (scope ++ (ord ++ (q ++ (0#2 ++ (dr ++ dc)))))))]
  | .tst d a b c strm scope ord q dr dc => [mkWord 0xD1#8 false d a b, c ++ (strm ++ (0#4 ++ (scope ++ (ord ++ (q ++ (0#2 ++ (dr ++ dc)))))))]
  | .tzero d kind => [mkWord 0xD2#8 false d 0x88#8 0x88#8, 0x88#8 ++ (0#23 ++ kind)]
  | .mma d a b => [mkWord 0xD3#8 false d a b, 0x88#8 ++ 0#24]
  | .mmas d a b sb sa => [mkWord 0xD4#8 false d a b, 0x88#8 ++ (0#16 ++ (sb ++ sa))]
  | .mmam d a b tm => [mkWord 0xD5#8 false d a b, 0x88#8 ++ (0#20 ++ tm)]
  | .accrd d a b row => [mkWord 0xD6#8 false d a b, 0x88#8 ++ (0#18 ++ row)]
  | .accwr a b c row => [mkWord 0xD7#8 false 0#7 a b, c ++ (0#18 ++ row)]
  | .ttask d a strm scope ord q => [mkWord 0xD8#8 false d a 0x88#8, 0x88#8 ++ (strm ++ (0#4 ++ (scope ++ (ord ++ (q ++ 0#8)))))]
  | .tdesc d a c strm scope ord q => [mkWord 0xD9#8 false d a 0x88#8, c ++ (strm ++ (0#4 ++ (scope ++ (ord ++ (q ++ 0#8)))))]
  | .remap d a c strm scope ord q => [mkWord 0xDA#8 false d a 0x88#8, c ++ (strm ++ (0#4 ++ (scope ++ (ord ++ (q ++ 0#8)))))]
  | .cpy d a b c strm scope ord q sloc dloc => [mkWord 0xE0#8 false d a b, c ++ (strm ++ (0#4 ++ (scope ++ (ord ++ (q ++ (0#1 ++ (sloc ++ (dloc ++ 0#3))))))))]
  | .cpyTensor d a b c strm scope ord q => [mkWord 0xE0#8 false d a b, c ++ (strm ++ (0#4 ++ (scope ++ (ord ++ (q ++ (1#1 ++ 0#7))))))]
  | .cpyacc d a b c strm fmt scope ord q sloc dloc => [mkWord 0xE1#8 false d a b, c ++ (strm ++ (fmt ++ (scope ++ (ord ++ (q ++ (0#1 ++ (sloc ++ (dloc ++ 0#3))))))))]
  | .cpydd d a b c strm scope ord q sloc => [mkWord 0xE2#8 false d a b, c ++ (strm ++ (0#4 ++ (scope ++ (ord ++ (q ++ (0#1 ++ (sloc ++ 0#5)))))))]
  | .gather d a strm scope ord q sloc dloc => [mkWord 0xE3#8 false d a 0x88#8, 0x88#8 ++ (strm ++ (0#4 ++ (scope ++ (ord ++ (q ++ (0#1 ++ (sloc ++ (dloc ++ 0#3))))))))]
  | .mcast d a b c strm scope ord q sloc dlev => [mkWord 0xE4#8 false d a b, c ++ (strm ++ (0#4 ++ (scope ++ (ord ++ (q ++ (0#1 ++ (sloc ++ (dlev ++ 0#3))))))))]
  | .mcastTensor d a b c strm scope ord q dlev => [mkWord 0xE4#8 false d a b, c ++ (strm ++ (0#4 ++ (scope ++ (ord ++ (q ++ (1#1 ++ (0#2 ++ (dlev ++ 0#3))))))))]
  | .bclose => [mkWord 0xE5#8 false 0#7 0x88#8 0x88#8, 0x88#8 ++ 0#24]
  | .bwait scope ord n => [mkWord 0xE6#8 false 0#7 0x88#8 0x88#8, 0x88#8 ++ (0#8 ++ (scope ++ (ord ++ (0#3 ++ n))))]
  | .crmerge d a b c strm scope ord q slot => [mkWord 0xE7#8 false d a b, c ++ (strm ++ (0#4 ++ (scope ++ (ord ++ (q ++ (0#4 ++ slot))))))]
  | .crfin d a b c strm scope ord q slot => [mkWord 0xE8#8 false d a b, c ++ (strm ++ (0#4 ++ (scope ++ (ord ++ (q ++ (0#4 ++ slot))))))]
  | .cvopen d a strm scope ord => [mkWord 0xF0#8 false d a 0x88#8, 0x88#8 ++ (strm ++ (0#4 ++ (scope ++ (ord ++ 0#11))))]
  | .cvbind a strm scope ord rr role => [mkWord 0xF1#8 false 0#7 a 0x88#8, 0x88#8 ++ (strm ++ (0#4 ++ (scope ++ (ord ++ (0#6 ++ (rr ++ role))))))]
  | .cvsend a b strm scope ord im rr kind => [mkWord 0xF2#8 false 0#7 a b, 0x88#8 ++ (strm ++ (0#4 ++ (scope ++ (ord ++ (0#3 ++ (im ++ (rr ++ kind)))))))]
  | .cvrecv d a strm scope ord rr => [mkWord 0xF3#8 false d a 0x88#8, 0x88#8 ++ (strm ++ (0#4 ++ (scope ++ (ord ++ (0#4 ++ (rr ++ 0#5))))))]
  | .cvchoose strm scope ord rr kind => [mkWord 0xF4#8 false 0#7 0x88#8 0x88#8, 0x88#8 ++ (strm ++ (0#4 ++ (scope ++ (ord ++ (0#4 ++ (rr ++ kind))))))]
  | .cvdeleg strm scope ord rrp rr kind => [mkWord 0xF5#8 false 0#7 0x88#8 0x88#8, 0x88#8 ++ (strm ++ (0#4 ++ (scope ++ (ord ++ (0#2 ++ (rrp ++ (rr ++ kind)))))))]
  | .cvclose strm scope ord rr => [mkWord 0xF6#8 false 0#7 0x88#8 0x88#8, 0x88#8 ++ (strm ++ (0#4 ++ (scope ++ (ord ++ (0#4 ++ (rr ++ 0#5))))))]
  | .ttclr a => [mkWord 0xF8#8 false 0#7 a 0x88#8, 0x88#8 ++ 0#24]
  | .ttadd d a b => [mkWord 0xF9#8 false d a b, 0x88#8 ++ 0#24]
  | .ttanc a b => [mkWord 0xFA#8 false 0#7 a b, 0x88#8 ++ 0#24]
  | .ttpos d a sel => [mkWord 0xFB#8 false d a 0x88#8, 0x88#8 ++ (0#23 ++ sel)]
  | .ttprune d a c => [mkWord 0xFC#8 false d a 0x88#8, c ++ 0#24]
  | .instructionFetchFault _ => []
  | .chainAbandon _ => []
  | .chainResume _ => []
  | .pickerUrgent _ => []
  | .handlerInstructionLimit _ => []
  | .handlerWaitLimit _ => []
  | .crewInterruptDelivery _ => []
  | .teamRetire _ => []
  | .evecWriteback _ => []
  | .almanacSchedule _ _ _ => []
  | .slotBind _ => []
  | .slotRestore _ => []
  | .slotPreempt _ => []
  | .slotOpReserved _ => []
  | .slotHoldUpdate _ _ _ => []
  | .forcedSaveExpiry _ => []
  | .saveComplete _ => []
  | .faultDomainEnd _ _ => []
  | .unitFence _ => []
  | .granuleService _ _ => []
  | .queueService _ => []
  | .barrierRelease _ _ => []
  | .rendezvousMatch _ _ => []
  | .xchgxPair _ _ => []
  | .remoteReply _ _ _ => []
  | .remoteRequestArrive _ _ _ _ _ _ _ _ _ _ => []
  | .requestLost _ => []
  | .leaseGrant _ _ _ => []
  | .leaseIdleRelease _ _ => []
  | .cowPath _ _ => []
  | .engineCommandStart _ _ => []
  | .engineCommandComplete _ _ => []
  | .matrixStep _ _ => []
  | .remapPass _ _ _ => []
  | .tileTaskDispatch _ _ => []
  | .taskDependencePoll _ _ => []
  | .tileTaskComplete _ _ => []
  | .cpyaccContribution _ _ => []
  | .mergeSessionMerge _ _ _ => []
  | .crfinComplete _ _ => []
  | .cpyddPageStep _ _ => []
  | .convHomeRequest _ => []
  | .convAccept _ => []
  | .convDeliver _ => []
  | .kick _ _ _ => []
  | .rctlWrite _ _ _ => []
  | .ringRecordRead _ _ _ => []
  | .ringStaleTimeout _ _ => []
  | .evdataRead _ _ => []
  | .hostBar2Read _ _ _ => []
  | .hostBar2Write _ _ _ _ => []
  | .invcmd _ => []
  | .invalidationDrainDone => []
  | .attcmd _ => []
  | .attestationReportDone => []
  | .rsvbase _ => []
  | .rsvtail _ => []
  | .fdcmd _ => []
  | .cirqcmd _ => []
  | .seclimitWrite _ _ _ _ _ => []
  | .eqtrig _ => []
  | .equinoxBufferDone => []
  | .vigilClr _ _ => []
  | .vigilSample _ _ => []
  | .registerWrite _ _ _ => []
  | .i3cHealthRead => []
  | .boot => []
  | .thermalTrip _ => []
  | .powerWindow _ => []
  | .linkReplay _ => []
  | .linkRetrain _ _ => []
  | .crossbarAging _ _ _ => []
  | .errorWindowEnd _ => []
  | .copyEngineError _ _ => []
  | .matrixEngineError _ => []
  | .loadResultReturn _ _ => []
  | .remoteAcknowledgement _ => []

/-- The instruction that the decoder reads from the opcode table's numbering of its bits: the first word is bits
31 to 0, E is bits 63 to 32 (both stored little-endian, R1, R149), bits above nbits zero. -/
def decodeTableWord (_nbits w : Nat) : Option Instr :=
  match decode (some (BitVec.ofNat 32 w)) (some (BitVec.ofNat 32 (w / 4294967296))) with
  | .ok (i, _) => some i
  | .error _ => none

end Sys2Proof
end

