-- ==== Sys2Proof/Config.lean ====
section
/-! DEFINITION. What an implementation fixes and the free values: constants without a body, so that no proof can
see what they are. A statement that mentions none of them holds for every one. -/
namespace Sys2Proof

/-- The choice among several enabled moves of the part, at a counter value (log entry 7). -/
opaque Config.pick : Nat → Nat
/-- Whether a cycle finds the operands of a crew's next instruction still on their way through a pipe, at a counter value and a
crew (R38, log entry 88). -/
opaque Config.operandsLate : Nat → Nat → Bool
/-- Arithmetic cycles that pass in a step, at a counter value (log entry 6). -/
opaque Config.elapsed : Nat → Nat
/-- Which of the entries that a translation buffer has read, or the one in memory, a walk uses, at a counter value and
an entry's place (log entry 10). -/
opaque Config.keeps : Nat → Nat → Nat
/-- What a read of host memory returns, at a counter value and a physical address of the host window (R361, log entry
19). -/
opaque Config.hostData : Nat → Nat → Nat
/-- The entry of a disagreeing 64 KiB group that translates an access, at a counter value and page (R64, log entry 11). -/
opaque Config.groupEntry : Nat → Nat → Nat
/-- The place of a lane function's result among the values within its bound: a function of the function's opcode,
the format code and the operand's bits (R114, log entry 9). -/
opaque Config.laneFn : Nat → Nat → Nat → Nat
/-- A binding nonce or a generation, at a counter value (R299, R430, log entry 13). -/
opaque Config.nonce : Nat → Nat
/-- The 16 bytes of the header of a message's slot, at a counter value (R295, log entry 92). -/
opaque Config.slotHeader : Nat → BitVec 128
/-- The verdict of the boot ROM's signature check (R370, log entry 12). -/
opaque Config.bootVerified : Bool
/-- SHA-256 of a byte string given as its length and its little-endian number (R370, log entry 12). -/
opaque Config.sha256 : Nat → Nat → BitVec 256
/-- The digest of the firmware stage that extends a measurement register (R370, log entry 12). -/
opaque Config.stageDigest : Nat → BitVec 256
/-- The identity public key of the part (R371, log entry 12). -/
opaque Config.identityKey : BitVec 256
/-- The signature over bytes 0 to 431 of a report, given as their little-endian number (R371, log entry 12). -/
opaque Config.signature : Nat → BitVec 62848
/-- What a reply to an engine's read of another device holds beside its 64 bits of data, and the data of one that is poisoned, at a
counter value and the address (R366, log entry 16). -/
opaque Config.remoteData : Nat → Nat → Nat
/-- The granule that a command or a task reads ahead, at a counter value (R311, log entry 49). -/
opaque Config.aheadKey : Nat → Nat
/-- A value the spec does not state, at a counter value (log entry 17). -/
opaque Config.unstated : Nat → Nat

/-- The physical address of the RCB of the context whose launches come in a ring, by 8 times the function plus the ring
(R357, R358, log entry 21). -/
opaque Config.ringContext : Nat → Nat
/-- The page that Almanac takes for a save image, at a counter value and the image's place (R412, log entry 22). -/
opaque Config.savePage : Nat → Nat → Nat
/-- What the firmware sets the secure-range registers to at boot, by their place (R372 step 2, R374, log entry 12). -/
opaque Config.secureRange : Nat → BitVec 64
/-- The number that stands for a kind of block in a snapshot: 0 core, 1 cluster, 2 slice, 3 copy engine, 4 Landing router,
5 fabric port, 6 monitor (R438, log entry 18). -/
opaque Config.blockKind : Nat → Nat
/-- Word 2 + j of the snapshot record of a core (0) or a cluster (1), from the contents that R438 names in its order (log entry 18). -/
opaque Config.snapshotWord : Nat → List Nat → Nat → BitVec 64
/-- The threshold of Table 28.4 that secure firmware sets for a kind of unit, 0 where it leaves the default (R440, log entry 66). -/
opaque Config.errorLimit : Nat → Nat
/-- The fences and the retired pages that the package flash records at power-on, by core and as a list of frames (R432, R440, log
entry 112). -/
opaque Config.flashFenced : Nat → Bool
opaque Config.flashRetired : List Nat
/-- The number that stands for a kind of report: 1 a domain's end, 2 a lasting classification, 3 a link or port down, 4 a
thermal trip, 5 a monitor's hit (R441, log entry 18). -/
opaque Config.reportKind : Nat → Nat

end Sys2Proof
end

