-- ==== Sys2Proof/Machine/Sparse.lean ====
section
/-! DEFINITION. Finite maps from natural numbers held as lists of pairs with rising keys, and total functions held
as such maps of the entries that differ from a default: the one canonical form of memories and register files. -/
namespace Sys2Proof.Machine

variable {α : Type}

/-- The entry of a key, if there is one. -/
def lookup : List (Nat × α) → Nat → Option α
  | [], _ => none
  | (k, v) :: m, a => if a = k then some v else lookup m a

/-- Insert or replace the entry of a key, keeping the keys in rising order. -/
def insert : List (Nat × α) → Nat → α → List (Nat × α)
  | [], a, x => [(a, x)]
  | (k, v) :: m, a, x =>
    if a = k then (a, x) :: m
    else if a < k then (a, x) :: (k, v) :: m
    else (k, v) :: insert m a x

/-- Remove the entry of a key. -/
def erase : List (Nat × α) → Nat → List (Nat × α)
  | [], _ => []
  | (k, v) :: m, a => if a = k then erase m a else (k, v) :: erase m a

/-- Read a total function with default d. -/
def fget (d : α) (m : List (Nat × α)) (a : Nat) : α := (lookup m a).getD d

/-- Write a total function with default d: an entry equal to the default is not listed. -/
def fset [DecidableEq α] (d : α) (m : List (Nat × α)) (a : Nat) (x : α) : List (Nat × α) :=
  if x = d then erase m a else insert m a x

/-- Keys rise strictly and every one is above the bound. -/
def rising : Option Nat → List (Nat × α) → Bool
  | _, [] => true
  | none, (k, _) :: m => rising (some k) m
  | some b, (k, _) :: m => decide (b < k) && rising (some k) m

/-- The canonical form: rising keys, and no entry equal to the default. -/
def canonical [DecidableEq α] (d : α) (m : List (Nat × α)) : Bool :=
  rising none m && m.all (fun e => decide (e.2 ≠ d))

/-- Write a run of consecutive keys from a on. -/
def fsetRun [DecidableEq α] (d : α) : List (Nat × α) → Nat → List α → List (Nat × α)
  | m, _, [] => m
  | m, a, x :: xs => fsetRun d (fset d m a x) (a + 1) xs

/-- Read n consecutive keys from a on. -/
def fgetRun (d : α) (m : List (Nat × α)) : Nat → Nat → List α
  | _, 0 => []
  | a, n + 1 => fget d m a :: fgetRun d m (a + 1) n

end Sys2Proof.Machine
end

