-- ==== Sys2Proof/Machine/State.lean ====
section
/-! DEFINITION. The state of the ZW-880 as plain data, the reasons a step can stop, and the state after reset.
Every list of pairs is a finite map in the form of Machine/Sparse.lean; a register file lists its nonzero entries. -/
namespace Sys2Proof.Machine

/-- Why the machine stops with a fault. There is no such reason: a trap, a halted crew (R394), an ended domain (R395) and the
halt of the package (R19, R370, R427) are states, and an access of the part itself to a physical address with nothing behind
it goes on (R11; log entry 27). -/
inductive Fault where
deriving DecidableEq, Repr

/-- The step has no meaning in this state. -/
inductive Refusal where
  /-- An instruction without a meaning. Raised by exec alone; safe. -/
  | notModelled (mnemonic : String)
  /-- A machine event whose condition does not hold, so that it does not come about. Raised by the events' meanings
  when they are named out of turn; safe. -/
  | notEnabled (event : String)
deriving DecidableEq, Repr

/-- Device memory or a scratchpad part as bytes; an unlisted byte reads 0 (log entry 1). -/
abbrev Memory := List Host.Cell

/-- The canonical form of a memory. -/
abbrev Memory.wf (m : Memory) : Bool := canonical (0 : Byte) m

/-- A scratchpad part (R55 to R57): its size, its bytes, its empty granules and its poisoned granules (R417). -/
structure Part where
  size : Nat := 0
  bytes : Memory := []
  empty : List (Nat × Bool) := []
  poison : List (Nat × Bool) := []
deriving DecidableEq, Repr

/-- A blocked LDS or STS (R59): its accesses and what is still to be served. -/
structure GranWait where
  level : Nat
  load : Bool
  fe : Nat
  d : Nat
  fmt : Nat
  /-- Lane and offset of every access. -/
  acc : List (Nat × Nat)
  /-- Lane and value: the store's element bits, or the load's bits received so far. -/
  data : List (Nat × DWord)
  /-- The granules not yet served. -/
  wait : List Nat
deriving DecidableEq, Repr

/-- A parked access (R46): the continuation of a LD, ATOM or CAS with remote lanes. -/
structure Parked where
  d : Nat
  pair : Bool
  fmt : Nat
  load : Bool
  lanes : BitVec 32
  next : BitVec 32
  at_ : BitVec 32
  /-- Lane and request still outstanding. -/
  wait : List (Nat × Nat)
  data : List (Nat × DWord)
  /-- Refused lanes with the reason and the address. -/
  refused : List (Nat × (Nat × DWord))
  since : Nat
  /-- The step of its issue, and the parts here that are still to be performed (R244). -/
  seq : Nat := 0
  left : Nat := 0
deriving DecidableEq, Repr

/-- A REMAP whose passes are formed (R92): the passes, the field each acts on, how many are done, and the entry. -/
structure RemapRun where
  ctx : Nat
  handle : Nat
  entry : BitVec 64
  target : BitVec 64
  old : List Nat
  new : List Nat
  passes : List (List Nat)
  done : Nat
  /-- The entry as it was read when the REMAP started or continued (R80, R98). -/
  desc : BitVec 4096 := 0
  /-- Every place of the pass in progress is read and its writes have begun (R95). -/
  mid : Bool := false
deriving DecidableEq, Repr

/-- A conversation request on its way to its home or waiting there (R300). -/
structure ConvReq where
  /-- 0 open, 1 bind, 2 send, 3 choose, 4 delegate, 5 close. -/
  op : Nat
  /-- The role value, or the handle of a bind with its role. -/
  role : BitVec 64 := 0
  kind : Nat := 0
  payload : List Byte := []
  imm : Bool := false
  rr : Nat := 0
  rrp : Nat := 0
  d : Nat := 0
  /-- The requester's world. -/
  sec : Bool := false
  /-- Set once the home has checked it and it waits for a slot. -/
  checked : Bool := false
  /-- CVDELEG: the passed role value, and the new one once its home has given it (R303). -/
  passed : BitVec 64 := 0
  moved : BitVec 64 := 0
  /-- CVOPEN: the table's address and its bytes as read. -/
  table : BitVec 64 := 0
  bytes : List Byte := []
deriving DecidableEq, Repr

/-- What a crew waits on (R39, R46, R161). -/
inductive Block where
  | qpush (q : Nat) (v : DWord)
  | qpop (q d : Nat)
  | barrier (id : Nat)
  | evwait (win : Nat) (mask : DWord) (any : Bool)
  /-- ACQTOK with the team's issue count when it issued (R263). -/
  | acqtok (n issue : Nat)
  | bwait (n : Nat)
  | granules (g : GranWait)
  | rvsend (slot a n : Nat)
  | rvrecv (slot d n c : Nat)
  | xchgx (ch d a n : Nat)
  | remap (d : Nat) (r : RemapRun)
  /-- A write that met COW: its page, the lanes that touch it and the address of the lowest (R70, R424). -/
  | cow (va : Nat) (lanes : BitVec 32) (addr : Nat)
  | conv (r : ConvReq)
  | cvrecv (d rr : Nat) (loc : DWord) (discard : Bool)
  /-- Granules of other devices that a register REMAP reads of its entry or target image (R366). -/
  | fetching
  /-- The S registers and the lane registers that an abandoned chain waits for (R161). -/
  | abandoned (regs loads : List Nat)
  | parked (p : Parked)
deriving DecidableEq, Repr

/-- A REP unit or an MCALL in progress (R162, R167). -/
inductive Run where
  | rep (i cnt : Nat)
  | mcall (op : Nat) (head : Nat)
deriving DecidableEq, Repr

/-- A load result that has not been written yet (R264, LOAD_RESULT_RETURN): the place of its lane register, fixed at issue
(R388), and lane and value. -/
structure PendingLoad where
  reg : Nat
  pair : Bool
  /-- Lane and the bits received so far. -/
  data : List (Nat × DWord)
  /-- The element's format in memory, its instruction's number, and the parts that have not been read yet. -/
  fmt : Nat := 13
  seq : Nat := 0
  left : Nat := 0
deriving DecidableEq, Repr

/-- A request sent into the fabric (R244, R362). -/
structure FabReq where
  /-- 0 ST, 1 RED, 2 engine granule write, 3 LD, 4 ATOM, 5 CAS, 6 CPYACC contribution, 7 conversation message, 8 engine granule read. -/
  kind : Nat
  dev : Nat
  rctx : Nat
  sec : Bool
  va : DWord
  size : Nat
  aop : BitVec 5
  fmt : BitVec 4
  data : DWord
  data2 : DWord
  crew : Nat
  lane : Nat
  plane : Nat
  /-- The page's kind is SO, and the access's stream (R364). -/
  so : Bool := false
  strm : Nat := 0
  /-- Byte offset of the request within its element. -/
  part : Nat := 0
  /-- The payload of a conversation's message. -/
  payload : List Byte := []
  /-- The data of an engine's write carry the poison marker (R418). -/
  bad : Bool := false
  /-- The bytes of a misaligned access that this device's own endpoint has still to serve, one by one (R325). -/
  bytes : List Nat := []
deriving DecidableEq, Repr

/-- A page that translates an access: its entry, the physical address of the access's first byte, and the level. -/
structure Page where
  pte : Nat
  pa : Nat
  level : Nat
deriving DecidableEq, Repr

/-- A checked part of an access: its page, count, offset in the access, and virtual address. -/
structure Piece where
  page : Page
  n : Nat
  off : Nat
  va : Nat
deriving DecidableEq, Repr

/-- A well-formed key-value cache descriptor (Table 10.6, R255). -/
structure KvDesc where
  vl : Nat
  pr : Nat
  bt : Nat
  w : Nat
  s : Nat
  nlayer : Nat
  rowb : Nat
  bLog : Nat
  es : Nat
  mode : Nat
deriving DecidableEq, Repr

/-- What a lane of KVAPP does: its position and places, the bytes of its K row and V row as read at issue, and the parts of its record,
its valid-length word, its K row and its V row (mode 0) or its V block of 16 tokens (mode 1). -/
structure KvPlan where
  lane : Nat
  p : Nat
  o : Nat
  ge : Nat
  kBytes : List Byte
  vBytes : List Byte
  entry : List Piece
  len : List Piece
  k : List Piece
  v : List Piece
deriving DecidableEq, Repr

/-- What an access does when it is performed: it reads or writes its bytes, takes an atomic's step, or appends to a key-value cache
(R311). -/
inductive AccOp where
  | plain
  /-- ATOM and RED, with AOP and FMT; the operand is the access's data. -/
  | atom (aop fmt : Nat)
  /-- CAS, with the value compared; the access's data are written where it is found. -/
  | cas (b : Nat)
  | kv (d : KvDesc) (x : KvPlan)
deriving DecidableEq, Repr

/-- A part of a memory access that has been issued and not performed (R313 to R317): of a load, a store or an atomic, here or through
a REMOTE page, or a lane of KVAPP. -/
structure Acc where
  /-- The step of the instruction's issue, which its parts share, and the lane. -/
  seq : Nat
  lane : Nat := 0
  /-- A read, and a write; an atomic is both, a RED a write (R246). -/
  rd : Bool := false
  wr : Bool := false
  /-- Physical address and bytes, of another device's memory the virtual address; both 0 where the access is none of device memory. -/
  pa : Nat := 0
  n : Nat := 0
  /-- The part's byte offset in the lane's element, and a write's bytes or an atomic's operand. -/
  off : Nat := 0
  data : Nat := 0
  /-- The write's instruction covers the part's granule whole (R418). -/
  full : Bool := false
  /-- ORD of the page (R63), the stream, and the qualifiers with their scope (Table 7.8). -/
  kind : Nat := 0
  strm : Nat := 0
  acq : Bool := false
  rel : Bool := false
  scope : Nat := 0
  /-- The other device on whose memory it acts; none where that is this device's. -/
  dev : Option Nat := none
  /-- The number of its request to the fabric, and the request while it has not been sent (R244). -/
  req : Option Nat := none
  send : Option FabReq := none
  op : AccOp := .plain
  /-- A store that a later access or event of narrower scope has passed: one more than the scope, CREW to DIE, within which every
  reader finds it; 0 for none (R321; log entry 5). -/
  late : Nat := 0
  /-- The atomic unit has asked for the lease of the access's line (R74). -/
  asked : Bool := false
deriving DecidableEq, Repr

/-- An entry of a crew's list of accesses in program order: one not performed, or a fence between them (R246). -/
inductive Pend where
  | acc (a : Acc)
  /-- The streams that the fence orders, its ORD and its scope. -/
  | fence (strms : BitVec 16) (ord : Nat) (scope : Nat)
deriving DecidableEq, Repr

/-- Where a crew of a team that is being pre-empted stands (R409). -/
inductive Stop where
  | running
  | atCkpt (pc : BitVec 32)
  /-- At the TRET of a handler that had put the pre-emption off (R231). -/
  | atTret
  /-- The reply of its parked access came when every other crew stood (R411). -/
  | replied
deriving DecidableEq, Repr

/-- A crew, or a logical group in compatibility mode (R23, R49; log entry 8). -/
structure Crew where
  /-- The crew is resident. -/
  bound : Bool := false
  /-- LaneLive, one bit per lane (R24). -/
  live : BitVec 32 := 0
  /-- The execution mask (R24). -/
  exm : BitVec 32 := 0
  pc : BitVec 32 := 0
  /-- Lane registers: V r of lane l at 32 r + l; HV0 to HV7 stand as registers 128 to 135 (R53, R392). -/
  v : List (Nat × Word) := []
  /-- Uniform registers: S0 to S31 at 0 to 31; HS0 to HS3 at 32 to 35 (R53, R392). -/
  sr : List (Nat × DWord) := []
  /-- Lane latches BL0 to BL3, by lane (R156). -/
  bl0 : List (Nat × DWord) := []
  bl1 : List (Nat × DWord) := []
  bl2 : List (Nat × DWord) := []
  bl3 : List (Nat × DWord) := []
  /-- Uniform latches BS0 to BS3 (R156). -/
  bs0 : DWord := 0
  bs1 : DWord := 0
  bs2 : DWord := 0
  bs3 : DWord := 0
  /-- Push counts and chain-end flag (R159), and the PC of the chain's head (R161). -/
  nL : Nat := 0
  nS : Nat := 0
  fin : Bool := false
  head : Option (BitVec 32) := none
  fpcr : DWord := 0
  fpsr : DWord := 0
  psel : DWord := 0
  rxf : DWord := 0
  strmdef : DWord := 0
  /-- Trap registers (R389 to R391). -/
  trapcause : DWord := 0
  trappc : DWord := 0
  traplanes : DWord := 0
  trapaddr : DWord := 0
  traprep : DWord := 0
  resumepc : DWord := 0
  /-- Role registers CVROLE0 to CVROLE3 (R296), by number. -/
  cvrole : List (Nat × DWord) := []
  /-- Generator states of SRSEED, by lane (R110). -/
  seed : List (Nat × Word) := []
  /-- Handler state and the instructions issued in it (R392, R394). -/
  inHandler : Bool := false
  handlerCount : Nat := 0
  halted : Bool := false
  block : Option Block := none
  run : Option Run := none
  /-- Outstanding-arrival bits (R250). -/
  arrivals : BitVec 16 := 0
  /-- Status registers that a command has not written yet (R264), by S number. -/
  pendS : List Nat := []
  loads : List PendingLoad := []
  /-- The accesses issued and not performed, remote ones without reply or acknowledgement among them (R244), and the
  fences between them (R247), in program order. -/
  pend : List Pend := []
  /-- Wait counts of the picker and its urgent marks, lane pipe and uniform pipe (R334). -/
  waitL : Nat := 0
  waitS : Nat := 0
  urgentL : Bool := false
  urgentS : Bool := false
  /-- The step of the crew's last issue to the lane pipe and to the uniform pipe, or of its last YIELD: the round-robin
  order (R38, R51, R229). -/
  lastL : Nat := 0
  lastS : Nat := 0
  /-- The crew's last issue was one with the other group of its hardware crew (R51, R226). -/
  together : Bool := false
  /-- A crew interrupt is held (R396). -/
  irq : Bool := false
  stop : Stop := .running
  /-- The next instruction is the blocking instruction of a restored crew (R414); the lanes that its LDS or STS has
  been served, with a load's data. -/
  reissue : Bool := false
  served : List (Nat × DWord) := []
  /-- CLOCK when the crew was blocked or began to wait (R161, R406), and the step number (R207). -/
  since : Nat := 0
  order : Nat := 0
  /-- The next instruction is the first after TRET or a restore: it uses TRAPREP (R172). -/
  resuming : Bool := false
  /-- What its register REMAP has read from other devices: by granule of the virtual address, the data and how the read ended (R366). -/
  got : List (Nat × (Nat × Nat)) := []
deriving DecidableEq, Repr

/-- A granule that a command has computed and not yet written (R311): the place (0 memory, else 1 plus the part's number) and granule
in one key, the bits that it writes, the marker that it leaves, the step at which its page was translated (R421), and whether more of
the granule is to come with the command's next page. -/
structure Owed where
  key : Nat
  mask : Nat
  data : Nat
  mark : Bool
  stamp : Nat := 0
  opened : Bool := false
deriving DecidableEq, Repr

/-- What the run of an engine command has reached. -/
inductive CmdRun where
  | waiting
  | started
  /-- An engine REMAP whose passes are formed (R92). -/
  | remap (r : RemapRun)
  /-- CRMERGE or CRFIN has joined its session (R288). -/
  | joined
  /-- The work is over but for writes that are still to be performed, here and on other devices (R264, R366). -/
  | ended (status : DWord)
deriving DecidableEq, Repr

/-- A command in an engine queue (R264): its words and what was captured at issue, as in the save image (R412). -/
structure Cmd where
  w : BitVec 32
  e : BitVec 32
  ops : List DWord := []
  tcs : List DWord := []
  crew : Nat
  /-- Where the status register stands among the crew's uniform registers. -/
  d : Nat
  batch : Nat := 0
  issue : Nat := 0
  /-- Bytes or pages of its work done so far (R286, R287). -/
  progress : Nat := 0
  /-- The byte before the first poisoned source granule met so far (R265). -/
  poisonAt : Option Nat := none
  /-- A copy-on-write page that holds the command (R70), and one whose path failed, with the cause (R424). -/
  cow : Option Nat := none
  bad : Option (Nat × Nat) := none
  run : CmdRun := .waiting
  /-- The entries of the handles it names, as read at its start: the cause of a failing check, 0 for none, and the entry
  (R80). -/
  ents : List (Nat × BitVec 4096) := []
  /-- Granules of memory and of parts that it has read ahead of its other reads, with their markers, by the key of an owed one; those that
  it is still to write; and what it has read from other devices, as a crew's (R311, R366). -/
  seen : List (Nat × (Nat × Bool)) := []
  owed : List Owed := []
  got : List (Nat × (Nat × Nat)) := []
  /-- Its status word stands in D although writes are outstanding (R266). -/
  told : Bool := false
  /-- The pages in progress by virtual page: entry, physical address, and the step at which they were translated (R421). -/
  pages : List (Nat × (Nat × Nat × Nat)) := []
deriving DecidableEq, Repr

/-- A matrix operation issued and not complete (R262, R274). -/
structure MatOp where
  w : BitVec 32
  e : BitVec 32
  tcs : List DWord
  issue : Nat
  step : Nat
deriving DecidableEq, Repr

/-- A team's logical queue mapped to a hardware queue (R44). -/
structure QMap where
  logical : Nat
  hw : Nat
deriving DecidableEq, Repr

/-- A bound team (R25, R36). -/
structure Team where
  launch : Nat := 0
  lrec : DWord := 0
  /-- Physical address of the context's RCB, its world, and the region's RCB address. -/
  ctx : Nat := 0
  sec : Bool := false
  region : DWord := 0
  fdom : Nat := 0
  teamid : Nat := 0
  nteams : Nat := 0
  /-- Crews, counting logical groups in compatibility mode (R50). -/
  ncrew : Nat := 0
  nvreg : Nat := 0
  ntile : Nat := 0
  nacc : Nat := 0
  lspb : Nat := 0
  dspb : Nat := 0
  coresident : Bool := false
  compat : Bool := false
  hndl : Bool := false
  handler : Nat := 0
  textsize : Nat := 0
  image : DWord := 0
  macwin : Nat := 0
  ttf : Bool := false
  /-- Tiles: byte b of tile n at 16384 n + b (R53). -/
  tiles : Memory := []
  /-- Granules of tiles and accumulators are not poisoned: their errors halt the reader (R417). -/
  tc : List (Nat × DWord) := []
  /-- Accumulators: 32-bit word w of tile n at 4096 n + w (R53). -/
  acc : List (Nat × Word) := []
  /-- Bit j: the matrix unit holds the token of ACCj (R263). -/
  tokhold : BitVec 8 := 0
  part : Part := {}
  matrix : List MatOp := []
  queues : List (Nat × List Cmd) := []
  /-- Batches (R269): number of the open one, the commands issued into it, the outstanding closed ones. -/
  batch : Nat := 0
  batchCmds : Nat := 0
  outstanding : List Nat := []
  issues : Nat := 0
  /-- Token-tree file (R307): nodes by Table 12.10, COUNT and ROOTPOS. -/
  tree : List (Nat × DWord) := []
  count : Nat := 0
  rootpos : Word := 0
  qmaps : List QMap := []
  /-- The pre-emption count has expired (R409). -/
  full : Bool := false
  saveSince : Nat := 0
  /-- The step of its bind or restore (R329). -/
  boundAt : Nat := 0
  /-- It is saved because its core is to be fenced (R432). -/
  fencedOff : Bool := false
  /-- A PREEMPT has been accepted and its save goes on (R331, R409). -/
  saving : Bool := false
deriving DecidableEq, Repr

/-- Slot-table entry (Table 14.1). -/
structure Slot where
  saveaddr : DWord := 0
  lrec : DWord := 0
  rcb : DWord := 0
  teamid : Nat := 0
  vrbase : Nat := 0
  cspoff : Nat := 0
  tilebase : Nat := 0
  accbase : Nat := 0
  crewbase : Nat := 0
  qmap : BitVec 160 := 0
  seq : Nat := 0
  prio : Nat := 0
  hold : Bool := false
  /-- 0 FREE, 1 BOUND, 2 SAVING, 3 SAVED, 4 REFUSED, 5 FENCED. -/
  st : Nat := 0
  /-- A command written and not yet acted on; 0 none. -/
  op : Nat := 0
  /-- The launch that LREC and RCB name, by its number here. -/
  launch : Nat := 0
deriving DecidableEq, Repr

/-- An open barrier phase (R42). -/
structure Phase where
  id : Nat
  scope : Nat
  /-- The team slot, the die, or 0 for the whole launch. -/
  inst : Nat
  arrived : List Nat
deriving DecidableEq, Repr

/-- What Almanac keeps of a saved team (R414, R415): its image, its place in the order of saves, and what the image of
Table 24.2 has no place for (log entry 20): issuing CREWID, status register, batch and issue number of each queued command
in queue order, the issue numbers and TC values of the matrix list, and the team's counts. -/
structure Saved where
  addr : DWord := 0
  order : Nat := 0
  cmds : List (Nat × Nat × Nat × Nat) := []
  matrix : List (Nat × List DWord) := []
  batch : Nat := 0
  batchCmds : Nat := 0
  outstanding : List Nat := []
  issues : Nat := 0
  /-- Crews with a held interrupt. -/
  irqs : List Nat := []
  /-- It was saved for the fencing of its core (R432). -/
  fencedOff : Bool := false
  /-- For each queued command the byte before its first poisoned granule (R265). -/
  marks : List (Option Nat) := []
deriving DecidableEq, Repr

/-- A launch in its region's launch queue (R26, R358). -/
structure Launch where
  record : BitVec 1024 := 0
  lrec : DWord := 0
  ctx : Nat := 0
  region : DWord := 0
  /-- Place in the region's launch queue. -/
  place : Nat := 0
  /-- Almanac has read the record; the launch is eligible (R32). -/
  read : Bool := false
  eligible : Bool := false
  /-- Its fault domain (R395). -/
  fdom : Nat := 0
  /-- Teams given to a slot so far in ascending TEAMID, those whose bind was refused, and the teams retired so far. -/
  bound : Nat := 0
  again : List Nat := []
  retired : Nat := 0
  /-- Retired whole, or ended with its fault domain (R395). -/
  ended : Bool := false
  phases : List Phase := []
  /-- The saved teams by TEAMID. -/
  saved : List (Nat × Saved) := []
deriving DecidableEq, Repr

/-- An image resident in a cluster (R61, R166). -/
structure Image where
  ctx : Nat
  va : DWord
  text : List Word
  hdr : BitVec 2048
  /-- The window held, and its entries' words and mark bytes. -/
  window : Option Nat
  macros : List (Nat × (List Word × List Byte))
deriving DecidableEq, Repr

/-- A hardware queue (R45, R252). -/
structure HwQueue where
  launch : Nat
  /-- The owning team slot for a core-level queue. -/
  owner : Option Nat
  level : Nat
  offset : Nat
  cap : Nat
  head : Nat := 0
  count : Nat := 0
deriving DecidableEq, Repr

/-- A tile task of the cluster task queue (R278, R279). -/
structure Task where
  record : BitVec 512
  addr : DWord
  /-- The launch and TEAMID of the issuing team. -/
  launch : Nat
  teamid : Nat
  ctx : Nat
  sec : Bool
  /-- The task's dependence was met at the last reading. -/
  met : Bool := false
  polled : Nat := 0
  core : Option Nat := none
  /-- Private accumulator: word r * 64 + c (F64 results as 64 bits), and the chunks done. -/
  acc : List (Nat × DWord) := []
  chunk : Nat := 0
  /-- A copy-on-write page that holds the task, and one whose path failed, with the cause. -/
  cow : Option Nat := none
  bad : Option (Nat × Nat) := none
  /-- The entries of A, B and C as read at its start, with the cause of a failing check, 0 for none (R80). -/
  ents : List (Nat × BitVec 4096) := []
  /-- The elements of C, 64 r + c, into which a poisoned source has gone (R418). -/
  hurt : List (Nat × Bool) := []
  /-- Its number, and what it has read ahead, is still to write, and has read from other devices, as a command's (R311, R366). -/
  num : Nat := 0
  seen : List (Nat × (Nat × Bool)) := []
  owed : List Owed := []
  got : List (Nat × (Nat × Nat)) := []
  /-- How far its end has come (R279): 1 the writes of C are formed, 2 TSTAT is written; and its status word. -/
  stage : Nat := 0
  status : DWord := 0
deriving DecidableEq, Repr

/-- A triple of a merge session: rank and 66 words per row (m, s, A). -/
structure Triple where
  rank : Nat
  rows : List (Nat × Word)
deriving DecidableEq, Repr

/-- A merge session of the cluster reduction unit (R288). -/
structure Session where
  launch : Nat
  slot : Nat
  n : Nat
  f : Nat
  nr : Nat
  triples : List Triple := []
  merged : Nat := 0
  result : List (Nat × Word) := []
  joined : Nat := 0
  finished : Nat := 0
deriving DecidableEq, Repr

/-- An atomic lease (R74, R75). -/
structure Lease where
  line : Nat
  size : Nat
  used : Nat
deriving DecidableEq, Repr

/-- An entry of a translation buffer (R66): context, level of the walk, the address bits that index down to it, and
the page table entry read. -/
structure TlbEntry where
  ctx : Nat
  level : Nat
  index : Nat
  pte : BitVec 64
deriving DecidableEq, Repr

/-- The units of a cluster (Table 1.3). -/
structure Cluster where
  images : List Image := []
  hwq : List (Nat × HwQueue) := []
  tasks : List Task := []
  sessions : List Session := []
  leases : List Lease := []
  /-- Lines and sizes for which the atomic unit has asked for a lease (R74). -/
  wants : List (Nat × Nat) := []
  pred : List (Nat × Nat) := []
  tlb : List TlbEntry := []
deriving DecidableEq, Repr

/-- A message in a conversation's slot (R295, R302): what its header says. The payload stands in the slot, in conversation
memory (R368). -/
structure Msg where
  slot : Nat
  code : Nat
  kind : Nat
  sender : Nat
  recv : Nat
  /-- Bytes of payload. -/
  len : Nat
  imm : Bool
deriving DecidableEq, Repr

/-- A conversation at its home (R295). -/
structure Conv where
  isOpen : Bool := false
  state : Nat := 0
  gen : Nat := 1
  sec : Bool := false
  ctx : Nat := 0
  table : DWord := 0
  /-- The loaded table: NS, NR, NK and the entries. -/
  ns : Nat := 0
  nr : Nat := 0
  nk : Nat := 0
  entries : List (BitVec 16) := []
  /-- Binding nonces of the roles (0 unbound), and the previous ones. -/
  nonces : List (Nat × Nat) := []
  lastNonces : List (Nat × Nat) := []
  /-- Crews whose requests wait for a slot, oldest first (R300). -/
  queue : List Nat := []
  msgs : List Msg := []
  /-- A close in a terminal state waits for the deliveries (R304). -/
  closing : Option Nat := none
deriving DecidableEq, Repr

/-- A launch ring's state beside its registers (R357): the accepted kick count, and when the wait for a record began. -/
structure Ring where
  kicks : Nat := 0
  since : Option Nat := none
deriving DecidableEq, Repr

/-- What the outside brings about beside the events of the table: a storage error (Table 25.1), where bad says that it cannot be
corrected, or secure firmware's clearing of a core's fence (R432). -/
inductive Upset where
  /-- A granule of device memory, or of a part that a team slot reaches at a level. -/
  | memory (granule : Nat) (bad : Bool)
  | part (slot level granule : Nat) (bad : Bool)
  /-- A register of a crew, or a tile or an accumulator that it reads. -/
  | register (crew : Nat) (bad : Bool)
  /-- The instruction store of a cluster, and an entry of its translation buffers. -/
  | text (cluster : Nat) (bad : Bool)
  | walk (cluster k : Nat)
  /-- An entry of a cluster's lease table. -/
  | lease (cluster line : Nat) (bad : Bool)
  /-- Secure firmware clears the fence of a core. -/
  | unfence (core : Nat)
deriving DecidableEq, Repr

/-- A copy-on-write path that has begun its third step and waits for a frame (R386): its context by RCB address, its page, the die that
performs it, and whether a request of another device asked for it. -/
structure CowHold where
  ctx : Nat
  page : Nat
  die : Nat
  remote : Bool := false
deriving DecidableEq, Repr

/-- A fault domain that is to be ended (R395), with the halted crew or the reason that is its cause. -/
structure DomainEnd where
  ctx : Nat
  fdom : Nat
  crew : Option Nat
  driver : Bool
  /-- The reason of R332, and the launch that it or R27 concerns. -/
  reason : Nat := 0
  launch : Option Nat := none
deriving DecidableEq, Repr

/-- What an Equinox capture has latched at T (R438): the crews, teams, slot-table entries and clusters, and words +0x08 to +0x1F of
the 32 monitors. -/
structure Snap where
  crews : List (Nat × Crew) := []
  teams : List (Nat × Team) := []
  slots : List (Nat × Slot) := []
  clusters : List (Nat × Cluster) := []
  monitors : List DWord := []
  /-- The step of the capture. -/
  step : Nat := 0
deriving DecidableEq, Repr

/-- The whole package. -/
structure State where
  /-- Device memory by physical address (R11) and its poisoned granules (R417). -/
  mem : Memory := []
  poison : List (Nat × Bool) := []
  /-- The crew whose instruction the step performs: 16 times the team slot plus CREWID; a team slot is
  2 COREID plus the slot of the core (R330). -/
  cur : Nat := 0
  crews : List (Nat × Crew) := []
  teams : List (Nat × Team) := []
  slots : List (Nat × Slot) := []
  launches : List (Nat × Launch) := []
  /-- Cluster parts and die parts: launch, level (1 cluster, 2 die) and place in one key (R55). -/
  parts : List (Nat × Part) := []
  clusters : List (Nat × Cluster) := []
  /-- Event vectors held by the event unit, by RCB address (R31). -/
  vectors : List (Nat × BitVec 256) := []
  /-- Next place in each region's launch queue, by the launch queue's physical address. -/
  queueEnds : List (Nat × Nat) := []
  convs : List (Nat × Conv) := []
  /-- Copy-on-write paths that wait for a frame (R386). -/
  cowHold : List CowHold := []
  /-- Copy-on-write paths that failed, as reported to the driver, oldest first: RCB address and page (R424; log entry 110). -/
  cowReports : List (Nat × Nat) := []
  /-- Frame pools of the dies, and of secure firmware at 8 + die (R375, R387): frames, top first. -/
  pools : List (Nat × List Nat) := []
  /-- Ordered accumulation (R286): the index that each granule expects next; key by place and granule. -/
  expect : List (Nat × Nat) := []
  /-- BAR0 registers: function times 65536 plus offset; shared ones under function 0 (Table 16.1). -/
  bar0 : List (Nat × DWord) := []
  rings : List (Nat × Ring) := []
  /-- MSI-X vectors raised and not taken: function times 8 plus vector. -/
  msix : List Nat := []
  /-- Notices per die, and the number written (R331). -/
  notices : List (Nat × List DWord) := []
  /-- Secure ranges: register words SECBASE and SECLIMIT of stack s, range r at 8 s + 2 r and 8 s + 2 r + 1 (R374). -/
  secure : List (Nat × DWord) := []
  meas : List (Nat × BitVec 256) := []
  /-- Fenced cores (package flash, R432). -/
  fenced : List (Nat × Bool) := []
  /-- Cores classed as lastingly faulty whose teams have not left yet (R432). -/
  fencing : List Nat := []
  /-- The list of retired frames (package flash, R440). -/
  retired : List Nat := []
  /-- In-band interrupts raised over I3C to the board management controller and not taken, oldest first (R442): 1 a thermal trip,
  2 a boot verification failure, 3 a link down, 4 a lasting classification. -/
  bmc : List Nat := []
  /-- Errors counted in the current window, by unit (R440): correctable, and uncorrectable in this and the last window. -/
  errors : List (Nat × (Nat × Bool × Bool)) := []
  /-- The granules of device memory with a correctable error in the current window (R440). -/
  struck : List Nat := []
  /-- Correctable errors of the units and replays and retrains of the links in the current 1 ms window, by die, source of Table 28.2 and
  SRCARG in one key (R417, R426, R436). -/
  tally : List (Nat × Nat) := []
  /-- Thresholds of Table 28.4 that secure firmware has set, by kind of unit: 0 core, 1 cluster, 2 DRAM page, 3 link; 0 for the default
  (R440). -/
  limits : List (Nat × Nat) := []
  /-- Storage errors and cleared fences that the outside brings about, oldest first (R417, R432; log entry 95). -/
  upsets : List Upset := []
  /-- Links: replays of the present flit, failed retrains in the window, down (R426), by the number of Machine/Topology.lean: a
  Pontoon link by the lower of its two ports, 32 on the fabric planes. -/
  links : List (Nat × (Nat × Nat × Bool)) := []
  /-- Requests in the fabric, by number, and the number of the next. -/
  fabric : List (Nat × FabReq) := []
  nextReq : Nat := 0
  /-- Fault domains to be ended. -/
  ends : List DomainEnd := []
  /-- Crews named by a crew-interrupt request that has not finished (R400). -/
  irqs : List Nat := []
  /-- An Equinox capture whose buffer is being written (R438, R439). -/
  capture : Option Snap := none
  /-- The requests that an invalidation under way waits for, and the step at which it began (R367). -/
  drain : List Nat := []
  drainAt : Nat := 0
  /-- An attestation report under way: ATTNONCE and ATTADDR as read when the command was taken (R371). -/
  attest : Option (BitVec 256 × DWord) := none
  /-- Requests older than 256 crossbar cycles treated as tag 0 (R338): die, port and input in one key. -/
  aged : List Nat := []
  /-- The power manager limits issue (R18). -/
  limited : Bool := false
  /-- The package has stopped all issue until reset (R19, R427, R370). -/
  halted : Bool := false
  booted : Bool := false
  /-- CLOCK (R217). -/
  clock : Nat := 0
  /-- The model's own: the counter of steps and of free values, and the inputs from outside (log entries 2 and 4). -/
  fresh : Nat := 0
  /-- What the engine command of the present step has written: place, granule and bits, and bit 128 where it writes the granule poisoned;
  empty between steps (log entry 49). -/
  wrote : List (Nat × (Nat × Nat)) := []
  inputs : List (Option Instr) := []
  /-- Bring-up has reached the end of step 6, and the ring and fabric requests held until then, oldest first (R372; log entry
  94). -/
  opened : Bool := false
  early : List Instr := []
  /-- What last left the package: the value of a host read, the 64 health bytes, a reply to another device (R355, R365,
  R442). -/
  hostRead : BitVec 2112 := 0
  /-- The last attestation report written, by its bytes (Table 16.5). -/
  attReport : BitVec 66304 := 0
deriving DecidableEq, Repr

/-- The BAR0 registers whose reset value is not zero: SHIRQEN of function 0 (Table 16.1), THRESH and VGMIN of the 32
monitors (Table 28.1), FMASK (Table 28.3). -/
def bar0Reset : List (Nat × DWord) :=
  (0x2050, 0x3C#64) ::
    ((List.range 32).flatMap fun m => [(0x7000 + 128 * m, 0xFFFFFFFF00000000#64), (0x7008 + 128 * m, 0xFFFFFFFF#64)]) ++
    [(0x8000, 0xFE#64)]

/-- The package right after power-on: nothing bound, memory with nothing listed, the registers at the values of
their tables. The pc of a crew is set at its bind (R36); the first step of the package is BOOT (log entry 3). -/
def State.reset : State := { bar0 := bar0Reset }

end Sys2Proof.Machine
end

