-- ==== Sys2Proof/Machine/Ops.lean ====
section
/-! DEFINITION. The named operations over the state: crews, teams and units by key, bytes and words, device memory
and scratchpad parts, latches, taking a trap (R388) and returning from one (R393), and the frame every crew
instruction runs in (R159, R401). -/
namespace Sys2Proof.Machine

/-- The outcome of a step. -/
abbrev Out := Host.Outcome State Fault Refusal

/-! Bytes and bits. -/

/-- The n low bytes of a number, lowest first (R1). -/
def bytesOf : Nat → Nat → List Byte
  | 0, _ => []
  | n + 1, v => BitVec.ofNat 8 v :: bytesOf n (v / 256)

/-- The number that bytes hold, lowest first (R1). -/
def natOf : List Byte → Nat
  | [] => 0
  | b :: bs => b.toNat + 256 * natOf bs

/-- Bits lo up to lo + n - 1 of a number (x[hi:lo] of spec/00). -/
def field (v lo n : Nat) : Nat := v / 2 ^ lo % 2 ^ n

/-- SignExt(x, n) (R6). -/
def signExt (n v : Nat) : Int := if 2 ^ (n - 1) ≤ v % 2 ^ n then (v % 2 ^ n : Nat) - (2 ^ n : Nat) else (v % 2 ^ n : Nat)

/-- Wrap(x, n) of an integer (R6). -/
def wrapInt (n : Nat) (v : Int) : Nat := (v % (2 ^ n : Nat)).toNat

/-- Popc(x) (R6). -/
def popc (v : Nat) : Nat → Nat
  | 0 => 0
  | n + 1 => v % 2 + popc (v / 2) n

/-- Clog2(e): the least b with 2^b at least e (R6). -/
def clog2 (e : Nat) : Nat := if e ≤ 1 then 0 else (e - 1).log2 + 1

/-! Keys of the units (R14, R330). -/

def coreOf (slot : Nat) : Nat := slot / 2
def clusterOf (slot : Nat) : Nat := slot / 16
def dieOf (slot : Nat) : Nat := slot / 192
def slotOf (crew : Nat) : Nat := crew / 16

/-- The key of a crew that is no longer there: what it had asked for goes on without it. -/
def goneKey : Nat := 2 ^ 60

/-- The key that stands for the tile tasks in their requests to other devices. -/
def taskKey : Nat := goneKey + 16

/-- The key under which an interrupt request waits for a crew of a saved team (R396). -/
def savedKey (launch teamid c : Nat) : Nat := 2 ^ 16 + (launch * 2 ^ 24 + teamid) * 16 + c

def State.crewAt (s : State) (k : Nat) : Crew := fget {} s.crews k
def State.setCrewAt (s : State) (k : Nat) (c : Crew) : State := { s with crews := insert s.crews k c }
/-- The crew whose instruction is performed. -/
def State.crew (s : State) : Crew := s.crewAt s.cur
def State.setCrew (s : State) (c : Crew) : State := s.setCrewAt s.cur c
def State.teamAt (s : State) (k : Nat) : Team := fget {} s.teams k
def State.setTeamAt (s : State) (k : Nat) (t : Team) : State := { s with teams := insert s.teams k t }
/-- The team of that crew. -/
def State.team (s : State) : Team := s.teamAt (slotOf s.cur)
def State.setTeam (s : State) (t : Team) : State := s.setTeamAt (slotOf s.cur) t
def State.slotAt (s : State) (k : Nat) : Slot := fget {} s.slots k
def State.setSlotAt (s : State) (k : Nat) (e : Slot) : State := { s with slots := insert s.slots k e }
def State.launchAt (s : State) (k : Nat) : Launch := fget {} s.launches k
def State.setLaunchAt (s : State) (k : Nat) (l : Launch) : State := { s with launches := insert s.launches k l }
def State.clusterAt (s : State) (k : Nat) : Cluster := fget {} s.clusters k
def State.setClusterAt (s : State) (k : Nat) (c : Cluster) : State := { s with clusters := insert s.clusters k c }
/-- A conversation; GEN starts at a value that its home draws (R430; log entry 13). -/
def State.convAt (s : State) (k : Nat) : Conv := fget { gen := 1 + Config.nonce k % 65535 } s.convs k
def State.setConvAt (s : State) (k : Nat) (c : Conv) : State := { s with convs := insert s.convs k c }
/-- A team of a slot runs: its entry reads BOUND, or REFUSED after a command that was refused while the team ran there, which
leaves the core untouched (R331). -/
def State.teamRuns (s : State) (slot : Nat) : Bool :=
  (s.slotAt slot).st == 1 || ((s.slotAt slot).st == 4 && (lookup s.teams slot).isSome && !(s.teamAt slot).saving)
/-- The team of a slot is being saved: its entry reads SAVING, or REFUSED after a command that was refused meanwhile (R331). -/
def State.teamSaves (s : State) (slot : Nat) : Bool :=
  (s.slotAt slot).st == 2 || ((s.slotAt slot).st == 4 && (lookup s.teams slot).isSome && (s.teamAt slot).saving)
/-- The cluster of the current crew. -/
def State.cluster (s : State) : Cluster := s.clusterAt (clusterOf (slotOf s.cur))

/-- BAR0 register at an offset, of function 0 for the shared ones (R354). -/
def State.reg (s : State) (fn off : Nat) : DWord := fget 0 s.bar0 (65536 * fn + off)
def State.setReg (s : State) (fn off : Nat) (v : DWord) : State := { s with bar0 := fset 0 s.bar0 (65536 * fn + off) v }

/-! Lanes (R6, R23, R24, R49). -/

/-- WIDTH of the current crew. -/
def State.width (s : State) : Nat := if s.team.compat then 16 else 32

/-- The lanes of a mask below WIDTH, ascending. -/
def lanesOf (w : Nat) (m : BitVec 32) : List Nat := (List.range w).filter (fun l => m.getLsbD l)

/-- ActMask: the lanes of Active(EXM) as a mask (R210). -/
def State.actMask (s : State) : BitVec 32 :=
  s.crew.exm &&& s.crew.live &&& BitVec.ofNat 32 (2 ^ s.width - 1)

/-- LiveMask (R210). -/
def State.liveMask (s : State) : BitVec 32 := s.crew.live &&& BitVec.ofNat 32 (2 ^ s.width - 1)

/-- Active(EXM), ascending. -/
def State.active (s : State) : List Nat := lanesOf s.width s.actMask

/-- The mask of a list of lanes. -/
def maskOf (ls : List Nat) : BitVec 32 := ls.foldl (fun m l => m ||| BitVec.ofNat 32 (2 ^ l)) 0

/-! Registers: V88 to V95 and S28 to S31 give way to HV and HS in the handler (R130, R392). -/

/-- Where the lane register of a code stands. -/
def vIndex (c : Crew) (r : Nat) : Nat := if c.inHandler && decide (88 ≤ r) && decide (r ≤ 95) then r + 40 else r

/-- Where the uniform register of a number stands. -/
def sIndex (c : Crew) (r : Nat) : Nat := if c.inHandler && decide (28 ≤ r) then r + 4 else r

def Crew.getV (c : Crew) (r l : Nat) : Word := fget 0 c.v (32 * vIndex c r + l)
def Crew.setV (c : Crew) (r l : Nat) (x : Word) : Crew := { c with v := fset 0 c.v (32 * vIndex c r + l) x }
def Crew.getS (c : Crew) (r : Nat) : DWord := fget 0 c.sr (sIndex c r)
def Crew.setS (c : Crew) (r : Nat) (x : DWord) : Crew := { c with sr := fset 0 c.sr (sIndex c r) x }

/-- A pair: bits [31:0] in the first register (R53). -/
def Crew.getPair (c : Crew) (r l : Nat) : DWord := c.getV (r + 1) l ++ c.getV r l
def Crew.setPair (c : Crew) (r l : Nat) (x : DWord) : Crew :=
  (c.setV r l (x.extractLsb' 0 32)).setV (r + 1) l (x.extractLsb' 32 32)

/-- Write a register in several lanes. -/
def Crew.setVs (c : Crew) (r : Nat) (ls : List Nat) (f : Nat → Word) : Crew :=
  ls.foldl (fun c l => c.setV r l (f l)) c
def Crew.setPairs (c : Crew) (r : Nat) (ls : List Nat) (f : Nat → DWord) : Crew :=
  ls.foldl (fun c l => c.setPair r l (f l)) c

/-! Latches (R156). -/

/-- The latch values of one lane result: the lanes written, zero in the others. -/
def laneFile (ls : List Nat) (f : Nat → DWord) : List (Nat × DWord) := ls.foldl (fun m l => fset 0 m l (f l)) []

def Crew.pushL (c : Crew) (ls : List Nat) (f : Nat → DWord) : Crew :=
  { c with bl3 := c.bl2, bl2 := c.bl1, bl1 := c.bl0, bl0 := laneFile ls f }
def Crew.pushS (c : Crew) (x : DWord) : Crew := { c with bs3 := c.bs2, bs2 := c.bs1, bs1 := c.bs0, bs0 := x }

/-- Latches and chain counts zero (R388 step 3, R46). -/
def Crew.clearChain (c : Crew) : Crew :=
  { c with bl0 := [], bl1 := [], bl2 := [], bl3 := [], bs0 := 0, bs1 := 0, bs2 := 0, bs3 := 0
           nL := 0, nS := 0, fin := false, head := none }

/-- The counts alone (R159: REP units and MCALL). -/
def Crew.clearCounts (c : Crew) : Crew := { c with nL := 0, nS := 0, fin := false, head := none }

/-! Device memory (R11) and poison (R417, R418). -/

/-- The first address without device memory. -/
def memTop : Nat := 0x6000000000

def State.byte (s : State) (a : Nat) : Byte := fget 0 s.mem a
def State.readMem (s : State) (a n : Nat) : List Byte := fgetRun 0 s.mem a n
def State.readNat (s : State) (a n : Nat) : Nat := natOf (s.readMem a n)

/-- The granules that bytes a to a + n - 1 touch. -/
def granules (a n : Nat) : List Nat := if n = 0 then [] else (List.range ((a + n - 1) / 16 - a / 16 + 1)).map (· + a / 16)

/-- The granules that bytes a to a + n - 1 cover whole. -/
def fullGranules (a n : Nat) : List Nat := (granules a n).filter (fun g => decide (a ≤ 16 * g) && decide (16 * g + 16 ≤ a + n))

def setFlags (m : List (Nat × Bool)) (gs : List Nat) (b : Bool) : List (Nat × Bool) := gs.foldl (fun m g => fset false m g b) m

/-- A write to device memory: a write that covers a granule whole clears its poison marker (R418). -/
def State.writeMem (s : State) (a : Nat) (bs : List Byte) : State :=
  { s with mem := fsetRun 0 s.mem a bs, poison := setFlags s.poison (fullGranules a bs.length) false }

def State.writeNat (s : State) (a n v : Nat) : State := s.writeMem a (bytesOf n v)

/-- Write bytes at a physical address; a write to host memory leaves the package (R361). -/
def State.storePhys (s : State) (pa : Nat) (bs : List Byte) : State := if pa + bs.length ≤ memTop then s.writeMem pa bs else s

/-- Some byte of a range is poisoned (R418). -/
def State.poisoned (s : State) (a n : Nat) : Bool := (granules a n).any (fun g => fget false s.poison g)

/-! Scratchpad parts (R55 to R57). -/

/-- Key of a launch's part at level 1 (cluster, place die * 12 + cluster) or 2 (die). -/
def partKey (launch level place : Nat) : Nat := (launch * 2 + (level - 1)) * 128 + place

/-- A part by level, as a team slot reaches it (R56): its own core part, or its launch's part. -/
def State.partAt (s : State) (slot level : Nat) : Part :=
  match level with
  | 0 => (s.teamAt slot).part
  | 1 => fget {} s.parts (partKey (s.teamAt slot).launch 1 (clusterOf slot))
  | _ => fget {} s.parts (partKey (s.teamAt slot).launch 2 (dieOf slot))

def State.setPartAt (s : State) (slot level : Nat) (p : Part) : State :=
  match level with
  | 0 => s.setTeamAt slot { s.teamAt slot with part := p }
  | 1 => { s with parts := insert s.parts (partKey (s.teamAt slot).launch 1 (clusterOf slot)) p }
  | _ => { s with parts := insert s.parts (partKey (s.teamAt slot).launch 2 (dieOf slot)) p }

/-- One number per part: level and the part's key. -/
def State.partId (s : State) (slot level : Nat) : Nat :=
  if level = 0 then slot else level * 2 ^ 40 + partKey (s.teamAt slot).launch level (if level = 1 then clusterOf slot else dieOf slot)

/-- The part of a number, and a change of it; a part that is there no more takes none. -/
def State.partOf (s : State) (id : Nat) : Part := if id < 2 ^ 40 then (s.teamAt id).part else fget {} s.parts (id % 2 ^ 40)
def State.setPartOf (s : State) (id : Nat) (p : Part) : State :=
  if id < 2 ^ 40 then (if (lookup s.teams id).isSome then s.setTeamAt id { s.teamAt id with part := p } else s)
  else if (lookup s.parts (id % 2 ^ 40)).isSome then { s with parts := insert s.parts (id % 2 ^ 40) p }
  else s

def Part.read (p : Part) (a n : Nat) : List Byte := fgetRun 0 p.bytes a n
def Part.write (p : Part) (a : Nat) (bs : List Byte) : Part :=
  { p with bytes := fsetRun 0 p.bytes a bs, poison := setFlags p.poison (fullGranules a bs.length) false }
def Part.poisoned (p : Part) (a n : Nat) : Bool := (granules a n).any (fun g => fget false p.poison g)
def Part.isEmpty (p : Part) (g : Nat) : Bool := fget false p.empty g
def Part.setEmpty (p : Part) (gs : List Nat) (b : Bool) : Part := { p with empty := setFlags p.empty gs b }

/-- An engine's write of bytes: the data and the full bits in one step (R57). -/
def Part.engineWrite (p : Part) (a : Nat) (bs : List Byte) : Part :=
  (p.write a bs).setEmpty (granules a bs.length) false

/-! Interrupts, Equinox and reports. -/

/-- Raise an MSI-X vector in a function. -/
def State.raiseIn (s : State) (fn vec : Nat) : State :=
  if s.msix.contains (8 * fn + vec) then s else { s with msix := s.msix ++ [8 * fn + vec] }

/-- Raise a shared event's vector in every function whose SHIRQEN bit is set (R376). -/
def State.raiseShared (s : State) (vec : Nat) : State :=
  [0, 1].foldl (fun s fn => if (s.reg fn 0x2050).getLsbD vec then s.raiseIn fn vec else s) s

/-- What the blocks latch when Equinox captures (R438). -/
def State.latch (s : State) : Snap :=
  { crews := s.crews, teams := s.teams, slots := s.slots, clusters := s.clusters, step := s.fresh
    monitors := (List.range 32).flatMap fun m => (List.range 3).map fun j => s.reg 0 (0x7008 + 128 * m + 8 * j) }

/-- A capture has been made in this cycle, which is this step, and Equinox has not been armed again. -/
def State.capturing (s : State) : Bool :=
  s.capture.any (fun x => x.step == s.fresh) && s.reg 0 0x8010 == dw s.clock && !(s.reg 0 0x8000).getLsbD 0

/-- Fire Equinox (R438, R439): cause is the bit number in EQCAUSE, 0 software, 1 to 7 the fault sources, 8 + m a
monitor; a fault source fires only where FMASK names it. A Pontoon link down fires whatever ARM and FMASK hold. Firings in one cycle
form one capture, whose EQCAUSE records them all. -/
def State.fireEquinox (s : State) (cause : Nat) : State :=
  let ctl := s.reg 0 0x8000
  if 1 ≤ cause && decide (cause ≤ 7) && !ctl.getLsbD cause && cause != 5 then s
  else if s.capturing then s.setReg 0 0x8018 (s.reg 0 0x8018 ||| dw (2 ^ cause))
  else if ctl.getLsbD 0 || cause == 5 then
    { ((s.setReg 0 0x8000 (ctl &&& ~~~1#64)).setReg 0 0x8010 (dw s.clock)).setReg 0 0x8018 (dw (2 ^ cause)) with
      capture := some s.latch }
  else s.setReg 0 0x8028 (dw ((s.reg 0 0x8028).toNat + 1) &&& 0xFFFFFFFF#64)

/-! Vigil monitors (R436, R437). -/

def vigilReg (m off : Nat) : Nat := 0x7000 + 128 * m + off

/-- The source of a monitor. -/
def State.vigilSrc (s : State) (m : Nat) : Nat := field (s.reg 0 (vigilReg m 0)).toNat 8 8

/-- Write a 64-byte record into a ring of the discipline of R423: base, head, tail and drop registers at off, off + 8,
off + 16 and off + 24, with the number of entries. -/
def State.ringWrite (s : State) (off entries : Nat) (rec : Nat) : State :=
  let base := (s.reg 0 off).toNat
  let head := (s.reg 0 (off + 8)).toNat % 2 ^ 32
  let tail := (s.reg 0 (off + 16)).toNat % 2 ^ 32
  if base ≠ 0 ∧ (tail + 2 ^ 32 - head) % 2 ^ 32 < entries then
    (s.storePhys (base + 64 * (tail % entries)) (bytesOf 64 rec)).setReg 0 (off + 16) (dw ((tail + 1) % 2 ^ 32))
  else s.setReg 0 (off + 24) (dw (((s.reg 0 (off + 24)).toNat + 1) % 2 ^ 32))

/-- A record of the fault report ring (R441): kind 1 domain end, 2 lasting fault, 3 link or port down, 4 thermal trip,
5 monitor hit, each with a number that the spec does not give (log entry 18). -/
def State.report (s : State) (kind unit w2 w3 w4 w5 w6 w7 : Nat) : State :=
  let rec_ := (Config.reportKind kind % 256 * 2 ^ 56 + unit % 2 ^ 16 * 2 ^ 32) + s.clock % 2 ^ 64 * 2 ^ 64 + w2 * 2 ^ 128 + w3 * 2 ^ 192 +
    w4 * 2 ^ 256 + w5 * 2 ^ 320 + w6 * 2 ^ 384 + w7 * 2 ^ 448
  (s.ringWrite 0x6200 256 rec_).raiseShared 4

/-- A monitor takes a sample (R437). -/
def State.vigilTake (s : State) (m v : Nat) : State :=
  let c := s.reg 0 (vigilReg m 0)
  if !c.getLsbD 0 || c.getLsbD 2 then s
  else
    let low (off : Nat) : Nat := (s.reg 0 (vigilReg m off)).toNat
    let bin := min 15 (v / 2 ^ field c.toNat 4 4)
    let off := 0x20 + bin / 2 * 8
    let old := field (low off) (32 * (bin % 2)) 32
    let hist := low off - old * 2 ^ (32 * (bin % 2)) + min (old + 1) (2 ^ 32 - 1) * 2 ^ (32 * (bin % 2))
    let s1 := (((s.setReg 0 (vigilReg m 0x18) (dw (min (low 0x18 + 1) (2 ^ 32 - 1)))).setReg 0 (vigilReg m 8) (dw (min (low 8) v))).setReg
      0 (vigilReg m 0x10) (dw (max (low 0x10) v))).setReg 0 (vigilReg m off) (dw hist)
    if field c.toNat 32 32 ≤ v then
      let s2 := s1.setReg 0 (vigilReg m 0) (c ||| 0x80000000#64)
      if c.getLsbD 3 then (s2.fireEquinox (8 + m)).report 5 m 0 0 0 0 0 0 else s2
    else s1

/-- A sample of a source at a unit of a die, by SRCARG: every monitor of the die that is set to it takes it (R436). -/
def State.sample (s : State) (die src arg v : Nat) : State :=
  (List.range 4).foldl (fun s j =>
    let m := 4 * die + j
    if s.vigilSrc m = src ∧ field (s.reg 0 (vigilReg m 0)).toNat 16 8 = arg then s.vigilTake m (min v (2 ^ 32 - 1)) else s) s

/-- An in-band interrupt to the board management controller (R442). -/
def State.tellBmc (s : State) (kind : Nat) : State := { s with bmc := s.bmc ++ [kind] }

/-- A notice into a die's notice ring (R331): the last 256 stand. -/
def State.notice (s : State) (slot code reason : Nat) : State :=
  let old := fget [] s.notices (dieOf slot)
  let w := dw (slot % 192 + code * 256 + reason * 65536 + (s.slotAt slot).seq * 2 ^ 32)
  { s with notices := insert s.notices (dieOf slot) ((old ++ [w]).drop (old.length + 1 - 256)) }

/-! Traps (R388 to R394). -/

/-- A trap's cause: its code, its lanes, TRAPADDR and INFO. -/
structure Trap where
  code : Nat
  lanes : BitVec 32
  addr : DWord := 0
  info : Nat := 0
  async : Bool := false
deriving DecidableEq, Repr

/-- Illegal instruction and illegal operand, in the lanes of Active(EXM) (R390). -/
def State.illegalInstr (s : State) : Trap := { code := 1, lanes := s.actMask }
def State.illegalOperand (s : State) : Trap := { code := 2, lanes := s.actMask }

/-- The fault domain of the current crew's team is to be ended (R394, R395). -/
def State.endDomainOf (s : State) (k : Nat) : State :=
  let t := s.teamAt (slotOf k)
  { s with ends := s.ends ++ [{ ctx := t.ctx, fdom := t.fdom, crew := some k, driver := false }] }

/-- A crew named by the present interrupt request has taken it, or the request is dropped for it; BUSY falls with the
last (R400). -/
def State.irqDone (s : State) (k : Nat) (dropped : Bool) : State :=
  if s.irqs.contains k then
    let rest := s.irqs.erase k
    let st := s.reg 0 0x6350 ||| (if dropped then 2#64 else 0#64)
    { s.setReg 0 0x6350 (if rest.isEmpty then st &&& ~~~1#64 else st) with irqs := rest }
  else s

/-- A crew has retired or halted: a held crew interrupt is dropped (R396, R400). -/
def State.dropIrq (s : State) (k : Nat) : State :=
  (s.setCrewAt k { s.crewAt k with irq := false }).irqDone k true

/-- The crew halts: it issues nothing more and its fault domain ends (R394). A second synchronous cause in the
handler, and the handler's limits, are a double fault, a source of Equinox (Table 28.3). -/
def State.haltCrew (s : State) : State :=
  let c := s.crew
  let s1 := ((s.setCrew { c with halted := true, run := none, block := none }).endDomainOf s.cur).dropIrq s.cur
  if c.inHandler then s1.fireEquinox 1 else s1

/-- TRAPCAUSE of a trap (Table 22.1): the code, bit 8 for an asynchronous one, INFO. -/
def Trap.causeWord (t : Trap) : DWord := dw (t.code + (if t.async then 256 else 0) + t.info * 2 ^ 48)

/-- The trap registers (R389 to R391). -/
def Crew.trapRegs (c : Crew) (t : Trap) (pc resume : BitVec 32) (rep : DWord) : Crew :=
  { c with trapcause := t.causeWord
           trappc := pc.setWidth 64
           traplanes := t.lanes.setWidth 64
           trapaddr := t.addr
           resumepc := resume.setWidth 64
           traprep := rep }

/-- Entry to the handler (R392): HS0 takes the interrupted EXM, EXM every live lane, the banked registers stand in. -/
def State.enterHandler (s : State) : State :=
  let c := s.crew
  s.setCrew ({ c with inHandler := true, handlerCount := 0, pc := BitVec.ofNat 32 s.team.handler
                      exm := s.liveMask, run := none, block := none }.setS 28 (c.exm.setWidth 64))

/-- TAKING A TRAP (R388): the registers are written, the latches and counts cleared, and the handler is entered when
the image has one and the crew is not in it; otherwise the crew halts. -/
def State.takeTrap (s : State) (t : Trap) (pc resume : BitVec 32) (rep : DWord) : State :=
  let c := s.crew
  let s1 := s.setCrew ({ c with run := none, block := none, resuming := false, reissue := false, served := [], got := [] }.clearChain.trapRegs t
    pc resume rep)
  if s.team.hndl && !c.inHandler then s1.enterHandler else s1.haltCrew

/-- Trap and resumption points of an instruction of the current crew (Table 22.4); chained says that it reads a latch. -/
def State.trapHere (s : State) (t : Trap) (chained : Bool) : State :=
  let c := s.crew
  match c.run with
  | some (.rep i _) => s.takeTrap t (c.pc + 4) c.pc (dw i)
  | some (.mcall _ head) => s.takeTrap t c.pc c.pc (dw (0x8000 + head * 256))
  | none =>
    let resume := if chained then c.head.getD c.pc else c.pc
    s.takeTrap t c.pc resume 0

/-- RETURN FROM A TRAP (R231, R393): PC from RESUMEPC, EXM from HS0 among the live lanes, the banked registers step back. -/
def State.trapReturn (s : State) : State :=
  let c := s.crew
  s.setCrew { c.clearChain with
    pc := c.resumepc.setWidth 32, exm := (c.getS 28).setWidth 32 &&& s.liveMask
    inHandler := false, handlerCount := 0, resuming := true }

/-! Text of the current crew (R61). -/

def State.image (s : State) : Option Image :=
  (s.cluster.images).find? (fun i => i.ctx == s.team.ctx && i.va == s.team.image)

/-- The word at a PC of the current crew's text; none past its end. -/
def State.textWord (s : State) (pc : Nat) : Option Word :=
  match s.image with
  | none => none
  | some i => i.text[pc / 4]?

/-! Latch reads and the frame of an instruction. -/

/-- The latch that a source code names: lane or uniform, and its number (Table 7.4). -/
def latchOf (code : BitVec 8) : Option (Bool × Nat) :=
  let n := code.toNat
  if 0x80 ≤ n ∧ n ≤ 0x83 then some (true, n - 0x80)
  else if 0x84 ≤ n ∧ n ≤ 0x87 then some (false, n - 0x84)
  else none

def readsLatch (srcs : List (BitVec 8)) : Bool := srcs.any (fun c => (latchOf c).isSome)

/-- Every latch read has had its push (R159). -/
def pushed (c : Crew) (srcs : List (BitVec 8)) : Bool :=
  srcs.all fun x => match latchOf x with
    | some (true, j) => decide (j < c.nL)
    | some (false, j) => decide (j < c.nS)
    | none => true

/-- What an instruction declares before it acts: the source codes it reads, its stage-2 checks (R401), whether it
ends a chain (Table 7.5), its pushes, and its length in words. -/
structure Plan where
  srcs : List (BitVec 8) := []
  ok : Bool := true
  ends : Bool := false
  lp : Nat := 0
  up : Nat := 0
  words : Nat := 2

/-- What an instruction does once its word and operands stand. -/
inductive Effect where
  /-- Performed: the PC moves on. -/
  | done (s : State)
  /-- Performed, with the PC set. -/
  | goto (s : State) (pc : BitVec 32)
  /-- A precise trap; nothing is performed (R8). -/
  | trap (t : Trap)
  /-- The crew waits (R39); the PC stays. -/
  | wait (s : State) (b : Block)
  /-- Not ready to issue (R38): nothing happens yet. -/
  | unready
  /-- Performed, with the whole next state given. -/
  | final (s : State)

/-- The last word index plus one of an MCALL entry from word k on: its end word or 32 (R147). -/
def entryEnd (ws : List Word) : Nat :=
  match ws.findIdx? (· == 0xFFFFFFFF#32) with
  | some k => min k 32
  | none => min ws.length 32

/-- The words of the macro entry that the MCALL at the crew's PC names. -/
def State.macroWords (s : State) : List Word :=
  match s.image, s.textWord s.crew.pc.toNat with
  | some i, some w => ((lookup i.macros (w.extractLsb' 16 7).toNat).getD ([], [])).1
  | _, _ => []

/-- The crew past an instruction of n words; inside a REP unit or an MCALL whose operations end at a word, at the next repeat
or operation (R162, R167). -/
def Crew.advanced (c : Crew) (last words : Nat) : Crew :=
  match c.run with
  | none => { c with pc := c.pc + BitVec.ofNat 32 (4 * words) }
  | some (.rep i cnt) =>
    if i < cnt then { c with run := some (.rep (i + 1) cnt) }
    else { c.clearCounts with run := none, pc := c.pc + BitVec.ofNat 32 (4 + 4 * words) }
  | some (.mcall op head) =>
    if op + words < last then { c with run := some (.mcall (op + words) head) }
    else { c.clearCounts with run := none, pc := c.pc + 4 }

def State.advance (s : State) (words : Nat) : State := s.setCrew (s.crew.advanced (entryEnd s.macroWords) words)

/-- The PC of the chain's head as an instruction begins: an instruction that reads no latch starts a chain (R159); in an
MCALL the head stands in its run. -/
def Crew.headAt (c : Crew) (chained : Bool) : Option (BitVec 32) :=
  if chained then c.head
  else match c.run with
    | some (.mcall _ _) => c.head
    | _ => some c.pc

/-- The run as an instruction begins: in an MCALL an operation that reads no latch is the new head (R167). -/
def Crew.runAt (c : Crew) (chained : Bool) : Option Run :=
  if chained then c.run
  else match c.run with
    | some (.mcall op _) => some (.mcall op op)
    | r => r

/-- The crew as an instruction begins: TRAPREP is spent after a resumption (R172), the handler's instructions are
counted (R394), and an instruction that reads no latch starts a chain (R159). -/
def Crew.begin (c : Crew) (chained : Bool) : Crew :=
  { c with
    handlerCount := if c.inHandler then c.handlerCount + 1 else c.handlerCount
    traprep := if c.resuming then 0 else c.traprep
    resuming := false
    nL := if chained then c.nL else 0
    nS := if chained then c.nS else 0
    fin := chained && c.fin
    head := c.headAt chained
    run := c.runAt chained }

def State.begin (s : State) (chained : Bool) : State :=
  { s.setCrew (s.crew.begin chained) with fresh := s.fresh + 1 }

/-- The counts after an instruction is performed (R159). -/
def Crew.counted (c : Crew) (p : Plan) : Crew :=
  { c with nL := min 4 (c.nL + p.lp), nS := min 4 (c.nS + p.up), fin := c.fin || p.ends, reissue := false, served := [], got := [] }

def State.chainAfter (s : State) (p : Plan) : State := s.setCrew (s.crew.counted p)

/-- The crew waits from now on. -/
def State.blockOn (s : State) (b : Block) : State :=
  s.setCrew { s.crew with block := some b, since := s.clock, order := s.fresh, reissue := false, served := [], got := [] }

/-- How an instruction ends that began in s, once its effect is known. -/
def Effect.finish (e : Effect) (p : Plan) (s : State) : Out :=
  match e with
  | .done s2 => .next ((s2.chainAfter p).advance p.words)
  | .goto s2 pc => .next ((s2.chainAfter p).setCrew { (s2.chainAfter p).crew with pc := pc })
  | .trap t => .next ((s.begin (readsLatch p.srcs)).trapHere t (readsLatch p.srcs))
  | .wait s2 b => .next (s2.blockOn b)
  | .unready => .next s
  | .final s2 => .next s2

/-- THE FRAME OF EVERY CREW INSTRUCTION (R159, R401): the chain's rule of stage 1, the operand checks of stage 2, the
effect, and the chain's bookkeeping. A failing check traps and performs nothing (R8). Table 7.13 lists the operand rows before the
chain's end and the missing second word; R159's pseudocode and Table 23.1 test those two first: the model follows R401 (the model's
choice; log entry 102). -/
def perform (p : Plan) (s : State) (body : State → Effect) : Out :=
  let chained := readsLatch p.srcs
  let s1 := s.begin chained
  if chained && s1.crew.fin then .next (s1.trapHere s1.illegalInstr chained)
  else if !(p.ok && pushed s1.crew p.srcs) then .next (s1.trapHere s1.illegalOperand chained)
  else (body s1).finish p s

/-- A blocked crew's instruction of n words is performed now: the wait ends and the PC moves on. -/
def State.unblock (s : State) (words : Nat) : State :=
  (s.setCrew { s.crew with block := none, fin := true }).advance words

/-- Act on another crew. -/
def State.at_ (s : State) (k : Nat) : State := { s with cur := k }

end Sys2Proof.Machine
end

