-- ==== Sys2Proof/Machine/Fetch.lean ====
section
/-! DEFINITION. Fetching an instruction: the words at the PC (R61, R149), a stepped REP target (R162), an operation of
a macro entry with its substitutions (R165, R167). -/
namespace Sys2Proof.Machine

/-- A register code stepped by k inside its own kind, V0 to V95 or S0 to S31 (R163). -/
def stepCode (code k : Nat) : Option Nat :=
  if code < 0x60 then (if code + k < 0x60 then some (code + k) else none)
  else if code < 0x80 then (if code + k < 0x80 then some (code + k) else none)
  else none

/-- Put an n-bit value at bit lo of a word. -/
def putField (w : Word) (lo n v : Nat) : Word :=
  let low := w.toNat % 2 ^ lo
  w32 (low + v % 2 ^ n * 2 ^ lo + w.toNat / 2 ^ (lo + n) * 2 ^ (lo + n))

/-- Step one field where its bit is set. -/
def stepFieldIn (on : Bool) (k lo n : Nat) (w : Word) : Option Word :=
  if on then (stepCode (field w.toNat lo n) k).map (putField w lo n) else some w

/-- The opcodes whose B moves into E behind the marker 0x8F: the R-or-X forms (R150). -/
def bInE (op : Nat) : Bool :=
  decide (op ≤ 0x04) || (decide (0x28 ≤ op) && decide (op ≤ 0x2F)) || (decide (0x31 ≤ op) && decide (op ≤ 0x39)) || op == 0x3E || op == 0x3F ||
    (decide (0x40 ≤ op) && decide (op ≤ 0x43))

/-- Repeat i of a REP target (R162): its words with D, A and B stepped; none where a code leaves its kind (R163). The
B of a two-word R-or-X form stands in E. -/
def repWords (r : Word) (i : Nat) (w1 : Word) (w2 : Option Word) : Option (Word × Option Word) := do
  let k := i * 2 ^ field r.toNat 12 2
  let w ← stepFieldIn (r.getLsbD 16) k 16 7 w1
  let w ← stepFieldIn (r.getLsbD 15) k 8 8 w
  if field w1.toNat 0 8 = 0x8F ∧ bInE (field w1.toNat 24 8) then
    match w2 with
    | none => some (w, none)
    | some e => do
      let e ← stepFieldIn (r.getLsbD 14) k 0 8 e
      some (w, some e)
  else do
    let w ← stepFieldIn (r.getLsbD 14) k 0 8 w
    some (w, w2)

/-- A first word of a macro entry with its marked fields replaced (R165): P + k in D, A and B, IMM in the immediate,
which is 16 bits wide in the SI format (S-set opcodes 0x10 to 0x13, 0x15 and 0x16). Where R165 gives a mark no meaning, bit 4 replaces
[7:0] of a first word of any other format, and bits 0 to 2 of an E word and bit 3 of a first word replace nothing (the model's choice;
log entry 106). -/
def substFirst (p imm : Nat) (mark : Byte) (w : Word) : Word :=
  let w := if mark.getLsbD 0 then putField w 16 7 (p + field w.toNat 16 7) else w
  let w := if mark.getLsbD 1 then putField w 8 8 (p + field w.toNat 8 8) else w
  let w := if mark.getLsbD 2 then putField w 0 8 (p + field w.toNat 0 8) else w
  let op := field w.toNat 24 8
  if mark.getLsbD 4 then
    if (0x90 ≤ op ∧ op ≤ 0x93) ∨ op = 0x95 ∨ op = 0x96 then putField w 0 16 imm else putField w 0 8 imm
  else w

/-- An E word of a macro entry with its marked fields replaced (R165). R165 has no mark for the B of a two-word R-or-X form in
E[7:0]: the model replaces it in no case, and bit 2 of the first word's marks acts on the marker 0x8F there (the model's choice,
log entry 85). -/
def substExt (p imm : Nat) (mark : Byte) (w : Word) : Word :=
  let w := if mark.getLsbD 3 then putField w 24 8 (p + field w.toNat 24 8) else w
  if mark.getLsbD 4 then putField w 0 11 imm else w

/-- Macro entry e of the current crew's image: words and marks. -/
def State.macroEntry (s : State) (e : Nat) : List Word × List Byte :=
  match s.image with
  | some i => (lookup i.macros e).getD ([], [])
  | none => ([], [])

/-- The instruction that issues next, or the code of the trap it raises before it issues: 1 illegal instruction,
2 illegal operand (R173). -/
def State.fetch (s : State) : Except Nat Instr :=
  let c := s.crew
  let pc := c.pc.toNat
  let word (k : Nat) : Option Word := s.textWord (pc + 4 * k)
  let run (w1 w2 : Option Word) : Except Nat Instr :=
    match decode w1 w2 with
    | .ok (i, _) => .ok i
    | .error _ => .error 1
  match c.run with
  | none => run (word 0) (word 1)
  | some (.rep i _) =>
    match word 0, word 1 with
    | some r, some w1 =>
      match repWords r i w1 (word 2) with
      | some (w1, w2) => run (some w1) w2
      | none => .error 2
    | _, _ => .error 1
  | some (.mcall op _) =>
    match word 0 with
    | some m =>
      let (ws, marks) := s.macroEntry (field m.toNat 16 7)
      let p := field m.toNat 8 8
      let imm := field m.toNat 0 8
      let at_ (k : Nat) : Option Word := if k < entryEnd ws then ws[k]? else none
      let mark (k : Nat) : Byte := marks.getD k 0
      run ((at_ op).map (substFirst p imm (mark op))) ((at_ (op + 1)).map (substExt p imm (mark (op + 1))))
    | none => .error 1

end Sys2Proof.Machine
end

