-- ==== Sys2Proof/Machine/Operands.lean ====
section
/-! DEFINITION. Every operand form: source codes of Table 7.4 read by a lane or as a uniform value (R152, R153, R210),
destinations (R154), number fields (R155, R403), and the results that push (R156 to R158). -/
namespace Sys2Proof.Machine

/-- A V register below NVREG, or a banked one in the handler (R25, R392). -/
def State.vOk (s : State) (r : Nat) : Bool :=
  decide (r < s.team.nvreg) || (s.crew.inHandler && decide (88 ≤ r) && decide (r ≤ 95))

/-- A block of n V registers from r on. -/
def State.vBlockOk (s : State) (r n : Nat) : Bool := (List.range n).all (fun k => decide (r + k < 96) && s.vOk (r + k))

def isV (code : BitVec 8) : Bool := decide (code.toNat < 0x60)
def isS (code : BitVec 8) : Bool := decide (0x60 ≤ code.toNat) && decide (code.toNat ≤ 0x7F)

/-- A uniform operand (R174, R210). -/
def isUniform (code : BitVec 8) : Bool :=
  isS code || (decide (0x84 ≤ code.toNat) && decide (code.toNat ≤ 0x88)) ||
    (decide (0x8A ≤ code.toNat) && decide (code.toNat ≤ 0x8E))

/-- A source code that a V-set lane operand accepts (Table 7.4). -/
def State.laneOk (s : State) (code : BitVec 8) : Bool :=
  if isV code then s.vOk code.toNat else decide (code.toNat ≤ 0x8E)

/-- A source code that a pair operand accepts: an even V register (R53, R154). -/
def State.pairOk (s : State) (code : BitVec 8) : Bool :=
  if isV code then s.vOk code.toNat && code.toNat % 2 == 0 else decide (code.toNat ≤ 0x8E)

/-- A V register code in a lane field that takes no other code. -/
def State.vSrcOk (s : State) (code : BitVec 8) : Bool := isV code && s.vOk code.toNat

/-- A quad base: a multiple of 4 below NVREG - 3 (R122, R291). -/
def State.quadOk (s : State) (code : Nat) : Bool := code % 4 == 0 && decide (code < 96) && s.vOk code && s.vOk (code + 3)

/-- D names a V register (R154). -/
def State.dV (s : State) (d : BitVec 7) : Bool := decide (d.toNat < 0x60) && s.vOk d.toNat
def State.dPair (s : State) (d : BitVec 7) : Bool := s.dV d && d.toNat % 2 == 0
/-- D names an S register (R154). -/
def dS (d : BitVec 7) : Bool := decide (0x60 ≤ d.toNat)
/-- The S number of a D field. -/
def sNum (d : BitVec 7) : Nat := d.toNat - 0x60

def State.tileOk (s : State) (n : Nat) : Bool := decide (n < s.team.ntile)
def State.accOk (s : State) (n : Nat) : Bool := decide (n < s.team.nacc)

/-- CREWID of the current crew (R37, R49). -/
def State.crewid (s : State) : Nat := s.cur % 16
/-- COREID (R14). -/
def State.coreid (s : State) : Nat := coreOf (slotOf s.cur)

/-- A special value other than LANEID (Table 7.4). -/
def State.special (s : State) (code : BitVec 8) : DWord :=
  match code.toNat with
  | 0x8A => dw s.width
  | 0x8B => dw s.crewid
  | 0x8C => BitVec.allOnes 64
  | 0x8D => dw s.team.teamid
  | 0x8E => dw s.coreid
  | _ => 0

def Crew.bs (c : Crew) (j : Nat) : DWord := match j with | 0 => c.bs0 | 1 => c.bs1 | 2 => c.bs2 | _ => c.bs3
def Crew.bl (c : Crew) (j l : Nat) : DWord :=
  match j with | 0 => fget 0 c.bl0 l | 1 => fget 0 c.bl1 l | 2 => fget 0 c.bl2 l | _ => fget 0 c.bl3 l

/-- A uniform operand's 64 bits (R153, R210). -/
def State.uni (s : State) (code : BitVec 8) : DWord :=
  if isS code then s.crew.getS (code.toNat - 0x60)
  else match latchOf code with
    | some (false, j) => s.crew.bs j
    | _ => s.special code

/-- The 64 bits that a lane reads as a pair operand (R153). -/
def State.pair (s : State) (code : BitVec 8) (l : Nat) : DWord :=
  if isV code then s.crew.getPair code.toNat l
  else match latchOf code with
    | some (true, j) => s.crew.bl j l
    | _ => if code = 0x89#8 then dw l else s.uni code

/-- The 32 bits that a lane reads (R153). -/
def State.lane (s : State) (code : BitVec 8) (l : Nat) : Word :=
  if isV code then s.crew.getV code.toNat l else (s.pair code l).setWidth 32

/-- A lane operand by width: a pair when wide. -/
def State.laneW (s : State) (wide : Bool) (code : BitVec 8) (l : Nat) : DWord :=
  if wide then s.pair code l else (s.lane code l).setWidth 64

def State.srcOk (s : State) (wide : Bool) (code : BitVec 8) : Bool := if wide then s.pairOk code else s.laneOk code
def State.dstOk (s : State) (wide : Bool) (d : BitVec 7) : Bool := if wide then s.dPair d else s.dV d

/-- Write a lane result into D in the active lanes and push it (R156, R158): a pair when wide. -/
def State.putLane (s : State) (wide nw : Bool) (d : BitVec 7) (f : Nat → DWord) : State :=
  let ls := s.active
  let c := s.crew
  let c1 := if nw then c
    else if wide then c.setPairs d.toNat ls f
    else c.setVs d.toNat ls (fun l => (f l).setWidth 32)
  s.setCrew (c1.pushL ls (fun l => if wide then f l else ((f l).setWidth 32).setWidth 64))

/-- Write a uniform result into D and push it (R156, R158). -/
def State.putS (s : State) (nw : Bool) (d : BitVec 7) (x : DWord) : State :=
  let c := if nw then s.crew else s.crew.setS (sNum d) x
  s.setCrew (c.pushS x)

/-- OR flags into FPSR (R106). -/
def State.orFpsr (s : State) (fl : Nat) : State := s.setCrew { s.crew with fpsr := s.crew.fpsr ||| dw fl }

/-- SCOPE is not 7, and ORD is among those accepted (R168). -/
def scopeOk (scope : BitVec 3) : Bool := scope != 7#3
def ordOk (allowed : List Nat) (ord : BitVec 2) : Bool := allowed.contains ord.toNat

/-- The stream of an instruction with an extension word is E[23:20]; STRM carries no effect on values (R68). -/
def anyStream (_strm : BitVec 4) : Bool := true

end Sys2Proof.Machine
end

