-- ==== Sys2Proof/Machine/Topology.lean ====
section
/-! DEFINITION. Where the package's units stand: the Pontoon mesh (R9), the home of a line of memory (R11), the crossbar's
ports (R12) and the ratio of the clocks (R15). -/
namespace Sys2Proof.Machine

/-! The Pontoon mesh (R9). A port is numbered 3 d + p: P0 faces west, P1 east, P2 the die in the other row. -/

/-- Row and column of a die. -/
def dieRow (d : Nat) : Nat := d / 4
def dieCol (d : Nat) : Nat := d % 4

/-- The die at the other end of a port; none where the port is idle (Table 1.1). -/
def farDie (d p : Nat) : Option Nat :=
  match p with
  | 0 => if dieCol d = 0 then none else some (d - 1)
  | 1 => if dieCol d = 3 then none else some (d + 1)
  | 2 => some ((d + 4) % 8)
  | _ => none

/-- The port at the other end of a port's link. -/
def farPort (port : Nat) : Option Nat :=
  (farDie (port / 3) (port % 3)).map fun d => 3 * d + (match port % 3 with
    | 0 => 1
    | 1 => 0
    | _ => 2)

/-- The number of a link among the links: the lower of its two ports for a Pontoon link, so that both ends name one; the
number itself for a fabric port (32 on). -/
def linkOf (port : Nat) : Nat :=
  if port < 24 then (match farPort port with
    | some q => min port q
    | none => port)
  else port

/-! Device memory (R11). -/

/-- Stack and 256-byte block of a physical address. -/
def stackOf (pa : Nat) : Nat := pa / 0xC00000000
def blockOf (pa : Nat) : Nat := pa % 0xC00000000 / 256
/-- The memory slice that serves an address, the home slice of its line, within its stack. -/
def sliceOf (pa : Nat) : Nat := blockOf pa % 24
/-- The pseudo-channel that serves an address, within its stack. -/
def channelOf (pa : Nat) : Nat := 8 * (blockOf pa % 24) + blockOf pa / 24 % 8
/-- The home slice of a 64-byte line in the package: 24 times the die plus the slice. -/
def homeSlice (line : Nat) : Nat := 24 * stackOf (64 * line) + sliceOf (64 * line)

/-! The crossbar of a die (R12). -/

/-- What a crossbar port serves. -/
inductive PortUnit where
  | cluster (c : Nat)
  | slice (k : Nat)
  /-- The two banks of the die scratchpad. -/
  | banks (first : Nat)
  | copyEngine (k : Nat)
  | landing (k : Nat)
  /-- The fabric endpoint, with its first fabric port. -/
  | fabric (first : Nat)
  | management
  | host
deriving DecidableEq, Repr

/-- The unit at a port of a die (Table 1.2); none at an idle port or beyond the last. -/
def portUnit (die port : Nat) : Option PortUnit :=
  if port < 24 then some (.cluster (port / 2))
  else if port < 48 then some (.slice (port - 24))
  else if port < 56 then some (.banks (2 * (port - 48)))
  else if port < 60 then some (.copyEngine (port - 56))
  else if port < 68 then some (.landing (port - 60))
  else if port < 70 then some (.fabric (4 * (port - 68)))
  else if port = 70 then some .management
  else if port = 71 then (if die = 0 ∨ die = 4 then some .host else none)
  else none

/-! Clocks (R15). -/

/-- Arithmetic cycles, at 3.3 GHz, in a number of interconnect cycles, at 2.2 GHz. -/
def interconnectCycles (n : Nat) : Nat := n * 3 / 2

end Sys2Proof.Machine
end

