-- ==== Sys2Proof/Machine/Memory.lean ====
section
/-! DEFINITION. Device memory as programs reach it: translation (R62 to R66), the checks of an access (Table 3.5, R369),
reads and writes of bytes through pages, host window (R361), leases (R73 to R75). -/
namespace Sys2Proof.Machine

/-- An address of the host window (R361). -/
def inHost (pa : Nat) : Bool := decide (0x7000000000 ≤ pa) && decide (pa < 0x8000000000)

/-- The segment of a host-window address is valid: segment 32 f + s of function f (Table 16.1). -/
def State.hostValid (s : State) (pa : Nat) : Bool :=
  let g := (pa - 0x7000000000) / 0x40000000
  (s.reg (g / 32) (0x4000 + 8 * (g % 32))).getLsbD 0

/-- n bytes at a physical address as a number: device memory, or a free value for host memory of a valid segment. A table of
a walk that lies nowhere, or in a segment with V = 0, has no valid entry (R361). -/
def State.loadPhys (s : State) (pa n : Nat) : Nat :=
  if pa < memTop then s.readNat pa n
  else if inHost pa && s.hostValid pa then Config.hostData s.fresh pa % 2 ^ (8 * n)
  else 0

/-- The page table entry of a level: one that a translation buffer of the cluster has read, or memory's (R66). -/
def State.pteAt (s : State) (cl ctx level va base : Nat) : Nat :=
  let sh := 57 - 9 * level
  let index := va / 2 ^ sh % 2 ^ (9 * level)
  let pa := base + 8 * (index % 512)
  let mem := s.loadPhys pa 8
  match (s.clusterAt cl).tlb.filter (fun t => t.ctx == ctx && t.level == level && t.index == index) with
  | [] => mem
  | ts =>
    match ts[Config.keeps s.fresh pa % (ts.length + 1)]? with
    | some t => t.pte.toNat
    | none => mem

/-- Fields of a page table entry (Table 3.4). -/
def pteV (e : Nat) : Bool := field e 0 1 == 1
def pteLeaf (e : Nat) : Bool := field e 1 1 == 1
def pteR (e : Nat) : Bool := field e 2 1 == 1
def pteW (e : Nat) : Bool := field e 3 1 == 1
def pteX (e : Nat) : Bool := field e 4 1 == 1
def pteOrd (e : Nat) : Nat := field e 5 2
def pteCow (e : Nat) : Bool := field e 7 1 == 1
def pteSec (e : Nat) : Bool := field e 8 1 == 1
def ptePor (e : Nat) : Bool := field e 9 1 == 1
def pteRemote (e : Nat) : Bool := field e 10 1 == 1
def pteCont (e : Nat) : Bool := field e 11 1 == 1
def ptePfn (e : Nat) : Nat := field e 12 27 * 4096
def pteDev (e : Nat) : Nat := field e 40 9
def pteRctx (e : Nat) : Nat := field e 49 12

/-- The entries of a 64 KiB group form one page: all CONT, equal but for rising frames from an aligned one (R64). -/
def groupAgrees (es : List Nat) : Bool :=
  let e0 := es.headD 0
  (List.range es.length).all fun i => es.getD i 0 == e0 + 4096 * i && pteCont e0 && field e0 12 4 == 0

/-- The level-5 entry that translates an access of a 64 KiB page, with its index in the group: its own where the group
agrees, otherwise any one entry of the group (R64). The spec speaks of groups whose entries all have CONT = 1; where only some
have it, the model takes such a group for an access whose own entry has CONT = 1, and draws among the entries that have it
(the model's choice; log entry 11). -/
def State.groupPick (s : State) (cl ctx va base e : Nat) : Nat × Nat :=
  let i := va / 4096 % 16
  let es := (List.range 16).map fun j => s.pteAt cl ctx 5 (va / 65536 * 65536 + 4096 * j) base
  if groupAgrees es then (e, i)
  else
    let cs := (List.range 16).filter fun j => pteCont (es.getD j 0)
    match cs[Config.groupEntry s.fresh (va / 65536) % cs.length]? with
    | some j => (es.getD j 0, j)
    | none => (e, i)

/-- A leaf at a level: placed as R64 allows, its kind valid, its frame aligned and backed. -/
def State.leafPage (s : State) (va e level j : Nat) : Option Page :=
  let bits := if level = 3 then 30 else if level = 4 then 21 else if pteCont e then 16 else 12
  let frame := ptePfn e
  let base := if level = 5 ∧ pteCont e then frame / 65536 * 65536 else frame
  let pa := base + va % 2 ^ bits
  if level < 3 ∨ pteOrd e = 3 then none
  else if pteRemote e then some { pte := e, pa := 0, level := level }
  else if level = 5 ∧ pteCont e then (if field frame 12 4 = j ∧ (pa < memTop ∨ (inHost pa ∧ s.hostValid pa)) then some { pte := e, pa := pa, level := level } else none)
  else if frame % 2 ^ bits = 0 ∧ (pa < memTop ∨ (inHost pa ∧ s.hostValid pa)) then some { pte := e, pa := pa, level := level }
  else none

/-- The walk from a level on (R62): row 1 of Table 3.5. -/
def State.walkFrom (s : State) (cl ctx va : Nat) : List Nat → Nat → Option Page
  | [], _ => none
  | l :: ls, base =>
    let e := s.pteAt cl ctx l va base
    if !pteV e then none
    else if pteLeaf e then
      if l = 5 ∧ pteCont e then
        let (e', j) := s.groupPick cl ctx va base e
        if pteV e' && pteLeaf e' then s.leafPage va e' 5 j else none
      else s.leafPage va e l 0
    else s.walkFrom cl ctx va ls (ptePfn e)

/-- PTROOT of a context (Table 2.2). -/
def State.ptroot (s : State) (ctx : Nat) : Nat := s.loadPhys (ctx + 80) 8 / 4096 * 4096 % 2 ^ 39

/-- The page of a virtual address in a context. -/
def State.translate (s : State) (cl ctx va : Nat) : Option Page := s.walkFrom cl ctx va [1, 2, 3, 4, 5] (s.ptroot ctx)

/-! Secure ranges (R369, R374). -/

/-- A physical address lies in a secure range in force. -/
def State.inSecure (s : State) (pa : Nat) : Bool :=
  (List.range 8).any fun st => (List.range 4).any fun r =>
    let b := (fget 0 s.secure (8 * st + 2 * r)).toNat
    let l := (fget 0 s.secure (8 * st + 2 * r + 1)).toNat
    let lo := field b 21 18 * 2 ^ 21
    let hi := field l 21 18 * 2 ^ 21
    field l 0 1 == 1 && decide (lo < hi) && decide (st * 0xC00000000 ≤ lo) && decide (hi ≤ (st + 1) * 0xC00000000) &&
      decide (lo ≤ pa) && decide (pa < hi)

/-! The checks of an access (Table 3.5). -/

/-- What an access needs of its pages. -/
structure Need where
  r : Bool := false
  w : Bool := false
  x : Bool := false
deriving DecidableEq, Repr

/-- The trap code of a check of stage 4, by its rank (R401): 0 address bits and alignment, 1 scratchpad range, 2 row 1
of Table 3.5, 3 its row 2 with the secure ranges (R369), 4 its row 3, 5 its row 4 and a poisoned granule (R418), 6 a
REMOTE page inside a chain. -/
def codeOfRank (r : Nat) : Nat :=
  match r with
  | 0 => 0x03
  | 1 => 0x07
  | 2 => 0x04
  | 3 => 0x05
  | 4 => 0x05
  | 5 => 0x06
  | _ => 0x0D

/-- The check of the bytes of one page: the first failing check's rank, or the page (R65). -/
def State.checkPage (s : State) (cl ctx : Nat) (sec : Bool) (need : Need) (va : Nat) : Except Nat Page :=
  if 2 ^ 57 ≤ va then .error 0
  else
    match s.translate cl ctx va with
    | none => .error 2
    | some p =>
      if pteSec p.pte && !sec then .error 3
      else if pteRemote p.pte then .ok p
      else if !sec && s.inSecure p.pa then .error 3
      else if need.r && !pteR p.pte || need.w && !(pteW p.pte || pteCow p.pte) || need.x && !pteX p.pte then .error 4
      else if need.r && ptePor p.pte then .error 5
      else .ok p

/-- The parts of an access by page: address, count and offset in the access (R69). -/
def pieces (va n : Nat) : List (Nat × Nat × Nat) :=
  let first := min n (4096 - va % 4096)
  (va, first, 0) :: (List.range ((n - first + 4095) / 4096)).map fun k =>
    let off := first + 4096 * k
    ((va + off) % 2 ^ 64, min 4096 (n - off), off)

/-- Every part of an access checked: the first failing check's rank over all of them, or the parts (R65, R69). -/
def State.checkSpan (s : State) (cl ctx : Nat) (sec : Bool) (need : Need) (va n : Nat) : Except Nat (List Piece) :=
  (if n = 0 then [] else pieces va n).foldr (fun p acc =>
    match s.checkPage cl ctx sec need p.1, acc with
    | .ok g, .ok ps => .ok ({ page := g, n := p.2.1, off := p.2.2, va := p.1 } :: ps)
    | .ok _, .error c => .error c
    | .error c, .ok _ => .error c
    | .error c, .error d => .error (min c d)) (.ok [])

/-- The bytes of checked local parts as a number. -/
def State.readPieces (s : State) (ps : List Piece) : Nat :=
  ps.foldl (fun v p => v + (if pteRemote p.page.pte then 0 else s.loadPhys p.page.pa p.n * 2 ^ (8 * p.off))) 0

/-- Write the bytes of a number through checked local parts. -/
def State.writePieces (s : State) (ps : List Piece) (v : Nat) : State :=
  ps.foldl (fun s p =>
    if pteRemote p.page.pte then s else s.storePhys p.page.pa (bytesOf p.n (v / 2 ^ (8 * p.off)))) s

/-- Some byte of the checked local parts is poisoned (R418). -/
def State.piecesPoisoned (s : State) (ps : List Piece) : Bool :=
  ps.any fun p => !pteRemote p.page.pte && decide (p.page.pa < memTop) && s.poisoned p.page.pa p.n

/-- The first virtual address at which a write meets COW = 1 (R70). -/
def cowAt (ps : List Piece) : Option Nat :=
  (ps.find? fun p => !pteRemote p.page.pte && pteCow p.page.pte).map (·.va)

def anyRemote (ps : List Piece) : Bool := ps.any fun p => pteRemote p.page.pte

/-- The cluster of the current crew, and its context. -/
def State.cl (s : State) : Nat := clusterOf (slotOf s.cur)

/-- Check an access of the current crew. -/
def State.check (s : State) (need : Need) (va n : Nat) : Except Nat (List Piece) :=
  s.checkSpan s.cl s.team.ctx s.team.sec need va n

/-! Leases (R73 to R75): state of the clusters that changes timing only. -/

/-- Counter of a line (R73). -/
def predIndex (pa : Nat) : Nat := field pa 6 8 ^^^ field pa 14 8 ^^^ field pa 22 8 ^^^ field pa 30 8

/-- Release a lease, and change the line's counter by f. -/
def Cluster.dropLease (c : Cluster) (line : Nat) (f : Nat → Nat) : Cluster :=
  let i := predIndex (64 * line)
  { c with leases := c.leases.filter (fun l => l.line != line), pred := fset 0 c.pred i (f (fget 0 c.pred i)) }

/-- An access to a line recalls every cluster's lease on it but the one named, whose counters rise (R73, R74). -/
def State.recall (s : State) (line : Nat) (keep : Option Nat) : State :=
  { s with clusters := s.clusters.map fun e =>
      if some e.1 != keep && e.2.leases.any (fun l => l.line == line) then
        (e.1, e.2.dropLease line (fun x => min 3 (x + 1)))
      else e }

/-- An access to bytes of device memory recalls the leases on their lines (R74). -/
def State.recallRun (s : State) (pa n : Nat) : State :=
  (List.range ((pa + n - 1) / 64 - pa / 64 + 1)).foldl (fun s i => s.recall (pa / 64 + i) none) s

/-- The entries that a walk of an address reads: its level, index and physical address with the entry. -/
def State.walkEntries (s : State) (cl ctx va : Nat) : List (TlbEntry × Nat) :=
  let rec go : List Nat → Nat → List (TlbEntry × Nat)
    | [], _ => []
    | l :: ls, base =>
      let e := s.pteAt cl ctx l va base
      let index := va / 2 ^ (57 - 9 * l) % 2 ^ (9 * l)
      ({ ctx := ctx, level := l, index := index, pte := BitVec.ofNat 64 e }, base + 8 * (index % 512)) ::
        (if pteV e && !pteLeaf e then go ls (ptePfn e) else [])
  go [1, 2, 3, 4, 5] (s.ptroot ctx)

/-- The entries that a walk reads are in the cluster's translation buffers from then on (R66); those that it reads in memory recall
the leases on their lines (R74). -/
def State.fillTlb (s : State) (cl ctx va : Nat) : State :=
  let es := s.walkEntries cl ctx va
  let c := s.clusterAt cl
  let read := es.filter fun e => !c.tlb.contains e.1
  let s1 := read.foldl (fun s e => s.recall (e.2 / 64) none) s
  let c1 := s1.clusterAt cl
  { s with clusters := (s1.setClusterAt cl { c1 with tlb := read.foldl (fun t e => e.1 :: t) c1.tlb }).clusters }

/-- The walks of an access are kept (R66). -/
def State.keepWalks (s : State) (vas : List Nat) : State :=
  vas.foldl (fun s va => s.fillTlb s.cl s.team.ctx va) s

/-- The lines of checked local parts. -/
def linesOf (ps : List Piece) : List Nat :=
  ps.flatMap fun p => if pteRemote p.page.pte then [] else
    (List.range ((p.page.pa + p.n - 1) / 64 - p.page.pa / 64 + 1)).map (· + p.page.pa / 64)

/-- A plain access recalls the leases on its lines. -/
def State.recallAll (s : State) (ps : List Piece) : State := (linesOf ps).foldl (fun s l => s.recall l none) s

/-- A read of a range has been made from a cluster: its walks are kept there, and the leases on its lines recalled (R66, R74). -/
def State.keepSpan (s : State) (cl ctx : Nat) (sec : Bool) (va n : Nat) : State :=
  { s with clusters := (match s.checkSpan cl ctx sec {} va n with
      | .ok ps => (ps.foldl (fun s p => s.fillTlb cl ctx p.va) s).recallAll ps
      | .error _ => s : State).clusters }

/-- The line's counter of the cluster is below 2: the cluster's atomics on it go near (R73). -/
def Cluster.near (c : Cluster) (line : Nat) : Bool := decide (fget 0 c.pred (predIndex (64 * line)) < 2)

/-- Change the counter of a line. -/
def Cluster.count (c : Cluster) (line : Nat) (f : Nat → Nat) : Cluster :=
  let i := predIndex (64 * line)
  { c with pred := fset 0 c.pred i (f (fget 0 c.pred i)) }

/-- A cluster's wish for a lease is over. -/
def Cluster.unasked (c : Cluster) (line size : Nat) : Cluster := { c with wants := c.wants.erase (line, size) }

/-- The step of an atomic of a size to a line by a cluster (R73 to R75), and whether it is performed now. One that goes home recalls
every lease on the line. One that goes near finds its lease, and lowers the counter unless it asked for it; or finds it of another
size, releases it, sets the counter to 3 and goes home; or asks for a lease, raises the counter where another cluster's must be
recalled for it, and waits. -/
def State.atomicLease (s : State) (cl line size : Nat) (asked : Bool) : State × Bool :=
  let c := s.clusterAt cl
  if !c.near line then ((s.setClusterAt cl (c.unasked line size)).recall line none, true)
  else
    match c.leases.find? (fun l => l.line == line) with
    | some l =>
      if l.size = size then
        let c1 := if asked then c else c.count line (· - 1)
        (s.setClusterAt cl { c1 with leases := c.leases.map fun x => if x.line == line then { x with used := s.clock } else x }, true)
      else (s.setClusterAt cl ((c.unasked line size).dropLease line (fun _ => 3)), true)
    | none =>
      if c.wants.contains (line, size) then (s, false)
      else
        let waited := s.clusters.any fun e => e.2.leases.any fun l => l.line == line
        let c1 := if waited then c.count line (fun x => min 3 (x + 1)) else c
        ((s.setClusterAt cl { c1 with wants := c1.wants ++ [(line, size)] }).recall line none, false)

end Sys2Proof.Machine
end

