-- ==== Sys2Proof/Machine/Dedup.lean ====
section
/-! DEFINITION. The dedup table (R78, R79), frame pools (R375, R387), invalidation (R367) and the copy-on-write path
(R70, R71, R386, R424). -/
namespace Sys2Proof.Machine

/-- A cluster number that no cluster has: walks of the part's own units read the tables in memory. -/
def noCluster : Nat := 96

/-- DEVNUM (Table 16.1). -/
def State.devnum (s : State) : Nat := (s.reg 0 0).toNat % 512

/-- The context that a tag of the context tag table names; none where its entry has V = 0 (R365). -/
def State.tagCtx (s : State) (tag : Nat) : Option Nat :=
  let e := s.loadPhys ((s.reg 0 8).toNat + 8 * tag) 8
  if e % 2 = 0 then none else some (field e 8 31 * 256)

/-- The checks of a remote request at its target (R365): the parts, or the rank of the first that fails. A page that is REMOTE
there has no memory here. -/
def State.targetSpan (s : State) (tag : Nat) (sec : Bool) (need : Need) (va n : Nat) : Except Nat (List Piece) :=
  match s.tagCtx tag with
  | none => .error 3
  | some ctx =>
    match s.checkSpan noCluster ctx sec need va n with
    | .error r => .error r
    | .ok ps => if anyRemote ps then .error 2 else .ok ps

/-! Fields of a context's RCB (Table 2.2). -/

def State.ctxTtbase (s : State) (ctx : Nat) : Nat := s.loadPhys (ctx + 88) 8
def State.ctxSec (s : State) (ctx : Nat) : Bool := s.loadPhys (ctx + 72) 1 % 2 == 1

/-! Invalidation of translation-buffer entries. -/

/-- A buffer entry covers an address of a range of pages; one of a 64 KiB page covers all its 16 pages (R64, R434). -/
def TlbEntry.covers (t : TlbEntry) (page n : Nat) : Bool :=
  let sh := 57 - 9 * t.level
  let cont := t.level == 5 && pteCont t.pte.toNat
  let lo := if cont then t.index / 16 * 16 else t.index * 2 ^ sh / 4096
  let hi := if cont then lo + 16 else (t.index + 1) * 2 ^ sh / 4096
  decide (lo < page + n) && decide (page < hi)

/-- Every cluster drops its entries for a range of pages of a context (R367 step 1). -/
def State.dropTlb (s : State) (ctx page n : Nat) : State :=
  { s with clusters := s.clusters.map fun e => (e.1, { e.2 with tlb := e.2.tlb.filter fun t => t.ctx != ctx || !t.covers page n }) }

/-! The part's own accesses to a context's tables through virtual addresses. -/

/-- A walk of the part's own units reads a poisoned entry (R424). -/
def State.walkPoisoned (s : State) (ctx va : Nat) : Bool :=
  (s.walkEntries noCluster ctx va).any fun e => decide (e.2 < memTop) && s.poisoned e.2 8

/-- The physical address of n bytes in one page that the part reads, and writes where w is set: a write needs W = 1 and
COW = 0 (R70). The failing check's rank otherwise; a poisoned read has rank 5. -/
def State.ownAccess (s : State) (ctx : Nat) (sec w : Bool) (va n : Nat) : Except Nat Nat :=
  if s.walkPoisoned ctx va then .error 5
  else
  match s.checkPage noCluster ctx sec { r := true, w := w } va with
  | .error r => .error r
  | .ok p =>
    if pteRemote p.pte then .error 4
    else if w && (pteCow p.pte || !pteW p.pte) then .error 4
    else if decide (p.pa < memTop) && s.poisoned p.pa n then .error 5
    else .ok p.pa

/-! The dedup table. -/

/-- FPRINT of a 4 KiB page given by its bytes (R287). -/
def fprint (page : List Byte) : Nat :=
  let v := natOf page
  (List.range 256).foldl (fun f g =>
    let lo := field v (128 * g) 64
    let hi := field v (128 * g + 64) 64
    (f + lo + (hi * 2 % 2 ^ 64 + hi / 2 ^ 63) + g) % 2 ^ 64) 0

/-- The bytes of the frame at a physical address. -/
def State.frameBytes (s : State) (pa : Nat) : List Byte := s.readMem pa 4096

/-- Fields of an entry (Table 3.7). -/
def ddState (e : Nat) : Nat := field e 92 2
def ddPfn (e : Nat) : Nat := field e 64 27
def ddRef (e : Nat) : Nat := field e 96 32
def ddPrint (e : Nat) : Nat := field e 0 64
/-- An entry from its fields. -/
def ddEntry (ref state pfn print : Nat) : Nat := ref % 2 ^ 32 * 2 ^ 96 + state * 2 ^ 92 + pfn * 2 ^ 64 + print

/-- What a lookup passes: occupied entries of the fingerprint in probe order, the first deleted or empty one, and the lines
of memory it reads. -/
structure DdFound where
  hits : List Nat := []
  free : Option Nat := none
  lines : List Nat := []

/-- The physical address of table entry i, for reading and changing it. -/
def State.ddAddr (s : State) (ctx : Nat) (sec : Bool) (i : Nat) : Except Nat Nat :=
  s.ownAccess ctx sec true (s.ctxTtbase ctx + 0x80000 + 16 * i) 16

/-- Probe entries in order (R79). An entry whose STATE is the reserved 3 is passed over and is not taken as free: the spec gives
such an entry no meaning (the model's choice, log entry 83). -/
def State.ddScan (s : State) (ctx : Nat) (sec : Bool) (f : Nat) : List Nat → DdFound → Except Nat DdFound
  | [], r => .ok r
  | i :: is, r =>
    match s.ddAddr ctx sec i with
    | .error c => .error c
    | .ok pa =>
      let e := s.readNat pa 16
      let r := { r with lines := (pa / 64) :: r.lines }
      match ddState e with
      | 0 => .ok { r with free := r.free.or (some i) }
      | 1 => s.ddScan ctx sec f is (if ddPrint e = f then { r with hits := r.hits ++ [i] } else r)
      | 2 => s.ddScan ctx sec f is { r with free := r.free.or (some i) }
      | _ => s.ddScan ctx sec f is r

/-- A lookup of a fingerprint (R79). -/
def State.ddLookup (s : State) (ctx : Nat) (sec : Bool) (f : Nat) : Except Nat DdFound :=
  s.ddScan ctx sec f ((List.range 4096).map fun k => (f + k) % 4096) {}

/-- A change of entry i: a home-scope atomic (R77, R79). -/
def State.ddSet (s : State) (ctx : Nat) (sec : Bool) (i v : Nat) : State :=
  match s.ddAddr ctx sec i with
  | .error _ => s
  | .ok pa => (s.recall (pa / 64) none).writeNat pa 16 v

def State.ddGet (s : State) (ctx : Nat) (sec : Bool) (i : Nat) : Nat :=
  match s.ddAddr ctx sec i with
  | .error _ => 0
  | .ok pa => s.readNat pa 16

/-! Page-table entries. -/

/-- The physical address of the level-5 entry of an address, where the walk reaches one. -/
def State.pteAddr (s : State) (ctx va : Nat) : Option Nat :=
  let rec go : List Nat → Nat → Option Nat
    | [], _ => none
    | l :: ls, base =>
      let pa := base + 8 * (va / 2 ^ (57 - 9 * l) % 512)
      let e := s.loadPhys pa 8
      if l = 5 then some pa else if pteV e && !pteLeaf e then go ls (ptePfn e) else none
  go [1, 2, 3, 4, 5] (s.ptroot ctx)

/-- Change a page-table entry: a home-scope atomic (R77). -/
def State.setPte (s : State) (pa v : Nat) : State := (s.recall (pa / 64) none).writeNat pa 8 v

/-- The lookup's reads recall the leases on their lines (R74). -/
def State.recallLines (s : State) (ls : List Nat) : State := ls.foldl (fun s l => s.recall l none) s

/-- Reads of whole frames recall the leases on their lines (R74). -/
def State.recallFrames (s : State) (fs : List Nat) : State := fs.foldl (fun s f => s.recallRun (4096 * f) 4096) s

/-- An entry with another frame and its COW and W bits. -/
def pteWith (e pfn : Nat) (cow w : Bool) : Nat :=
  let e1 := e - field e 12 27 * 2 ^ 12 + pfn * 2 ^ 12
  let e2 := if pteCow e1 == cow then e1 else if cow then e1 + 128 else e1 - 128
  if pteW e2 == w then e2 else if w then e2 + 8 else e2 - 8

/-! Frame pools (R375, R387). -/

/-- The frame pool of a die for contexts of a world: secure contexts never share one with the others (R375, R387; log entry 84). -/
def poolKey (die : Nat) (sec : Bool) : Nat := if sec then 8 + die else die

/-- A frame for a path on a die: the top of its pool, or the next of the reserve, which raises vector 5 when it run
low; a secure context takes from its own pool and never from the reserve. None when there is no frame; the state has the
interrupt. -/
def State.takeFrame (s : State) (die : Nat) (sec : Bool) : State × Option Nat :=
  let key := poolKey die sec
  match fget [] s.pools key with
  | f :: fs => ({ s with pools := insert s.pools key fs }, some f)
  | [] =>
    if sec then (s, none)
    else
      let base := (s.reg 0 0x6400).toNat
      let tail := (s.reg 0 0x6408).toNat
      let head := (s.reg 0 0x6410).toNat
      let low (s : State) (n : Nat) : State := if n < (s.reg 0 0x6418).toNat % 1024 then s.raiseShared 5 else s
      if base = 0 ∨ tail ≤ head then (low s 0, none)
      else
        let f := field (s.readNat (base + 8 * (head % 512)) 8) 12 27
        (low (s.setReg 0 0x6410 (dw (head + 1))) (tail - head - 1), some f)

/-- A frame enters a pool. -/
def State.poolPush (s : State) (key f : Nat) : State := { s with pools := insert s.pools key (f :: fget [] s.pools key) }

/-- Copy a frame with its poison (R418, R424); the leases on the lines of both are recalled (R74). -/
def State.copyFrame (s : State) (src dst : Nat) : State :=
  let s1 := ((s.recallRun src 4096).recallRun dst 4096).writeMem dst (s.frameBytes src)
  { s1 with poison := (List.range 256).foldl (fun m g => fset false m (dst / 16 + g) (fget false s.poison (src / 16 + g))) s1.poison }

/-! The path (R70). -/

/-- How a path ends: done, failed with a rank, or waiting for a frame. -/
inductive CowEnd where
  | done (s : State)
  | failed (rank : Nat)
  | noFrame (s : State)

/-- Steps 1 to 4 on the page of an address, by the management core of a die. A page that is no longer COW needs no path: the access is
replayed. An access of the path that fails, its walk of the page among them, or reads poison ends it (Table 25.7). -/
def State.cowPath (s : State) (die ctx : Nat) (va : Nat) : CowEnd :=
  let sec := s.ctxSec ctx
  if s.walkPoisoned ctx va then .failed 5
  else
  match s.translate noCluster ctx va, s.pteAddr ctx va with
  | some p, pa? =>
    if !pteCow p.pte then .done s
    else if p.level ≠ 5 ∨ pteCont p.pte ∨ s.ctxTtbase ctx % 65536 ≠ 0 then .failed 4
    else
      match pa? with
      | none => .failed 4
      | some ptepa =>
        (
          let frame := ptePfn p.pte
          let f := fprint (s.frameBytes frame)
          match s.ddLookup ctx sec f with
          | .error 5 => .failed 5
          | .error _ => .failed 4
          | .ok found =>
            let s := (s.recallLines (((s.walkEntries noCluster ctx va).map (·.2 / 64)) ++ found.lines)).recallRun frame 4096
            match found.hits.find? fun i => ddPfn (s.ddGet ctx sec i) * 4096 == frame with
            | none => .failed 4
            | some i =>
              let e := s.ddGet ctx sec i
              if ddRef e = 1 then
                let s1 := s.setPte ptepa (pteWith p.pte (frame / 4096) false true)
                .done ((s1.ddSet ctx sec i (ddEntry (ddRef e) 2 (ddPfn e) (ddPrint e))).dropTlb ctx (va / 4096) 1)
              else
                match s.takeFrame die sec with
                | (s1, none) => .noFrame s1
                | (s1, some fr) =>
                  let s2 := (s1.copyFrame frame (fr * 4096)).setPte ptepa (pteWith p.pte fr false true)
                  .done ((s2.ddSet ctx sec i (ddEntry (ddRef e + 2 ^ 32 - 1) 1 (ddPfn e) (ddPrint e))).dropTlb ctx (va / 4096) 1))
  | none, _ => .failed 4

end Sys2Proof.Machine
end

