-- ==== Sys2Proof/Machine/LaneInt.lean ====
section
/-! DEFINITION. Integer and bit instructions of the lane pipe (spec/08 R177 to R187). -/
namespace Sys2Proof.Machine

/-- The plan of a lane instruction with sources and a V destination that pushes one lane result. -/
def lanePlan (s : State) (wide : Bool) (d : BitVec 7) (srcs wides : List (BitVec 8)) (words : Nat) (ok : Bool := true) : Plan :=
  { srcs := srcs ++ wides, ok := ok && s.dstOk wide d && srcs.all s.laneOk && wides.all s.pairOk, lp := 1, words := words }

/-- A lane instruction on 32-bit operands A and B: D[l] := f A[l] B[l] (R174). -/
def laneOp2 (s : State) (nw : Bool) (d : BitVec 7) (a b : BitVec 8) (words : Nat) (f : Word → Word → Word) : Out :=
  perform (lanePlan s false d [a, b] [] words) s fun s =>
    .done (s.putLane false nw d fun l => (f (s.lane a l) (s.lane b l)).setWidth 64)

/-- A lane instruction on one 32-bit operand. -/
def laneOp1 (s : State) (nw : Bool) (d : BitVec 7) (a : BitVec 8) (words : Nat) (f : Word → Word) : Out :=
  perform (lanePlan s false d [a] [] words) s fun s =>
    .done (s.putLane false nw d fun l => (f (s.lane a l)).setWidth 64)

/-- A lane instruction on three 32-bit operands. -/
def laneOp3 (s : State) (nw : Bool) (d : BitVec 7) (a b c : BitVec 8) (f : Word → Word → Word → Word) : Out :=
  perform (lanePlan s false d [a, b, c] [] 2) s fun s =>
    .done (s.putLane false nw d fun l => (f (s.lane a l) (s.lane b l) (s.lane c l)).setWidth 64)

/-- Element width of the integer family (Table 8.1); none for another format. -/
def intWidth (fmt : BitVec 4) : Option Nat :=
  match fmt.toNat with
  | 0xD => some 32
  | 0xB => some 16
  | 0x8 => some 8
  | _ => none

/-- Apply an element operation to each w-bit element of two registers (R177). -/
def packed (w : Nat) (f : Nat → Nat → Nat) (a b : Word) : Word :=
  w32 ((List.range (32 / w)).foldl (fun r j => r + f (field a.toNat (w * j) w) (field b.toNat (w * j) w) % 2 ^ w * 2 ^ (w * j)) 0)

/-- The two forms of the packed integer family (R175, R177). -/
def packedOp (s : State) (nw : Bool) (d : BitVec 7) (a b : BitVec 8) (fmt : BitVec 4) (words : Nat)
    (f : Nat → Nat → Nat → Nat) : Out :=
  perform (lanePlan s false d [a, b] [] words ((intWidth fmt).isSome)) s fun s =>
    let w := (intWidth fmt).getD 32
    .done (s.putLane false nw d fun l => (packed w (f w) (s.lane a l) (s.lane b l)).setWidth 64)

/-- Table 8.2, by width. -/
def elAdd (_w a b : Nat) : Nat := a + b
def elSub (w a b : Nat) : Nat := a + (2 ^ w - b)
def elMul (_w a b : Nat) : Nat := a * b
def elMulHS (w a b : Nat) : Nat := wrapInt w (signExt w a * signExt w b / (2 ^ w : Nat))
def elMulHU (w a b : Nat) : Nat := a * b / 2 ^ w

def execIadd (nw : Bool) (d : BitVec 7) (a b : BitVec 8) (s : State) : Out := packedOp s nw d a b 0xD#4 1 elAdd
def execIaddExt (nw : Bool) (d : BitVec 7) (a : BitVec 8) (fmt : BitVec 4) (b : BitVec 8) (s : State) : Out :=
  packedOp s nw d a b fmt 2 elAdd
def execIsub (nw : Bool) (d : BitVec 7) (a b : BitVec 8) (s : State) : Out := packedOp s nw d a b 0xD#4 1 elSub
def execIsubExt (nw : Bool) (d : BitVec 7) (a : BitVec 8) (fmt : BitVec 4) (b : BitVec 8) (s : State) : Out :=
  packedOp s nw d a b fmt 2 elSub
def execImul (nw : Bool) (d : BitVec 7) (a b : BitVec 8) (s : State) : Out := packedOp s nw d a b 0xD#4 1 elMul
def execImulExt (nw : Bool) (d : BitVec 7) (a : BitVec 8) (fmt : BitVec 4) (b : BitVec 8) (s : State) : Out :=
  packedOp s nw d a b fmt 2 elMul
def execImulhs (nw : Bool) (d : BitVec 7) (a b : BitVec 8) (s : State) : Out := packedOp s nw d a b 0xD#4 1 elMulHS
def execImulhsExt (nw : Bool) (d : BitVec 7) (a : BitVec 8) (fmt : BitVec 4) (b : BitVec 8) (s : State) : Out :=
  packedOp s nw d a b fmt 2 elMulHS
def execImulhu (nw : Bool) (d : BitVec 7) (a b : BitVec 8) (s : State) : Out := packedOp s nw d a b 0xD#4 1 elMulHU
def execImulhuExt (nw : Bool) (d : BitVec 7) (a : BitVec 8) (fmt : BitVec 4) (b : BitVec 8) (s : State) : Out :=
  packedOp s nw d a b fmt 2 elMulHU

/-- IMAD (R178). -/
def execImad (nw : Bool) (d : BitVec 7) (a b c : BitVec 8) (s : State) : Out :=
  laneOp3 s nw d a b c fun x y z => x * y + z

/-! Table 8.3. -/
def execImin (nw : Bool) (d : BitVec 7) (a b : BitVec 8) (s : State) : Out :=
  laneOp2 s nw d a b 1 fun x y => if x.sle y then x else y
def execImax (nw : Bool) (d : BitVec 7) (a b : BitVec 8) (s : State) : Out :=
  laneOp2 s nw d a b 1 fun x y => if x.sle y then y else x
def execUmin (nw : Bool) (d : BitVec 7) (a b : BitVec 8) (s : State) : Out :=
  laneOp2 s nw d a b 1 fun x y => if x.ule y then x else y
def execUmax (nw : Bool) (d : BitVec 7) (a b : BitVec 8) (s : State) : Out :=
  laneOp2 s nw d a b 1 fun x y => if x.ule y then y else x
def execVand (nw : Bool) (d : BitVec 7) (a b : BitVec 8) (s : State) : Out := laneOp2 s nw d a b 1 fun x y => x &&& y
def execVor (nw : Bool) (d : BitVec 7) (a b : BitVec 8) (s : State) : Out := laneOp2 s nw d a b 1 fun x y => x ||| y
def execVxor (nw : Bool) (d : BitVec 7) (a b : BitVec 8) (s : State) : Out := laneOp2 s nw d a b 1 fun x y => x ^^^ y
def execVandn (nw : Bool) (d : BitVec 7) (a b : BitVec 8) (s : State) : Out :=
  laneOp2 s nw d a b 1 fun x y => x &&& ~~~y

/-- SHL, SHR and SAR of a count (R179): 0, 0 and the sign beyond 31. -/
def shl32 (x : Word) (c : Nat) : Word := if c < 32 then x <<< c else 0
def shr32 (x : Word) (c : Nat) : Word := if c < 32 then x >>> c else 0
def sar32 (x : Word) (c : Nat) : Word := x.sshiftRight (min c 31)

def execShl (nw : Bool) (d : BitVec 7) (a b : BitVec 8) (s : State) : Out :=
  laneOp2 s nw d a b 1 fun x y => shl32 x y.toNat
def execShr (nw : Bool) (d : BitVec 7) (a b : BitVec 8) (s : State) : Out :=
  laneOp2 s nw d a b 1 fun x y => shr32 x y.toNat
def execSar (nw : Bool) (d : BitVec 7) (a b : BitVec 8) (s : State) : Out :=
  laneOp2 s nw d a b 1 fun x y => sar32 x y.toNat
def execRotl (nw : Bool) (d : BitVec 7) (a b : BitVec 8) (s : State) : Out :=
  laneOp2 s nw d a b 1 fun x y => x.rotateLeft (y.toNat % 32)
def execPopc (nw : Bool) (d : BitVec 7) (a : BitVec 8) (s : State) : Out :=
  laneOp1 s nw d a 1 fun x => w32 (popc x.toNat 32)

/-- Leading zero bits of a w-bit number (R179, Table 9.2). -/
def leadingZeros (w v : Nat) : Nat := if v = 0 then w else w - 1 - v.log2

def execClz (nw : Bool) (d : BitVec 7) (a : BitVec 8) (s : State) : Out :=
  laneOp1 s nw d a 1 fun x => w32 (leadingZeros 32 x.toNat)
def execBrev (nw : Bool) (d : BitVec 7) (a : BitVec 8) (s : State) : Out := laneOp1 s nw d a 1 fun x => x.reverse

/-- BFX (R181). -/
def bfx (sx : Bool) (x y : Word) : Word :=
  let pos := field y.toNat 0 8
  let len := min (field y.toNat 8 8) 32
  let res := (List.range len).foldl (fun r k =>
    let bit := if pos + k < 32 then x.getLsbD (pos + k) else sx && x.getLsbD 31
    r + (if bit then 2 ^ k else 0)) 0
  if sx && decide (0 < len) && decide (len < 32) then w32 (wrapInt 32 (signExt len res)) else w32 res

/-- BFI (R181). -/
def bfi (x y z : Word) : Word :=
  let pos := field y.toNat 0 8
  let len := min (field y.toNat 8 8) 32
  w32 ((List.range 32).foldl (fun r k =>
    let bit := if pos ≤ k ∧ k < pos + len then x.getLsbD (k - pos) else z.getLsbD k
    r + (if bit then 2 ^ k else 0)) 0)

/-- BPERM (R182). -/
def bperm (x y z : Word) : Word :=
  let v : DWord := y ++ x
  let byte (j : Nat) : BitVec 8 :=
    let c := z.extractLsb' (8 * j) 8
    let y0 := v.extractLsb' (8 * (c.toNat % 8)) 8
    let y1 := if c.getLsbD 7 then y0.reverse else y0
    let y2 := if c.getLsbD 6 then (if y1.getLsbD 7 then 0xFF#8 else 0#8) else y1
    if c.getLsbD 5 then 0#8 else y2
  byte 3 ++ (byte 2 ++ (byte 1 ++ byte 0))

/-- BITF (R183). -/
def bitf (f0 f1 : BitVec 4) (x y z : Word) : Word :=
  w32 ((List.range 32).foldl (fun r k =>
    let n := 2 * (if y.getLsbD k then 1 else 0) + (if x.getLsbD k then 1 else 0)
    let bit := if z.getLsbD k then f1.getLsbD n else f0.getLsbD n
    r + (if bit then 2 ^ k else 0)) 0)

def execBfx (nw : Bool) (d : BitVec 7) (a b : BitVec 8) (sx : BitVec 1) (s : State) : Out :=
  laneOp2 s nw d a b 2 (bfx (sx == 1#1))
def execBfi (nw : Bool) (d : BitVec 7) (a b c : BitVec 8) (s : State) : Out := laneOp3 s nw d a b c bfi
def execBperm (nw : Bool) (d : BitVec 7) (a b c : BitVec 8) (s : State) : Out := laneOp3 s nw d a b c bperm
def execBitf (nw : Bool) (d : BitVec 7) (a b c : BitVec 8) (f1 f0 : BitVec 4) (s : State) : Out :=
  laneOp3 s nw d a b c (bitf f0 f1)

/-- A lane instruction on pairs (R184). -/
def lanePair2 (s : State) (nw : Bool) (d : BitVec 7) (a b : BitVec 8) (f : DWord → DWord → DWord) : Out :=
  perform (lanePlan s true d [] [a, b] 1) s fun s => .done (s.putLane true nw d fun l => f (s.pair a l) (s.pair b l))

def execIadd64 (nw : Bool) (d : BitVec 7) (a b : BitVec 8) (s : State) : Out := lanePair2 s nw d a b fun x y => x + y
def execIsub64 (nw : Bool) (d : BitVec 7) (a b : BitVec 8) (s : State) : Out := lanePair2 s nw d a b fun x y => x - y
/-- IMULW reads 32-bit operands and writes a pair (R184). -/
def execImulw (nw : Bool) (d : BitVec 7) (a b : BitVec 8) (s : State) : Out :=
  perform (lanePlan s true d [a, b] [] 1) s fun s =>
    .done (s.putLane true nw d fun l => (s.lane a l).signExtend 64 * (s.lane b l).signExtend 64)

/-- The conditions of Table 8.6 on w-bit values; none for COND 10 to 15. -/
def intCond {w : Nat} (cond : BitVec 4) (x y : BitVec w) : Option Bool :=
  match cond.toNat with
  | 0 => some (x == y)
  | 1 => some (x != y)
  | 2 => some (x.slt y)
  | 3 => some (x.sle y)
  | 4 => some (y.slt x)
  | 5 => some (y.sle x)
  | 6 => some (x.ult y)
  | 7 => some (x.ule y)
  | 8 => some (y.ult x)
  | 9 => some (y.ule x)
  | _ => none

/-- The mask of the active lanes that satisfy a test (R185). -/
def State.maskWhere (s : State) (f : Nat → Bool) : DWord :=
  dw (s.active.foldl (fun m l => m + (if f l then 2 ^ l else 0)) 0)

/-- ICMP (R185). -/
def execIcmp (nw : Bool) (d : BitVec 7) (a b c : BitVec 8) (cond : BitVec 4) (s : State) : Out :=
  perform { srcs := [a, b, c], up := 1
            ok := dS d && s.laneOk a && s.laneOk b && isUniform c && (intCond cond 0#32 0#32).isSome } s fun s =>
    .done (s.putS nw d (s.maskWhere (fun l => (intCond cond (s.lane a l) (s.lane b l)).getD false) &&& s.uni c))

/-- The lane's selector of SEL (R186): bit l of a uniform C, or C[l] ≠ 0. -/
def State.selBit (s : State) (c : BitVec 8) (l : Nat) : Bool :=
  if isUniform c then (s.uni c).getLsbD l else s.lane c l != 0

/-- SEL (R186). -/
def execSel (nw : Bool) (d : BitVec 7) (a b c : BitVec 8) (p : BitVec 1) (s : State) : Out :=
  let wide := p == 1#1
  perform { srcs := [a, b, c], lp := 1, ok := s.dstOk wide d && s.srcOk wide a && s.srcOk wide b && s.laneOk c } s fun s =>
    .done (s.putLane wide nw d fun l => if s.selBit c l then s.laneW wide a l else s.laneW wide b l)

/-- MOV and MOVI (R187). -/
def execMov (nw : Bool) (d : BitVec 7) (a : BitVec 8) (s : State) : Out := laneOp1 s nw d a 1 id
def execMovi (nw : Bool) (d : BitVec 7) (imm : BitVec 32) (s : State) : Out :=
  perform (lanePlan s false d [] [] 2) s fun s => .done (s.putLane false nw d fun _ => imm.setWidth 64)

/-! Table 8.4. -/
def execIaddi (nw : Bool) (d : BitVec 7) (a imm : BitVec 8) (s : State) : Out :=
  laneOp1 s nw d a 1 fun x => x + imm.signExtend 32
def execShli (nw : Bool) (d : BitVec 7) (a imm : BitVec 8) (s : State) : Out :=
  laneOp1 s nw d a 1 fun x => shl32 x imm.toNat
def execShri (nw : Bool) (d : BitVec 7) (a imm : BitVec 8) (s : State) : Out :=
  laneOp1 s nw d a 1 fun x => shr32 x imm.toNat
def execSari (nw : Bool) (d : BitVec 7) (a imm : BitVec 8) (s : State) : Out :=
  laneOp1 s nw d a 1 fun x => sar32 x imm.toNat
def execAndi (nw : Bool) (d : BitVec 7) (a imm : BitVec 8) (s : State) : Out :=
  laneOp1 s nw d a 1 fun x => x &&& imm.signExtend 32
def execOri (nw : Bool) (d : BitVec 7) (a imm : BitVec 8) (s : State) : Out :=
  laneOp1 s nw d a 1 fun x => x ||| imm.signExtend 32
def execXori (nw : Bool) (d : BitVec 7) (a imm : BitVec 8) (s : State) : Out :=
  laneOp1 s nw d a 1 fun x => x ^^^ imm.signExtend 32

end Sys2Proof.Machine
end

