-- ==== Sys2Proof/Machine/Numeric.lean ====
section
/-! DEFINITION. The number formats of spec/05 (R100 to R104): exact values, the value set of each format, and the
value and the code of an element. An exact value is (a + b t + c t^2 + d t^3) 2^e with t = 2^(1/4), which holds every
sum and product that the rules form of floats, integers and L6 values. -/
namespace Sys2Proof.Machine

/-- An exact real (a + b t + c t^2 + d t^3) 2^e. -/
structure Ex where
  a : Int := 0
  b : Int := 0
  c : Int := 0
  d : Int := 0
  e : Int := 0
deriving DecidableEq, Repr

/-- 2^k for k at least 0, otherwise 1. -/
def pow2 (k : Int) : Int := (2 : Int) ^ k.toNat

def Ex.int (n : Int) : Ex := { a := n }
def Ex.scale (x : Ex) (k : Int) : Ex := { x with e := x.e + k }
def Ex.plain (x : Ex) : Bool := x.b == 0 && x.c == 0 && x.d == 0
def Ex.neg (x : Ex) : Ex := { x with a := -x.a, b := -x.b, c := -x.c, d := -x.d }
/-- The same real with a lower exponent. -/
def Ex.at_ (x : Ex) (e : Int) : Ex :=
  let k := pow2 (x.e - e)
  { a := x.a * k, b := x.b * k, c := x.c * k, d := x.d * k, e := e }
def Ex.add (x y : Ex) : Ex :=
  let e := min x.e y.e
  let x := x.at_ e
  let y := y.at_ e
  { a := x.a + y.a, b := x.b + y.b, c := x.c + y.c, d := x.d + y.d, e := e }
def Ex.sub (x y : Ex) : Ex := x.add y.neg
def Ex.mul (x y : Ex) : Ex :=
  { a := x.a * y.a + 2 * (x.b * y.d + x.c * y.c + x.d * y.b)
    b := x.a * y.b + x.b * y.a + 2 * (x.c * y.d + x.d * y.c)
    c := x.a * y.c + x.b * y.b + x.c * y.a + 2 * (x.d * y.d)
    d := x.a * y.d + x.b * y.c + x.c * y.b + x.d * y.a
    e := x.e + y.e }

def sgn (a : Int) : Int := if 0 < a then 1 else if a < 0 then -1 else 0

/-- The sign of a + c √2. -/
def sgn2 (a c : Int) : Int :=
  if sgn a = sgn c then sgn a
  else if sgn c = 0 then sgn a
  else if sgn a = 0 then sgn c
  else sgn a * sgn (a * a - 2 * (c * c))

/-- The sign of an exact real: of (a + c √2) + t (b + d √2). -/
def Ex.sign (x : Ex) : Int :=
  if x.plain then sgn x.a
  else
    let p := sgn2 x.a x.c
    let q := sgn2 x.b x.d
    if p = q then p
    else if q = 0 then p
    else if p = 0 then q
    else p * sgn2 (x.a * x.a + 2 * (x.c * x.c) - 4 * (x.b * x.d)) (2 * (x.a * x.c) - x.b * x.b - 2 * (x.d * x.d))

def Ex.abs (x : Ex) : Ex := if x.sign < 0 then x.neg else x
def Ex.le (x y : Ex) : Bool := decide (0 ≤ (y.sub x).sign)
def Ex.lt (x y : Ex) : Bool := decide (0 < (y.sub x).sign)

/-- The greatest E at most hi with 2^E at most the value, by trial from hi down. -/
def log2Down (x : Ex) : Nat → Int → Int
  | 0, hi => hi
  | n + 1, hi => if (Ex.scale (Ex.int 1) hi).le x then hi else log2Down x n (hi - 1)

/-- ⌊log2 x⌋ of a positive value. -/
def Ex.log2 (x : Ex) : Int :=
  if x.plain then (x.a.toNat.log2 : Int) + x.e
  else
    let bound := x.a.natAbs + 2 * (x.b.natAbs + x.c.natAbs + x.d.natAbs)
    log2Down x (bound.log2 * 4 + 8) ((bound.log2 : Int) + x.e)

/-- Build ⌊x 2^-q⌋ from bit k down. -/
def floorBits (x : Ex) (q : Int) : Nat → Int → Int
  | 0, n => n
  | k + 1, n =>
    let m := n + (2 : Int) ^ k
    floorBits x q k (if (Ex.scale (Ex.int m) q).le x then m else n)

/-- ⌊x 2^-q⌋ of a value at least 0. -/
def Ex.floorAt (x : Ex) (q : Int) : Int :=
  if x.plain then (if q ≤ x.e then x.a * pow2 (x.e - q) else x.a / pow2 (q - x.e))
  else floorBits x q ((x.log2 - q + 1).toNat) 0

/-- 2^(1/4)^k for k below 4. -/
def quarter (k : Nat) : Ex :=
  match k with
  | 0 => { a := 1 }
  | 1 => { b := 1 }
  | 2 => { c := 1 }
  | _ => { d := 1 }

/-! Formats (Tables 5.1 and 5.2). -/

abbrev fF64 : Nat := 0
abbrev fF32 : Nat := 1
abbrev fBF16 : Nat := 2
abbrev fF16 : Nat := 3
abbrev fE4M3 : Nat := 4
abbrev fE5M2 : Nat := 5
abbrev fE2M1 : Nat := 6
abbrev fL6 : Nat := 7
abbrev fI8 : Nat := 8
abbrev fI4 : Nat := 9
abbrev fU8 : Nat := 10
abbrev fI16 : Nat := 11
abbrev fU16 : Nat := 12
abbrev fI32 : Nat := 13
abbrev fE8M0 : Nat := 14
abbrev fRAW : Nat := 15

/-- Element bit size z of a format code (Table 5.1). -/
def zOf (f : Nat) : Nat :=
  match f with
  | 0 => 64 | 1 => 32 | 2 => 16 | 3 => 16 | 4 => 8 | 5 => 8 | 6 => 4 | 7 => 8
  | 8 => 8 | 9 => 4 | 10 => 8 | 11 => 16 | 12 => 16 | 13 => 32 | _ => 8

def isFloat (f : Nat) : Bool := decide (f ≤ 6)
def isInt (f : Nat) : Bool := decide (8 ≤ f) && decide (f ≤ 13)
def isSigned (f : Nat) : Bool := f == 8 || f == 9 || f == 11 || f == 13

/-- Fraction bits, bias, the magnitude code of the largest finite, and whether there are infinities (Tables 5.1 to 5.3). -/
structure FloatFmt where
  m : Nat
  bias : Int
  maxCode : Nat
  inf : Bool
deriving DecidableEq, Repr

def floatFmt (f : Nat) : FloatFmt :=
  match f with
  | 0 => { m := 52, bias := 1023, maxCode := 0x7FEFFFFFFFFFFFFF, inf := true }
  | 1 => { m := 23, bias := 127, maxCode := 0x7F7FFFFF, inf := true }
  | 2 => { m := 7, bias := 127, maxCode := 0x7F7F, inf := true }
  | 3 => { m := 10, bias := 15, maxCode := 0x7BFF, inf := true }
  | 4 => { m := 3, bias := 7, maxCode := 0x7E, inf := false }
  | 5 => { m := 2, bias := 15, maxCode := 0x7B, inf := true }
  | _ => { m := 1, bias := 1, maxCode := 7, inf := false }

/-- The default NaN of a format (Table 5.3); none where it has none. -/
def defaultNaN (f : Nat) : Option Nat :=
  match f with
  | 0 => some 0x7FF8000000000000
  | 1 => some 0x7FC00000
  | 2 => some 0x7FC0
  | 3 => some 0x7E00
  | 4 => some 0x7F
  | 5 => some 0x7E
  | 7 => some 0x20
  | 14 => some 0xFF
  | _ => none

/-- The exponent of the least normal. -/
def FloatFmt.emin (t : FloatFmt) : Int := 1 - t.bias

/-- The value of a magnitude code (R101), also past the largest finite one. -/
def FloatFmt.member (t : FloatFmt) (k : Nat) : Ex :=
  let e := k / 2 ^ t.m
  if e ≤ 1 then { a := k, e := t.emin - t.m }
  else { a := (2 ^ t.m + k % 2 ^ t.m : Nat), e := t.emin - t.m + (e - 1 : Nat) }

/-- The magnitude code of the greatest member at most x, for x above 0. -/
def FloatFmt.floorCode (t : FloatFmt) (x : Ex) : Nat :=
  let e := max x.log2 t.emin
  ((e - t.emin) * pow2 t.m + x.floorAt (e - t.m)).toNat

/-- The magnitude of L6 field L (R104), also past 31; 0 for L = 0. -/
def l6Member (l : Nat) : Ex := if l = 0 then {} else (quarter (l % 4)).scale ((l / 4 : Nat) - 4)

/-- The greatest L below n with a member at most x. -/
def l6Floor (x : Ex) : Nat → Nat
  | 0 => 0
  | n + 1 => if (l6Member n).le x then n else l6Floor x n

/-- The member of a format's magnitude grid with index k, and the index of the greatest member at most x (R108). -/
def memberOf (f k : Nat) : Ex :=
  if isFloat f then (floatFmt f).member k
  else if f = 7 then l6Member k
  else if f = 14 then { a := 1, e := (k : Int) - 127 }
  else { a := k }

def floorIndex (f : Nat) (x : Ex) : Nat :=
  if isFloat f then (floatFmt f).floorCode x
  else if f = 7 then l6Floor x 34
  else if f = 14 then (x.log2 + 127).toNat
  else (x.floorAt 0).toNat

/-- The index of the largest finite magnitude with a sign. -/
def maxIndex (f : Nat) (neg : Bool) : Nat :=
  if isFloat f then (floatFmt f).maxCode
  else if f = 7 then 31
  else if f = 14 then 254
  else if isSigned f then 2 ^ (zOf f - 1) - (if neg then 0 else 1)
  else if neg then 0 else 2 ^ zOf f - 1

/-- The code of a magnitude index with a sign. -/
def codeOf (f : Nat) (neg : Bool) (k : Nat) : Nat :=
  if isFloat f then (if neg then 2 ^ (zOf f - 1) else 0) + k
  else if f = 7 then (if neg ∧ k ≠ 0 then 32 else 0) + k
  else if f = 14 then k
  else wrapInt (zOf f) (if neg then -(k : Int) else k)

/-- The code of an infinity. -/
def infCode (f : Nat) (neg : Bool) : Nat :=
  let t := floatFmt f
  (if neg then 2 ^ (zOf f - 1) else 0) + (2 ^ (zOf f - 1 - t.m) - 1) * 2 ^ t.m

/-! Values. -/

/-- What an element's code says: a NaN, an infinity, or a sign with a magnitude at least 0. -/
inductive Val where
  | nan (signalling : Bool)
  | inf (neg : Bool)
  | num (neg : Bool) (x : Ex)
deriving DecidableEq, Repr

def Val.isNaN : Val → Bool
  | .nan _ => true
  | _ => false
def Val.isSNaN : Val → Bool
  | .nan s => s
  | _ => false
def Val.isZero : Val → Bool
  | .num _ x => x.sign == 0
  | _ => false
def Val.isInf : Val → Bool
  | .inf _ => true
  | _ => false
def Val.neg : Val → Bool
  | .nan _ => false
  | .inf n => n
  | .num n _ => n
def Val.flip : Val → Val
  | .nan s => .nan s
  | .inf n => .inf (!n)
  | .num n x => .num (!n) x
/-- The signed real of a number. -/
def Val.real : Val → Ex
  | .num n x => if n then x.neg else x
  | _ => {}
/-- The value of an integer. -/
def Val.ofInt (n : Int) : Val := .num (decide (n < 0)) (Ex.int n.natAbs)

/-- The value of a float's code (R101, R102). -/
def floatVal (f v : Nat) : Val :=
  let t := floatFmt f
  let z := zOf f
  let neg := field v (z - 1) 1 == 1
  let k := v % 2 ^ (z - 1)
  if k ≤ t.maxCode then .num neg (t.member k)
  else if t.inf then
    if k = t.maxCode + 1 then .inf neg else .nan (field k (t.m - 1) 1 == 0)
  else .nan false

/-- The value of an element's code in a format other than RAW (R101 to R104). -/
def valOf (f v : Nat) : Val :=
  if isFloat f then floatVal f (v % 2 ^ zOf f)
  else if f = 7 then
    if v % 64 = 0x20 then .nan false else .num (field v 5 1 == 1) (l6Member (v % 32))
  else if f = 14 then
    if v % 256 = 0xFF then .nan false else .num false { a := 1, e := (v % 256 : Nat) - 127 }
  else if isSigned f then Val.ofInt (signExt (zOf f) v)
  else Val.ofInt (v % 2 ^ zOf f : Nat)

/-- Every value of the source format is a member of the target's set (R111). -/
def widening (src dst : Nat) : Bool :=
  if src = dst then true
  else
    match src with
    | 1 => dst == 0
    | 2 => dst == 0 || dst == 1
    | 3 => dst == 0 || dst == 1
    | 4 => decide (dst ≤ 3)
    | 5 => decide (dst ≤ 3)
    | 6 => decide (dst ≤ 5)
    | 8 => decide (dst ≤ 3) || dst == 11 || dst == 13
    | 9 => decide (dst ≤ 5) || dst == 8 || dst == 11 || dst == 13
    | 10 => decide (dst ≤ 3) || dst == 11 || dst == 12 || dst == 13
    | 11 => dst == 0 || dst == 1 || dst == 13
    | 12 => dst == 0 || dst == 1 || dst == 13
    | 13 => dst == 0
    | 14 => decide (dst ≤ 2)
    | _ => false

end Sys2Proof.Machine
end

