-- ==== Sys2Proof/Machine/Flags.lean ====
section
/-! DEFINITION. Rounding to a format and the flags it raises (R6, R106 to R113, Table 5.7), and exact arithmetic on
values with its special cases (R113, R115, R189, R190). -/
namespace Sys2Proof.Machine

/-! Sticky flags of FPSR (Table 5.6). -/
abbrev flIV : Nat := 1
abbrev flDZ : Nat := 2
abbrev flOF : Nat := 4
abbrev flUF : Nat := 8
abbrev flNX : Nat := 16

/-- A result's code and the flags raised. -/
structure Res where
  code : Nat
  fl : Nat := 0
deriving DecidableEq, Repr

/-- Rounding modes (R7); a stochastic rounding carries its 16 bits r (R109). -/
inductive Mode where
  | rne
  | rz
  | ru
  | rd
  | sr (r : Nat)
deriving DecidableEq, Repr

/-- FPCR.RM (Table 5.5). -/
def modeOf (rm : Nat) : Mode :=
  match rm with
  | 0 => .rne
  | 1 => .rz
  | 2 => .ru
  | _ => .rd

def Crew.mode (c : Crew) : Mode := modeOf (c.fpcr.toNat % 4)
/-- FPCR.SRE. -/
def Crew.sre (c : Crew) : Bool := c.fpcr.getLsbD 2

/-- The upper neighbour is taken: k is the index of the lower member lo, x lies strictly between the two (R108, R109). -/
def roundsUp (mode : Mode) (neg : Bool) (k : Nat) (lo hi x : Ex) : Bool :=
  match mode with
  | .rne =>
    let s := ((x.add x).sub (lo.add hi)).sign
    decide (0 < s) || (s == 0 && k % 2 == 1)
  | .rz => false
  | .ru => !neg
  | .rd => neg
  | .sr r => ((hi.sub lo).mul (Ex.int (r + 1))).le ((x.sub lo).scale 16)

/-- RoundTo as a magnitude index on the format's grid, unbounded above, and whether it is inexact (R108). -/
def roundIndex (f : Nat) (mode : Mode) (neg : Bool) (x : Ex) : Nat × Bool :=
  if x.sign ≤ 0 then (0, false)
  else
    let k := floorIndex f x
    let lo := memberOf f k
    if (x.sub lo).sign = 0 then (k, false)
    else (if roundsUp mode neg k lo (memberOf f (k + 1)) x then k + 1 else k, true)

/-- Tininess after rounding: a magnitude below the least normal of a float, or a zero L6 (R112). -/
def tiny (f k : Nat) : Bool := if isFloat f then decide (k < 2 ^ (floatFmt f).m) else f == 7 && k == 0

/-- The flags of an inexact result. -/
def inexactFlags (f k : Nat) (inexact : Bool) : Nat := if inexact then flNX + (if tiny f k then flUF else 0) else 0

/-- Under SR a magnitude beyond the largest finite gives the largest finite (R109). A value that has no neighbour b in an integer format
although it does not exceed the largest finite magnitude, such as -0.5 into U8 or 127.3 into I8, is treated so too: the spec gives no t
there (the model's choice; log entry 101). -/
def srOver (f : Nat) (mode : Mode) (neg : Bool) (x : Ex) : Bool :=
  match mode with
  | .sr _ => (memberOf f (maxIndex f neg)).lt x
  | _ => false

/-- IEEE 754's choice of infinity on overflow by mode (R6). -/
def toInf (mode : Mode) (neg : Bool) : Bool :=
  match mode with
  | .rne => true
  | .rz => false
  | .ru => !neg
  | .rd => neg
  | .sr _ => false

/-- RoundTo of a result of arithmetic in a floating-point format, with its flags (R113). -/
def roundTo (f : Nat) (mode : Mode) (v : Val) : Res :=
  match v with
  | .nan _ => { code := (defaultNaN f).getD 0 }
  | .inf n => { code := infCode f n }
  | .num n x =>
    let (k, i) := roundIndex f mode n x
    if srOver f mode n x || decide (maxIndex f n < k) then
      { code := if (floatFmt f).inf && toInf mode n then infCode f n else codeOf f n (maxIndex f n), fl := flOF + flNX }
    else { code := codeOf f n k, fl := inexactFlags f k i }

/-- Cvt(fmt, mode, x), the rule of every narrowing conversion, with the flags of Table 5.7 (R6, R111, R112). The two
members of an E8M0 conversion start at 2^-127, and a smaller value gives 0x00 (R103). A value above the largest member of L6 or
E8M0 has no upper neighbour in the value set: it is rounded on the grid continued one step up, and what rounds there overflows
(the model's choice; log entry 34). -/
def cvtNarrow (f : Nat) (mode : Mode) (v : Val) : Res :=
  match v with
  | .nan true => { code := (defaultNaN f).getD 0, fl := flIV }
  | .nan false =>
    match defaultNaN f with
    | some c => { code := c }
    | none => { code := 0, fl := flIV }
  | .inf n =>
    if f = 14 ∧ n then { code := 0, fl := flIV }
    else { code := codeOf f n (maxIndex f n), fl := flOF + flNX }
  | .num n x =>
    if f = 14 ∧ (n ∨ x.sign = 0) then { code := 0, fl := flIV }
    else if f = 14 ∧ x.lt (memberOf 14 0) then { code := 0, fl := flNX }
    else
      let (k, i) := roundIndex f mode n x
      if srOver f mode n x || decide (maxIndex f n < k) then
        { code := codeOf f n (maxIndex f n), fl := flOF + flNX }
      else { code := codeOf f n k, fl := inexactFlags f k i }

/-- A conversion by R111: widening keeps the value, infinities included; every other one is Cvt. -/
def cvt (src dst : Nat) (mode : Mode) (v : Val) : Res :=
  match v with
  | .inf n => if widening src dst then { code := infCode dst n } else cvtNarrow dst mode v
  | _ => cvtNarrow dst mode v

/-- The 8-bit pattern of RAW, or a conversion between two formats (R111). -/
def cvtCode (src dst : Nat) (mode : Mode) (code : Nat) : Res :=
  if src = 15 ∨ dst = 15 then { code := code % 256 } else cvt src dst mode (valOf src code)

/-! Exact arithmetic with special cases; a NaN result carries IV apart. -/

/-- A value and the flags of its special case. -/
structure Exact where
  v : Val
  fl : Nat := 0
deriving DecidableEq, Repr

/-- The value of a signed real; the sign of a zero is given. -/
def valReal (zeroNeg : Bool) (x : Ex) : Val :=
  let s := x.sign
  if s = 0 then .num zeroNeg {} else .num (decide (s < 0)) x.abs

/-- The sign of an exact zero sum: of both operands where they agree, + otherwise, or - under RD (R189). -/
def zeroSign (mode : Mode) (a b : Bool) : Bool := if a = b then a else mode == .rd

def invalidNaN : Exact := { v := .nan false, fl := flIV }

/-- IV for a signalling operand. -/
def snan (vs : List Val) : Nat := if vs.any Val.isSNaN then flIV else 0

/-- a + b (R113, R189). -/
def vAdd (mode : Mode) (a b : Val) : Exact :=
  if a.isNaN || b.isNaN then { v := .nan false, fl := snan [a, b] }
  else if a.isInf && b.isInf then (if a.neg = b.neg then { v := a } else invalidNaN)
  else if a.isInf then { v := a }
  else if b.isInf then { v := b }
  else { v := valReal (zeroSign mode a.neg b.neg) (a.real.add b.real) }

/-- a × b (R113). -/
def vMul (a b : Val) : Exact :=
  if a.isNaN || b.isNaN then { v := .nan false, fl := snan [a, b] }
  else if (a.isInf && b.isZero) || (a.isZero && b.isInf) then invalidNaN
  else
    let n := a.neg != b.neg
    if a.isInf || b.isInf then { v := .inf n } else { v := valReal n (a.real.mul b.real) }

/-- a × b + c, exact (R190): 0 × ∞ raises IV whatever c is. -/
def vFma (mode : Mode) (a b c : Val) : Exact :=
  let p := vMul a b
  let r := vAdd mode p.v c
  { v := r.v, fl := p.fl ||| r.fl ||| snan [a, b, c] }

/-- The exact sum of several values: NaN for a NaN or opposed infinities. -/
def vSum (mode : Mode) : List Exact → Exact
  | [] => { v := .num false {} }
  | [x] => x
  | x :: xs =>
    let r := vSum mode xs
    let q := vAdd mode x.v r.v
    { v := q.v, fl := x.fl ||| r.fl ||| q.fl }

/-- The order of two values other than NaN, −0 below +0 (R115): a below b. -/
def vLess (a b : Val) : Bool :=
  match a, b with
  | .inf n, .inf m => n && !m
  | .inf n, _ => n
  | _, .inf m => !m
  | _, _ =>
    let s := (b.real.sub a.real).sign
    if s = 0 then a.isZero && a.neg && !b.neg else decide (0 < s)

/-- −0 equals +0 (R193). -/
def vEq (a b : Val) : Bool :=
  match a, b with
  | .inf n, .inf m => n == m
  | .num .., .num .. => (b.real.sub a.real).sign == 0
  | _, _ => false

/-- FMIN and FMAX, FMINN and FMAXN on codes (Table 5.10). -/
def fminmax (f : Nat) (mx number : Bool) (x y : Nat) : Res :=
  let a := valOf f x
  let b := valOf f y
  let nan := (defaultNaN f).getD 0
  if a.isNaN && b.isNaN then { code := nan, fl := snan [a, b] }
  else if a.isNaN then { code := if number then y else nan, fl := snan [a] }
  else if b.isNaN then { code := if number then x else nan, fl := snan [b] }
  else { code := if vLess a b != mx then x else y }

/-- Round an exact result, with the flags of its special case. -/
def finish (f : Nat) (mode : Mode) (x : Exact) : Res :=
  let r := roundTo f mode x.v
  { code := r.code, fl := r.fl ||| x.fl }

def fAdd (f : Nat) (mode : Mode) (x y : Nat) : Res := finish f mode (vAdd mode (valOf f x) (valOf f y))
def fSub (f : Nat) (mode : Mode) (x y : Nat) : Res := finish f mode (vAdd mode (valOf f x) (valOf f y).flip)
def fMul (f : Nat) (mode : Mode) (x y : Nat) : Res := finish f mode (vMul (valOf f x) (valOf f y))
def fFma (f : Nat) (mode : Mode) (x y z : Nat) : Res := finish f mode (vFma mode (valOf f x) (valOf f y) (valOf f z))

/-- ⌊√n⌋ by Newton steps from above. -/
def isqrtFrom (n : Nat) : Nat → Nat → Nat
  | 0, r => r
  | k + 1, r =>
    let r' := (r + n / r) / 2
    if r' < r then isqrtFrom n k r' else r

def isqrt (n : Nat) : Nat := if n = 0 then 0 else isqrtFrom n (n.log2 + 8) (2 ^ (n.log2 / 2 + 1))

/-- A value with the same roundings as √x at any format: ⌊√x⌋ at 2^-64 of its size, with a last bit for the rest. -/
def sqrtEx (x : Ex) : Ex :=
  let k : Int := x.e % 2
  let a := (x.a * pow2 k).toNat * 2 ^ 256
  let r := isqrt a
  { a := (2 * r + (if r * r = a then 0 else 1) : Nat), e := (x.e - k) / 2 - 129 }

/-- FSQRT (R113, R191). -/
def fSqrt (f : Nat) (mode : Mode) (x : Nat) : Res :=
  let a := valOf f x
  match a with
  | .nan s => { code := (defaultNaN f).getD 0, fl := if s then flIV else 0 }
  | .inf n => if n then { code := (defaultNaN f).getD 0, fl := flIV } else { code := x }
  | .num n v =>
    if a.isZero then { code := x }
    else if n then { code := (defaultNaN f).getD 0, fl := flIV }
    else roundTo f mode (.num false (sqrtEx v))

/-- FRND: an integral value in the operand's format, never NX (R191). -/
def fRnd (f : Nat) (mode : Mode) (x : Nat) : Res :=
  match valOf f x with
  | .nan s => { code := (defaultNaN f).getD 0, fl := if s then flIV else 0 }
  | .inf _ => { code := x }
  | .num n v =>
    let k := (roundIndex 13 mode n v).1
    { code := (roundTo f .rne (.num n (Ex.int k))).code }

/-- FCLASS (Table 8.8). -/
def fClass (f : Nat) (x : Nat) : Nat :=
  match valOf f x with
  | .nan true => 1
  | .nan false => 2
  | .inf true => 4
  | .inf false => 512
  | .num n _ =>
    let k := x % 2 ^ (zOf f - 1)
    if k = 0 then (if n then 32 else 64)
    else if k < 2 ^ (floatFmt f).m then (if n then 16 else 128)
    else if n then 8 else 256

/-- FCMP (R193, Table 8.9): the condition and IV; none for COND 8 to 15. -/
def fCmp (f : Nat) (cond : Nat) (x y : Nat) : Option (Bool × Nat) :=
  let a := valOf f x
  let b := valOf f y
  let un := a.isNaN || b.isNaN
  let iv := if a.isSNaN || b.isSNaN || (un && decide (2 ≤ cond) && decide (cond ≤ 5)) then flIV else 0
  let lt := !un && !vEq a b && vLess a b
  let eq := !un && vEq a b
  match cond with
  | 0 => some (eq, iv)
  | 1 => some (!eq, iv)
  | 2 => some (lt, iv)
  | 3 => some (lt || eq, iv)
  | 4 => some (!un && !lt && !eq, iv)
  | 5 => some (!un && !lt, iv)
  | 6 => some (un, iv)
  | 7 => some (!un, iv)
  | _ => none

/-- One advance of a lane generator (R110). -/
def seedNext (x : Word) : Word :=
  let x := x ^^^ (x <<< 13)
  let x := x ^^^ (x >>> 17)
  x ^^^ (x <<< 5)

/-- Mix(v, l) (R110). -/
def seedMix (v : Word) (l : Nat) : Word :=
  let x := v ^^^ w32 (l * 0x9E3779B9)
  if x = 0 then 1 else x

end Sys2Proof.Machine
end

