-- ==== Sys2Proof/Machine/Transcend.lean ====
section
/-! DEFINITION. The lane functions of R114: an enclosure of the exact value, and a result within the bound in ulps
whose place among the values within it is a free value, a function of the operand alone (log entry 9). -/
namespace Sys2Proof.Machine

/-- An enclosure of a positive real. -/
structure Encl where
  lo : Ex
  hi : Ex
deriving DecidableEq, Repr

/-- The lesser of two exact numbers. -/
def Ex.least (a b : Ex) : Ex := if a.le b then a else b

/-- The members of format f within K ulps of the enclosed value, as signed magnitude indices: the ulp is 2^(E - m)
with E clamped below (R114), and none is beyond the largest finite. A member counts where it is so near to every value of the
enclosure, which stands on one side of a power of two. -/
def within (f : Nat) (K : Nat) (y : Encl) : List Int :=
  let t := floatFmt f
  let q := max y.lo.log2 t.emin - t.m
  let bound : Ex := { a := K, e := q }
  let k0 : Int := t.floorCode y.lo
  ((List.range (3 * K + 4)).map (fun (j : Nat) => k0 - 2 * K - 1 + (j : Int))).filter fun k =>
    let m := if k < 0 then (t.member k.natAbs).neg else t.member k.natAbs
    decide (k ≤ t.maxCode) && (m.sub bound).le y.lo && y.hi.le (m.add bound)

/-- The result of a lane function with an exact value enclosed by y and a sign: ∞ from the largest finite plus half
an ulp on, otherwise a free choice within K ulps; NX where it is not the exact value, UF where it is tiny too. -/
def laneResult (op f K x : Nat) (neg : Bool) (y : Encl) : Res :=
  let t := floatFmt f
  let top : Ex := (t.member t.maxCode).add ((t.member t.maxCode).sub (t.member (t.maxCode - 1)) |>.scale (-1))
  if top.le y.lo then { code := infCode f neg, fl := flOF + flNX }
  else
    let ks := within f K y
    let k := ks.getD (Config.laneFn op f x % ks.length) (t.floorCode y.lo : Nat)
    let exact := (y.lo.sub y.hi).sign == 0 && decide (0 ≤ k) && ((t.member k.natAbs).sub y.lo).sign == 0
    { code := codeOf f (neg != decide (k < 0)) k.natAbs, fl := inexactFlags f k.natAbs (!exact) }

/-- An exact value. -/
def Encl.of (x : Ex) : Encl := { lo := x, hi := x }

/-- 1 ÷ x for a positive plain x, at 256 bits below its size. -/
def recipEncl (x : Ex) : Encl :=
  let n : Int := x.a.toNat.log2 + 256
  let q := pow2 n / x.a
  let e := -x.e - n
  { lo := { a := q, e := e }, hi := { a := if q * x.a = pow2 n then q else q + 1, e := e } }

/-- 1 ÷ √x for a positive plain x. -/
def rsqrtEncl (x : Ex) : Encl :=
  let k : Int := x.e % 2
  let a := (x.a * pow2 k).toNat
  let n := a.log2 + 256
  let r := isqrt (2 ^ (2 * n) / a)
  let e := -((x.e - k) / 2) - (n : Int)
  { lo := { a := r, e := e }, hi := { a := (if r * r * a = 2 ^ (2 * n) then r else r + 1 : Nat), e := e } }

/-- Multiply, with 256 bits below the point. -/
def fixMul (a b : Nat) : Nat := a * b / 2 ^ 256

/-- 2^g for the n bits of g below the point from the one of weight root: root holds 2^(2^-i). -/
def exp2Bits (g : Nat) : Nat → Nat → Nat → Nat
  | 0, _, r => r
  | n + 1, root, r =>
    let root := isqrt (root * 2 ^ 256)
    exp2Bits g n root (if g / 2 ^ n % 2 = 1 then fixMul r root else r)

/-- 2^v for a plain v (R114): exactly for an integer. -/
def exp2Encl (v : Ex) : Encl :=
  let n := if 0 ≤ v.e then v.a * pow2 v.e else v.a / pow2 (-v.e)
  let rest := if 0 ≤ v.e then 0 else v.a - n * pow2 (-v.e)
  if rest = 0 then Encl.of { a := 1, e := n }
  else
    let g := (if -v.e ≤ 192 then rest * pow2 (192 + v.e) else rest / pow2 (-v.e - 192)).toNat
    let r := exp2Bits g 192 (2 ^ 257) (2 ^ 256)
    { lo := { a := r, e := n - 256 }, hi := ({ a := (r + 2 ^ 80 : Nat), e := n - 256 } : Ex).least { a := 1, e := n + 1 } }

/-- The bits of log2 m, m at least 1 and below 2 with 320 bits below the point, by repeated squaring. -/
def log2Bits : Nat → Nat → Nat → Nat
  | 0, _, acc => acc
  | k + 1, m, acc =>
    let s := m * m / 2 ^ 320
    if 2 ^ 321 ≤ s then log2Bits k (s / 2) (2 * acc + 1) else log2Bits k s (2 * acc)

/-- log2 x for a positive plain x: the sign and the magnitude. -/
def log2Encl (x : Ex) : Bool × Encl :=
  let e := x.log2
  let a := x.a.toNat
  let k := a.log2
  if a = 2 ^ k then (decide (e < 0), Encl.of (Ex.int e.natAbs))
  else
    let l := log2Bits 192 (a * 2 ^ 320 / 2 ^ k) 0
    let lo : Int := e * pow2 192 + l
    if 0 ≤ e then (false, { lo := { a := lo, e := -192 }, hi := { a := lo + 4, e := -192 } })
    else (true, { lo := { a := -lo - 4, e := -192 }, hi := { a := -lo, e := -192 } })

/-- ⌊π 2^256⌋. -/
def piFix : Nat := 0x3243F6A8885A308D313198A2E03707344A4093822299F31D0082EFA98EC4E6C89

/-- Σ ± z^j ÷ ((k+1)(k+2) … ) from the term t on, z2 the square, all with 256 bits below the point. -/
def taylor (z2 : Int) : Nat → Int → Int → Int → Int
  | 0, _, _, s => s
  | n + 1, k, t, s =>
    let t := -(t * z2 / pow2 256) / ((k + 1) * (k + 2))
    taylor z2 n (k + 2) t (s + t)

/-- sin πr (sine) or cos πr for r = n 2^e with 0 < r ≤ 1 ÷ 4. -/
def trigEncl (sine : Bool) (n : Nat) (e : Int) : Encl :=
  let r := if 0 ≤ 256 + e then (n : Int) * pow2 (256 + e) else (n : Int) / pow2 (-e - 256)
  let z := r * piFix / pow2 256
  let z2 := z * z / pow2 256
  if sine then
    let g := taylor z2 60 1 (pow2 256) (pow2 256)
    { lo := { a := n * piFix * (g - pow2 64), e := e - 512 }, hi := { a := n * (piFix + 1) * (g + pow2 64), e := e - 512 } }
  else
    let g := taylor z2 60 0 (pow2 256) (pow2 256)
    { lo := { a := g - pow2 64, e := -256 }, hi := ({ a := g + pow2 64, e := -256 } : Ex).least (Ex.int 1) }

/-- sin πy or cos πy for y = a 2^e > 0 and e < 0, y neither an integer nor an odd multiple of one half: the sign and
the magnitude. -/
def trigPi (sine : Bool) (a : Nat) (e : Int) : Bool × Encl :=
  let one := 2 ^ (-e).toNat
  let r := a % (2 * one)
  let neg := decide (one ≤ r)
  let r := if one ≤ r then r - one else r
  let flip := decide (one < 2 * r)
  let r := if one < 2 * r then one - r else r
  let neg := if flip && !sine then !neg else neg
  if one < 4 * r then (neg, trigEncl (!sine) (one - 2 * r) (e - 1)) else (neg, trigEncl sine r e)

/-- A NaN operand of a lane function (Table 5.9, last row). -/
def nanRes (f : Nat) (s : Bool) : Res := { code := (defaultNaN f).getD 0, fl := if s then flIV else 0 }

/-- FRCP (R114, Table 5.9). -/
def fRcp (f x : Nat) : Res :=
  match valOf f x with
  | .nan s => nanRes f s
  | .inf n => { code := codeOf f n 0 }
  | .num n v => if v.sign = 0 then { code := infCode f n, fl := flDZ } else laneResult 0x32 f 1 x n (recipEncl v)

/-- FRSQ. -/
def fRsq (f x : Nat) : Res :=
  match valOf f x with
  | .nan s => nanRes f s
  | .inf n => if n then nanRes f true else { code := 0 }
  | .num n v =>
    if v.sign = 0 then { code := infCode f n, fl := flDZ }
    else if n then nanRes f true
    else laneResult 0x33 f 1 x false (rsqrtEncl v)

/-- FEXP2: an operand beyond every format's range stands at the end of it. -/
def fExp2 (f x : Nat) : Res :=
  match valOf f x with
  | .nan s => nanRes f s
  | .inf n => if n then { code := 0 } else { code := infCode f false }
  | .num n v =>
    let w := if n then v.neg else v
    let w := if (Ex.int 1100).lt w then Ex.int 1100 else if w.lt (Ex.int (-1200)) then Ex.int (-1200) else w
    let y := exp2Encl w
    let r := roundTo f .rne (.num false y.lo)
    if (y.lo.sub y.hi).sign = 0 && r.fl == 0 then r else laneResult 0x34 f 2 x false y

/-- FLOG2. -/
def fLog2 (f x : Nat) : Res :=
  match valOf f x with
  | .nan s => nanRes f s
  | .inf n => if n then nanRes f true else { code := infCode f false }
  | .num n v =>
    if v.sign = 0 then { code := infCode f true, fl := flDZ }
    else if n then nanRes f true
    else
      let (s, y) := log2Encl v
      if y.lo.sign = 0 then { code := 0 }
      else if (y.lo.sub y.hi).sign = 0 then roundTo f .rne (.num s y.lo)
      else laneResult 0x35 f 2 x s y

/-- FSINPI and FCOSPI. -/
def fTrig (sine : Bool) (op f x : Nat) : Res :=
  match valOf f x with
  | .nan s => nanRes f s
  | .inf _ => nanRes f true
  | .num n v =>
    let a := v.a.toNat
    let whole := decide (0 ≤ v.e) || a % 2 ^ (-v.e).toNat == 0
    let half := !whole && a * 2 % 2 ^ (-v.e).toNat == 0
    let y := if 0 ≤ v.e then a * 2 ^ v.e.toNat else a / 2 ^ (-v.e).toNat
    if whole then
      if sine then { code := codeOf f n 0 } else laneResult op f 2 x (y % 2 == 1) (Encl.of (Ex.int 1))
    else if half then
      if sine then laneResult op f 2 x (n != (y % 2 == 1)) (Encl.of (Ex.int 1)) else { code := 0 }
    else
      let (s, q) := trigPi sine a v.e
      laneResult op f 2 x (s != (n && sine)) q

def fSinPi (f x : Nat) : Res := fTrig true 0x36 f x
def fCosPi (f x : Nat) : Res := fTrig false 0x37 f x

end Sys2Proof.Machine
end

