-- ==== Sys2Proof/Machine/LaneFloat.lean ====
section
/-! DEFINITION. Floating-point arithmetic of the lane pipe (spec/08 R188 to R193). -/
namespace Sys2Proof.Machine

/-- The elements of a floating-point form (Table 8.7): count and width; none for another format. -/
def floatForm (fmt : BitVec 4) : Option (Nat × Nat) :=
  match fmt.toNat with
  | 0 => some (1, 64)
  | 1 => some (1, 32)
  | 2 => some (2, 16)
  | 3 => some (2, 16)
  | _ => none

/-- Results of n elements of z bits side by side, with all their flags. -/
def sideBySide (z : Nat) (g : Nat → Res) : Nat → Res
  | 0 => { code := 0 }
  | n + 1 =>
    let r := sideBySide z g n
    let x := g n
    { code := r.code + x.code % 2 ^ z * 2 ^ (z * n), fl := r.fl ||| x.fl }

/-- The flags raised in any active lane (R106). -/
def State.laneFlags (s : State) (g : Nat → Res) : Nat := s.active.foldl (fun m l => m ||| (g l).fl) 0

/-- Write a lane result with flags. -/
def State.putRes (s : State) (wide nw : Bool) (d : BitVec 7) (g : Nat → Res) : State :=
  (s.putLane wide nw d (fun l => dw (g l).code)).orFpsr (s.laneFlags g)

/-- A floating-point instruction on the elements of A and B (and C): sources by name, the operation by element. -/
def floatOp (s : State) (nw : Bool) (d : BitVec 7) (srcs : List (BitVec 8)) (fmt : BitVec 4) (words : Nat)
    (f : State → Nat → Nat → (BitVec 8 → Nat) → Res) : Out :=
  let wide := fmt == 0#4
  perform { srcs := srcs, lp := 1, words := words
            ok := (floatForm fmt).isSome && s.dstOk wide d && srcs.all (s.srcOk wide) } s fun s =>
    let (n, z) := (floatForm fmt).getD (1, 32)
    .done (s.putRes wide nw d fun l =>
      sideBySide z (fun j => f s l fmt.toNat (fun x => field (s.laneW wide x l).toNat (z * j) z)) n)

/-- A binary floating-point instruction under FPCR.RM (R189). -/
def floatOp2 (s : State) (nw : Bool) (d : BitVec 7) (a b : BitVec 8) (fmt : BitVec 4) (words : Nat)
    (f : Nat → Mode → Nat → Nat → Res) : Out :=
  floatOp s nw d [a, b] fmt words fun s _ k x => f k s.crew.mode (x a) (x b)

/-- A unary one (R191). -/
def floatOp1 (s : State) (nw : Bool) (d : BitVec 7) (a : BitVec 8) (fmt : BitVec 4) (words : Nat)
    (f : Nat → Mode → Nat → Res) : Out :=
  floatOp s nw d [a] fmt words fun s _ k x => f k s.crew.mode (x a)

/-! Arithmetic (R189), and minimum and maximum (R115). -/
def execFadd (nw : Bool) (d : BitVec 7) (a b : BitVec 8) (s : State) : Out := floatOp2 s nw d a b 1#4 1 fAdd
def execFaddExt (nw : Bool) (d : BitVec 7) (a : BitVec 8) (fmt : BitVec 4) (b : BitVec 8) (s : State) : Out :=
  floatOp2 s nw d a b fmt 2 fAdd
def execFsub (nw : Bool) (d : BitVec 7) (a b : BitVec 8) (s : State) : Out := floatOp2 s nw d a b 1#4 1 fSub
def execFsubExt (nw : Bool) (d : BitVec 7) (a : BitVec 8) (fmt : BitVec 4) (b : BitVec 8) (s : State) : Out :=
  floatOp2 s nw d a b fmt 2 fSub
def execFmul (nw : Bool) (d : BitVec 7) (a b : BitVec 8) (s : State) : Out := floatOp2 s nw d a b 1#4 1 fMul
def execFmulExt (nw : Bool) (d : BitVec 7) (a : BitVec 8) (fmt : BitVec 4) (b : BitVec 8) (s : State) : Out :=
  floatOp2 s nw d a b fmt 2 fMul
def execFmin (nw : Bool) (d : BitVec 7) (a b : BitVec 8) (s : State) : Out := floatOp2 s nw d a b 1#4 1 fun k _ => fminmax k false false
def execFminExt (nw : Bool) (d : BitVec 7) (a : BitVec 8) (fmt : BitVec 4) (b : BitVec 8) (s : State) : Out :=
  floatOp2 s nw d a b fmt 2 fun k _ => fminmax k false false
def execFmax (nw : Bool) (d : BitVec 7) (a b : BitVec 8) (s : State) : Out := floatOp2 s nw d a b 1#4 1 fun k _ => fminmax k true false
def execFmaxExt (nw : Bool) (d : BitVec 7) (a : BitVec 8) (fmt : BitVec 4) (b : BitVec 8) (s : State) : Out :=
  floatOp2 s nw d a b fmt 2 fun k _ => fminmax k true false
def execFminn (nw : Bool) (d : BitVec 7) (a b : BitVec 8) (s : State) : Out := floatOp2 s nw d a b 1#4 1 fun k _ => fminmax k false true
def execFminnExt (nw : Bool) (d : BitVec 7) (a : BitVec 8) (fmt : BitVec 4) (b : BitVec 8) (s : State) : Out :=
  floatOp2 s nw d a b fmt 2 fun k _ => fminmax k false true
def execFmaxn (nw : Bool) (d : BitVec 7) (a b : BitVec 8) (s : State) : Out := floatOp2 s nw d a b 1#4 1 fun k _ => fminmax k true true
def execFmaxnExt (nw : Bool) (d : BitVec 7) (a : BitVec 8) (fmt : BitVec 4) (b : BitVec 8) (s : State) : Out :=
  floatOp2 s nw d a b fmt 2 fun k _ => fminmax k true true

/-- FFMA in one word adds D[l] as it stood before (R190). -/
def execFfma (nw : Bool) (d : BitVec 7) (a b : BitVec 8) (s : State) : Out :=
  floatOp s nw d [a, b] 1#4 1 fun s l k x => fFma k s.crew.mode (x a) (x b) (s.crew.getV d.toNat l).toNat
/-- FFMA in two words adds C[l]. -/
def execFfmaExt (nw : Bool) (d : BitVec 7) (a c : BitVec 8) (fmt : BitVec 4) (b : BitVec 8) (s : State) : Out :=
  floatOp s nw d [a, b, c] fmt 2 fun s _ k x => fFma k s.crew.mode (x a) (x b) (x c)

/-! Unary functions (R114, R191). -/
def execFrcp (nw : Bool) (d : BitVec 7) (a : BitVec 8) (s : State) : Out := floatOp1 s nw d a 1#4 1 fun k _ => fRcp k
def execFrcpExt (nw : Bool) (d : BitVec 7) (a : BitVec 8) (fmt : BitVec 4) (s : State) : Out :=
  floatOp1 s nw d a fmt 2 fun k _ => fRcp k
def execFrsq (nw : Bool) (d : BitVec 7) (a : BitVec 8) (s : State) : Out := floatOp1 s nw d a 1#4 1 fun k _ => fRsq k
def execFrsqExt (nw : Bool) (d : BitVec 7) (a : BitVec 8) (fmt : BitVec 4) (s : State) : Out :=
  floatOp1 s nw d a fmt 2 fun k _ => fRsq k
def execFexp2 (nw : Bool) (d : BitVec 7) (a : BitVec 8) (s : State) : Out := floatOp1 s nw d a 1#4 1 fun k _ => fExp2 k
def execFexp2Ext (nw : Bool) (d : BitVec 7) (a : BitVec 8) (fmt : BitVec 4) (s : State) : Out :=
  floatOp1 s nw d a fmt 2 fun k _ => fExp2 k
def execFlog2 (nw : Bool) (d : BitVec 7) (a : BitVec 8) (s : State) : Out := floatOp1 s nw d a 1#4 1 fun k _ => fLog2 k
def execFlog2Ext (nw : Bool) (d : BitVec 7) (a : BitVec 8) (fmt : BitVec 4) (s : State) : Out :=
  floatOp1 s nw d a fmt 2 fun k _ => fLog2 k
def execFsinpi (nw : Bool) (d : BitVec 7) (a : BitVec 8) (s : State) : Out := floatOp1 s nw d a 1#4 1 fun k _ => fSinPi k
def execFsinpiExt (nw : Bool) (d : BitVec 7) (a : BitVec 8) (fmt : BitVec 4) (s : State) : Out :=
  floatOp1 s nw d a fmt 2 fun k _ => fSinPi k
def execFcospi (nw : Bool) (d : BitVec 7) (a : BitVec 8) (s : State) : Out := floatOp1 s nw d a 1#4 1 fun k _ => fCosPi k
def execFcospiExt (nw : Bool) (d : BitVec 7) (a : BitVec 8) (fmt : BitVec 4) (s : State) : Out :=
  floatOp1 s nw d a fmt 2 fun k _ => fCosPi k
def execFsqrt (nw : Bool) (d : BitVec 7) (a : BitVec 8) (s : State) : Out := floatOp1 s nw d a 1#4 1 fSqrt
def execFsqrtExt (nw : Bool) (d : BitVec 7) (a : BitVec 8) (fmt : BitVec 4) (s : State) : Out :=
  floatOp1 s nw d a fmt 2 fSqrt
def execFrnd (nw : Bool) (d : BitVec 7) (a : BitVec 8) (s : State) : Out := floatOp1 s nw d a 1#4 1 fRnd
def execFrndExt (nw : Bool) (d : BitVec 7) (a : BitVec 8) (fmt : BitVec 4) (s : State) : Out :=
  floatOp1 s nw d a fmt 2 fRnd

/-- FCLASS (R192): D is a single register in every form, an even one in F64 (R188); packed elements are classed 16 bits apart. -/
def classOp (s : State) (nw : Bool) (d : BitVec 7) (a : BitVec 8) (fmt : BitVec 4) (words : Nat) : Out :=
  let wide := fmt == 0#4
  perform { srcs := [a], lp := 1, words := words
            ok := (floatForm fmt).isSome && s.dstOk wide d && s.srcOk wide a } s fun s =>
    let (n, z) := (floatForm fmt).getD (1, 32)
    .done (s.putLane false nw d fun l =>
      dw (sideBySide 16 (fun j => { code := fClass fmt.toNat (field (s.laneW wide a l).toNat (z * j) z) }) n).code)

def execFclass (nw : Bool) (d : BitVec 7) (a : BitVec 8) (s : State) : Out := classOp s nw d a 1#4 1
def execFclassExt (nw : Bool) (d : BitVec 7) (a : BitVec 8) (fmt : BitVec 4) (s : State) : Out := classOp s nw d a fmt 2

/-- FCMP (R193): the mask of the active lanes where the condition holds, ANDed with the uniform C. -/
def execFcmp (nw : Bool) (d : BitVec 7) (a b c : BitVec 8) (cond fmt : BitVec 4) (s : State) : Out :=
  let wide := fmt == 0#4
  perform { srcs := [a, b, c], up := 1
            ok := dS d && decide (fmt.toNat ≤ 1) && s.srcOk wide a && s.srcOk wide b && isUniform c &&
              decide (cond.toNat < 8) } s fun s =>
    let g (l : Nat) : Bool × Nat :=
      (fCmp fmt.toNat cond.toNat (s.laneW wide a l).toNat (s.laneW wide b l).toNat).getD (false, 0)
    .done ((s.putS nw d (s.maskWhere (fun l => (g l).1) &&& s.uni c)).orFpsr
      (s.laneFlags fun l => { code := 0, fl := (g l).2 }))

end Sys2Proof.Machine
end

