-- ==== Sys2Proof/Machine/Order.lean ====
section
/-! DEFINITION. The accesses of a crew that are issued and not performed (R313): which pairs program order keeps apart (rows 1
to 4 of Table 13.2, Table 3.6, Table 10.5) and for which observers (R321), and what must be performed, or be found by the
observers of a scope, before an access or a synchronisation event. -/
namespace Sys2Proof.Machine

/-! Edges. The tag of an edge is a number: 0 where there is none, one more than the scope for CREW to DIE, 8 where it counts for every
observer. An edge of a wider scope counts for every observer, and so does one that begins at a read or at an atomic, and a page
kind's; all of R321's edges are kept (log entry 5). -/

/-- The access goes by the fabric, to another device or back to this one (R244, R362). -/
def Acc.far (a : Acc) : Bool := a.req.isSome

/-- Its request is on its way. -/
def Acc.sent (a : Acc) : Bool := a.far && a.send.isNone

/-- The ranges that an access touches: address, bytes and page kind. -/
def Acc.spans (a : Acc) : List (Nat × Nat × Nat) :=
  match a.op with
  | .kv _ x => (x.entry ++ x.len ++ x.k ++ x.v).map fun p => (p.page.pa, p.n, pteOrd p.page.pte)
  | _ => [(a.pa, a.n, a.kind)]

/-- Two ranges have a common byte. -/
def overlap (p q : Nat × Nat × Nat) : Bool := decide (p.1 < q.1 + q.2.1) && decide (q.1 < p.1 + p.2.1)

/-- Two accesses touch a common byte. -/
def Acc.meets (a b : Acc) : Bool := a.dev == b.dev && a.spans.any fun p => b.spans.any (overlap p)

/-- Table 3.6 orders the pair for the kinds of both pages (R67, R69); two remote accesses to different bytes only where both go to
one device (R317). -/
def Acc.kindOrders (a b : Acc) : Bool :=
  a.spans.any fun p => b.spans.any fun q =>
    if a.dev == b.dev && overlap p q then a.lane == b.lane || (p.2.2 != 2 && q.2.2 != 2)
    else p.2.2 == 1 && q.2.2 == 1 && (!(a.far && b.far) || a.dev == b.dev)

/-- The path of the fabric keeps the pair in order: a request to the same bytes is sent already (R362). -/
def Acc.byPath (a b : Acc) : Bool := a.sent && b.far && a.meets b

/-- Only a store to this device's memory can be passed for some observers. -/
def Acc.passable (a : Acc) : Bool := a.wr && !a.rd && !a.far && a.op == .plain

/-- The tag of the edge from an access to a release or over a fence of a scope: a request that is on its way to another device counts
for DOMAIN and SYSTEM alone (R244, R317). -/
def Acc.tag (a : Acc) (scope : Nat) : Nat :=
  if a.sent && a.dev.isSome then (if 5 ≤ scope then 8 else 0)
  else if a.passable && decide (scope < 4) then scope + 1
  else 8

/-- The tag of the edge from a to b by rows 1 to 3 of Table 13.2: one stream, and Table 3.6, an acquire a or a release b. Lanes of one
instruction are ordered where they write one byte (R327). -/
def Acc.edge (a b : Acc) : Nat :=
  if a.byPath b then 0
  else if a.seq == b.seq then (if a.wr && b.wr && a.meets b then 8 else 0)
  else if a.strm != b.strm then 0
  else if a.kindOrders b || a.acq then 8
  else if b.rel then a.tag b.scope
  else 0

/-- A fence of an ORD orders the pair (Table 10.5). -/
def fenceOrders (ord : Nat) (a b : Acc) : Bool :=
  match ord with
  | 1 => a.rd
  | 2 => b.wr
  | 3 => a.rd || b.wr
  | _ => true

/-- The tag of the edge from a to b over a fence between them (row 4 of Table 13.2). -/
def Pend.joins (f : Pend) (a b : Acc) : Nat :=
  match f with
  | .acc _ => 0
  | .fence m ord scope => if m.getLsbD a.strm && m.getLsbD b.strm && fenceOrders ord a b then a.tag scope else 0

/-! What must be performed first. -/

/-- What is to come about after earlier accesses: the tag of its edge from each, and what a fence in between adds. -/
structure Target where
  edge : Acc → Nat
  fence : Pend → Acc → Nat

/-- An access that is to be performed for the observers of a tag. -/
def Acc.target (b : Acc) (for_ : Nat) : Target :=
  { edge := fun a => min for_ (a.edge b), fence := fun f a => min for_ (f.joins a b) }

/-- A synchronisation event or command with a release part of a scope: accesses of every stream come before it (R316). -/
def releaseTarget (scope : Nat) : Target := { edge := fun a => a.tag scope, fence := fun _ _ => 0 }

/-- A fence stands before the target. -/
def Target.past (t : Target) (f : Pend) : Target := { t with edge := fun a => max (t.edge a) (t.fence f a) }

/-- The observers for whom an access must come before one of the targets, as a tag. -/
def needed (ts : List Target) (a : Acc) : Nat := (ts.map fun t => t.edge a).foldl max 0

/-- One entry of a list, seen from its end: an access that is needed only for the observers of a scope and can be passed for the others
is found by those from now on (R321), and what comes before it too; any other needed one must be performed first. -/
def passEntry (p : Pend) (st : Option (List Pend × List Target)) : Option (List Pend × List Target) :=
  match st with
  | none => none
  | some (done, ts) =>
    match p with
    | .fence _ _ _ => some (p :: done, ts.map (·.past p))
    | .acc a =>
      let need := needed ts a
      if need ≤ a.late then some (p :: done, ts)
      else if need < 5 && a.passable then some (.acc { a with late := need } :: done, a.target need :: ts)
      else none

/-- The list of accesses after something passes it that must come about after them: none where one of them must be performed first. -/
def passList (l : List Pend) (ts : List Target) : Option (List Pend) := (l.foldr passEntry (some ([], ts))).map (·.1)

/-- Fences with nothing before them order nothing. -/
def trimPend : List Pend → List Pend
  | .fence _ _ _ :: r => trimPend r
  | l => l

/-- Replace the list of the current crew. -/
def State.withPend (s : State) (l : List Pend) : State := if l == s.crew.pend then s else s.setCrew { s.crew with pend := l }

/-- Accesses of the current crew that are performed at issue: none where they wait for earlier ones. -/
def State.passing (s : State) (bs : List Acc) : Option State := (passList s.crew.pend (bs.map (·.target 8))).map s.withPend

/-- A synchronisation event or command of the current crew with an ORD and a scope: none where it waits, for its release part, for
earlier accesses (R266, R316, R317). -/
def State.ordered (s : State) (ord : BitVec 2) (scope : BitVec 3) : Option State :=
  if ord.getLsbD 1 then (passList s.crew.pend [releaseTarget scope.toNat]).map s.withPend else some s

/-- A fence stands behind the accesses issued so far (R247): it blocks nothing, and what it orders waits. -/
def State.fence (s : State) (strms : BitVec 16) (ord : BitVec 2) (scope : BitVec 3) : State :=
  s.setCrew { s.crew with pend := trimPend (s.crew.pend ++ [.fence strms ord.toNat scope.toNat]) }

/-- A release fence of a list stands behind an access that it orders and that is not performed (R247). -/
def fenceHolds : List Pend → Bool
  | [] => false
  | .fence _ _ _ :: r => fenceHolds r
  | .acc a :: r =>
    r.any (fun f => match f with
      | .fence m ord scope => ord != 1 && m.getLsbD a.strm && a.tag scope != 0
      | .acc _ => false) || fenceHolds r

/-- Entry j of a crew's list can be performed, or sent: the list of the entries before it once it has passed them. -/
def Crew.pass (c : Crew) (j : Nat) : Option (Acc × List Pend) :=
  match c.pend[j]? with
  | some (.acc a) => if a.sent then none else (passList (c.pend.take j) [a.target 8]).map fun l => (a, l)
  | _ => none

/-- The numbers of the crew's requests to the fabric (R244). -/
def Crew.posted (c : Crew) : List Nat :=
  c.pend.filterMap fun p => match p with
    | .acc a => a.req
    | .fence _ _ _ => none

/-- A request is over. -/
def Crew.acked (c : Crew) (req : Nat) : Crew :=
  { c with pend := trimPend (c.pend.filter fun p => match p with
      | .acc a => a.req != some req
      | .fence _ _ _ => true) }

/-! Issue. -/

/-- The granules that a list of ranges covers whole together (R418). -/
def coveredGranules (rs : List (Nat × Nat)) : List Nat :=
  (rs.flatMap fun r => granules r.1 r.2).filter fun g => (List.range 16).all fun i =>
    rs.any fun r => decide (r.1 ≤ 16 * g + i) && decide (16 * g + i < r.1 + r.2)

/-- The parts of a lane's access to a page of this device: one where the access is aligned, else its bytes (R325). x gives what they
share, v the lane's element. -/
def Acc.parts (x : Acc) (lane : Nat) (aligned : Bool) (v : Nat) (p : Piece) : List Acc :=
  let part (i n : Nat) : Acc := { x with
    lane := lane, pa := p.page.pa + i, n := n, off := p.off + i, kind := pteOrd p.page.pte
    data := if x.wr then v / 2 ^ (8 * (p.off + i)) % 2 ^ (8 * n) else 0 }
  if aligned then [part 0 p.n] else (List.range p.n).map fun i => part i 1

/-- The weaker of two page kinds (R69, R317): SO is the strongest, then RC, then UO. -/
def weaker (j k : Nat) : Nat := if j = 2 ∨ k = 2 then 2 else if j = 0 ∨ k = 0 then 0 else 1

/-- The part of a lane's access to a REMOTE page, with the request that it will send. Where the page names this very device it is an
access to this device's memory, of the weaker kind of the two entries (R317, R362). -/
def State.farPart (s : State) (x : Acc) (lane v : Nat) (p : Piece) (r : FabReq) : Acc :=
  let base : Acc := { x with
    lane := lane, off := p.off, kind := pteOrd p.page.pte, send := some r
    data := if x.wr then v / 2 ^ (8 * p.off) % 2 ^ (8 * p.n) else 0 }
  if r.dev = s.devnum then
    match s.targetSpan r.rctx r.sec {} p.va p.n with
    | .ok [q] => { base with pa := q.page.pa, n := p.n, kind := weaker (pteOrd p.page.pte) (pteOrd q.page.pte) }
    | _ => base
  else { base with dev := some r.dev, pa := p.va, n := p.n }

/-- Number the requests of a list of accesses from a number on. -/
def numbered : Nat → List Acc → List Acc
  | _, [] => []
  | n, a :: r => if a.send.isSome then { a with req := some n } :: numbered (n + 1) r else a :: numbered n r

/-- Mark the writes that cover their granule whole together. -/
def markFull (as : List Acc) : List Acc :=
  let gs := coveredGranules ((as.filter (·.passable)).map fun a => (a.pa, a.n))
  as.map fun a => { a with full := a.passable && gs.contains (a.pa / 16) }

/-- What an instruction's accesses share: the step of its issue, its stream and its qualifiers. -/
def State.accOf (s : State) (rd wr : Bool) (strm : BitVec 4) (scope : BitVec 3) (ord : BitVec 2) : Acc :=
  { seq := s.fresh, rd := rd, wr := wr, strm := strm.toNat, acq := ord.getLsbD 0, rel := ord.getLsbD 1, scope := scope.toNat }

/-- The accesses of the parts that a read makes at issue. -/
def readAccs (x : Acc) (ps : List Piece) : List Acc :=
  ps.map fun p => { x with pa := p.page.pa, n := p.n, kind := pteOrd p.page.pte }

/-- Accesses join the list of the current crew; the numbers of their requests are taken. -/
def State.pendAll (s : State) (as : List Acc) : State :=
  ({ s with nextReq := s.nextReq + (as.filter (·.far)).length } : State).setCrew { s.crew with pend := s.crew.pend ++ as.map .acc }

/-! Stores that some observers find before they are performed (R313, R321). -/

/-- A crew, or a command of a team slot where no crew is named, lies within the scope of a tag around crew k. -/
def inScope (k tag slot : Nat) (crew : Option Nat) : Bool :=
  match tag with
  | 0 => false
  | 1 => crew == some k
  | 2 => slotOf k == slot
  | 3 => clusterOf (slotOf k) == clusterOf slot
  | _ => dieOf (slotOf k) == dieOf slot

/-- The late stores of a list that must be performed for those that are wanted, with what comes before them, in program order. -/
def lateFor (l : List Pend) (want : Acc → Bool) : List Acc :=
  (l.foldr (fun p st => match p with
    | .fence _ _ _ => (st.1, st.2.map (·.past p))
    | .acc a => if a.late != 0 && (want a || needed st.2 a != 0) then (a :: st.1, a.target 8 :: st.2) else st)
    (([] : List Acc), ([] : List Target))).1

/-- The entry of an access leaves a crew's list. -/
def Crew.performed (c : Crew) (a : Acc) : Crew := { c with pend := trimPend (c.pend.erase (.acc a)) }

/-- No other part of the instruction is still to write into the part's granule. -/
def Crew.lastIn (c : Crew) (a : Acc) : Bool :=
  (c.pend.erase (.acc a)).all fun p => match p with
    | .acc b => b.seq != a.seq || b.far || b.pa / 16 != a.pa / 16
    | .fence _ _ _ => true

/-- A store of crew k is performed: it recalls the leases on its line (R74), its bytes land, and the marker of a granule that its
instruction has now covered is cleared (R418). -/
def State.land (s : State) (k : Nat) (a : Acc) : State :=
  let s1 := (s.recallRun a.pa a.n).storePhys a.pa (bytesOf a.n a.data)
  let s2 := if a.full && (s.crewAt k).lastIn a then { s1 with poison := fset false s1.poison (a.pa / 16) false } else s1
  s2.setCrewAt k ((s.crewAt k).performed a)

/-- The late stores of every crew that are wanted are performed. -/
def State.commit (s : State) (want : Nat → Acc → Bool) : State :=
  s.crews.foldl (fun t e => (lateFor e.2.pend (want e.1)).foldl (fun u a => u.land e.1 a) t) s

/-- A range of this device's memory. -/
def Acc.inRange (a : Acc) (pa n : Nat) : Bool := decide (a.pa < pa + n) && decide (pa < a.pa + a.n)

/-- A write by something else than a crew's access comes after every late store that it meets. -/
def State.commitRange (s : State) (pa n : Nat) : State := s.commit fun _ a => a.inRange pa n

/-- A command of a team slot reads: it finds the stores within whose scope it lies. -/
def State.commitSeen (s : State) (slot : Nat) : State := s.commit fun k a => inScope k a.late slot none

/-- The package itself reads or writes memory: every late store is performed first. -/
def State.commitAll (s : State) : State := s.commit fun _ _ => true

/-- The current crew would read a late store that it must find. -/
def State.lateFound (s : State) (bs : List Acc) : Bool :=
  s.crews.any fun e => e.2.pend.any fun p => match p with
    | .acc a => inScope e.1 a.late (slotOf s.cur) (some s.cur) && bs.any a.meets
    | .fence _ _ _ => false

/-- Some store is late. -/
def State.someLate (s : State) : Bool :=
  s.crews.any fun e => e.2.pend.any fun p => match p with
    | .acc a => a.late != 0
    | .fence _ _ _ => false

/-- No crew has a local access to a range of memory outstanding, of those issued before a step. -/
def State.settled (s : State) (before pa n : Nat) : Bool :=
  s.crews.all fun e => e.2.pend.all fun p => match p with
    | .acc a => a.far || decide (before ≤ a.seq) || !a.spans.any (overlap (pa, n, 0))
    | .fence _ _ _ => true

end Sys2Proof.Machine
end

