-- ==== Sys2Proof/Machine/Uses.lean ====
section
/-! DEFINITION. The register codes that an instruction names, as source operands or as its destination: what its issue
waits on (R38, R39, R264) and whether it reads a latch (R159). -/
namespace Sys2Proof

/-- The lane registers of an element of a format: a pair for F64 (R53). -/
def fmtRegs (fmt : BitVec 4) : Nat := if fmt == 0#4 then 2 else 1

/-- The lane registers of an operand of an atomic (Table 10.4): a pair where sz is 8. -/
def aopRegs (aop : BitVec 5) (fmt : BitVec 4) : Nat :=
  if 9 ≤ aop.toNat ∧ aop.toNat ≤ 13 then fmtRegs fmt else if aop.toNat < 16 then 1 else 2

/-- The source codes of an instruction and its D, each with the number of lane registers that a lane code stands for. CALL
writes S31 (R222). -/
def Instr.uses (i : Instr) : List (BitVec 8 × Nat) :=
  match i with
  | .iadd _ d a b => [(d.setWidth 8, 1), (a, 1), (b, 1)]
  | .iaddExt _ d a _ b => [(d.setWidth 8, 1), (a, 1), (b, 1)]
  | .isub _ d a b => [(d.setWidth 8, 1), (a, 1), (b, 1)]
  | .isubExt _ d a _ b => [(d.setWidth 8, 1), (a, 1), (b, 1)]
  | .imul _ d a b => [(d.setWidth 8, 1), (a, 1), (b, 1)]
  | .imulExt _ d a _ b => [(d.setWidth 8, 1), (a, 1), (b, 1)]
  | .imulhs _ d a b => [(d.setWidth 8, 1), (a, 1), (b, 1)]
  | .imulhsExt _ d a _ b => [(d.setWidth 8, 1), (a, 1), (b, 1)]
  | .imulhu _ d a b => [(d.setWidth 8, 1), (a, 1), (b, 1)]
  | .imulhuExt _ d a _ b => [(d.setWidth 8, 1), (a, 1), (b, 1)]
  | .imad _ d a b c => [(d.setWidth 8, 1), (a, 1), (b, 1), (c, 1)]
  | .imin _ d a b => [(d.setWidth 8, 1), (a, 1), (b, 1)]
  | .imax _ d a b => [(d.setWidth 8, 1), (a, 1), (b, 1)]
  | .umin _ d a b => [(d.setWidth 8, 1), (a, 1), (b, 1)]
  | .umax _ d a b => [(d.setWidth 8, 1), (a, 1), (b, 1)]
  | .vand _ d a b => [(d.setWidth 8, 1), (a, 1), (b, 1)]
  | .vor _ d a b => [(d.setWidth 8, 1), (a, 1), (b, 1)]
  | .vxor _ d a b => [(d.setWidth 8, 1), (a, 1), (b, 1)]
  | .vandn _ d a b => [(d.setWidth 8, 1), (a, 1), (b, 1)]
  | .shl _ d a b => [(d.setWidth 8, 1), (a, 1), (b, 1)]
  | .shr _ d a b => [(d.setWidth 8, 1), (a, 1), (b, 1)]
  | .sar _ d a b => [(d.setWidth 8, 1), (a, 1), (b, 1)]
  | .rotl _ d a b => [(d.setWidth 8, 1), (a, 1), (b, 1)]
  | .popc _ d a => [(d.setWidth 8, 1), (a, 1)]
  | .clz _ d a => [(d.setWidth 8, 1), (a, 1)]
  | .brev _ d a => [(d.setWidth 8, 1), (a, 1)]
  | .bfx _ d a b _ => [(d.setWidth 8, 1), (a, 1), (b, 1)]
  | .bfi _ d a b c => [(d.setWidth 8, 1), (a, 1), (b, 1), (c, 1)]
  | .bperm _ d a b c => [(d.setWidth 8, 1), (a, 1), (b, 1), (c, 1)]
  | .bitf _ d a b c _ _ => [(d.setWidth 8, 1), (a, 1), (b, 1), (c, 1)]
  | .iadd64 _ d a b => [(d.setWidth 8, 2), (a, 2), (b, 2)]
  | .isub64 _ d a b => [(d.setWidth 8, 2), (a, 2), (b, 2)]
  | .imulw _ d a b => [(d.setWidth 8, 2), (a, 1), (b, 1)]
  | .icmp _ d a b c _ => [(d.setWidth 8, 1), (a, 1), (b, 1), (c, 1)]
  | .sel _ d a b c p => [(d.setWidth 8, p.toNat + 1), (a, p.toNat + 1), (b, p.toNat + 1), (c, 1)]
  | .mov _ d a => [(d.setWidth 8, 1), (a, 1)]
  | .movi _ d _ => [(d.setWidth 8, 1)]
  | .iaddi _ d a _ => [(d.setWidth 8, 1), (a, 1)]
  | .shli _ d a _ => [(d.setWidth 8, 1), (a, 1)]
  | .shri _ d a _ => [(d.setWidth 8, 1), (a, 1)]
  | .sari _ d a _ => [(d.setWidth 8, 1), (a, 1)]
  | .andi _ d a _ => [(d.setWidth 8, 1), (a, 1)]
  | .ori _ d a _ => [(d.setWidth 8, 1), (a, 1)]
  | .xori _ d a _ => [(d.setWidth 8, 1), (a, 1)]
  | .fadd _ d a b => [(d.setWidth 8, 1), (a, 1), (b, 1)]
  | .faddExt _ d a fmt b => [(d.setWidth 8, fmtRegs fmt), (a, fmtRegs fmt), (b, fmtRegs fmt)]
  | .fsub _ d a b => [(d.setWidth 8, 1), (a, 1), (b, 1)]
  | .fsubExt _ d a fmt b => [(d.setWidth 8, fmtRegs fmt), (a, fmtRegs fmt), (b, fmtRegs fmt)]
  | .fmul _ d a b => [(d.setWidth 8, 1), (a, 1), (b, 1)]
  | .fmulExt _ d a fmt b => [(d.setWidth 8, fmtRegs fmt), (a, fmtRegs fmt), (b, fmtRegs fmt)]
  | .ffma _ d a b => [(d.setWidth 8, 1), (a, 1), (b, 1)]
  | .ffmaExt _ d a c fmt b => [(d.setWidth 8, fmtRegs fmt), (a, fmtRegs fmt), (c, fmtRegs fmt), (b, fmtRegs fmt)]
  | .fmin _ d a b => [(d.setWidth 8, 1), (a, 1), (b, 1)]
  | .fminExt _ d a fmt b => [(d.setWidth 8, fmtRegs fmt), (a, fmtRegs fmt), (b, fmtRegs fmt)]
  | .fmax _ d a b => [(d.setWidth 8, 1), (a, 1), (b, 1)]
  | .fmaxExt _ d a fmt b => [(d.setWidth 8, fmtRegs fmt), (a, fmtRegs fmt), (b, fmtRegs fmt)]
  | .fminn _ d a b => [(d.setWidth 8, 1), (a, 1), (b, 1)]
  | .fminnExt _ d a fmt b => [(d.setWidth 8, fmtRegs fmt), (a, fmtRegs fmt), (b, fmtRegs fmt)]
  | .fmaxn _ d a b => [(d.setWidth 8, 1), (a, 1), (b, 1)]
  | .fmaxnExt _ d a fmt b => [(d.setWidth 8, fmtRegs fmt), (a, fmtRegs fmt), (b, fmtRegs fmt)]
  | .fcmp _ d a b c _ fmt => [(d.setWidth 8, 1), (a, fmtRegs fmt), (b, fmtRegs fmt), (c, 1)]
  | .fclass _ d a => [(d.setWidth 8, 1), (a, 1)]
  | .fclassExt _ d a fmt => [(d.setWidth 8, 1), (a, fmtRegs fmt)]
  | .frcp _ d a => [(d.setWidth 8, 1), (a, 1)]
  | .frcpExt _ d a fmt => [(d.setWidth 8, fmtRegs fmt), (a, fmtRegs fmt)]
  | .frsq _ d a => [(d.setWidth 8, 1), (a, 1)]
  | .frsqExt _ d a fmt => [(d.setWidth 8, fmtRegs fmt), (a, fmtRegs fmt)]
  | .fexp2 _ d a => [(d.setWidth 8, 1), (a, 1)]
  | .fexp2Ext _ d a fmt => [(d.setWidth 8, fmtRegs fmt), (a, fmtRegs fmt)]
  | .flog2 _ d a => [(d.setWidth 8, 1), (a, 1)]
  | .flog2Ext _ d a fmt => [(d.setWidth 8, fmtRegs fmt), (a, fmtRegs fmt)]
  | .fsinpi _ d a => [(d.setWidth 8, 1), (a, 1)]
  | .fsinpiExt _ d a fmt => [(d.setWidth 8, fmtRegs fmt), (a, fmtRegs fmt)]
  | .fcospi _ d a => [(d.setWidth 8, 1), (a, 1)]
  | .fcospiExt _ d a fmt => [(d.setWidth 8, fmtRegs fmt), (a, fmtRegs fmt)]
  | .fsqrt _ d a => [(d.setWidth 8, 1), (a, 1)]
  | .fsqrtExt _ d a fmt => [(d.setWidth 8, fmtRegs fmt), (a, fmtRegs fmt)]
  | .frnd _ d a => [(d.setWidth 8, 1), (a, 1)]
  | .frndExt _ d a fmt => [(d.setWidth 8, fmtRegs fmt), (a, fmtRegs fmt)]
  | .cvt _ d a fmt _ sfmt => [(d.setWidth 8, fmtRegs fmt), (a, fmtRegs sfmt)]
  | .cvtsc _ d a b fmt _ sfmt => [(d.setWidth 8, fmtRegs fmt), (a, fmtRegs sfmt), (b, 1)]
  | .pack _ d a b fmt _ => [(d.setWidth 8, 1), (a, fmtRegs fmt), (b, 1)]
  | .unpk _ d a fmt _ => [(d.setWidth 8, fmtRegs fmt), (a, 1)]
  | .idot4 _ d a b => [(d.setWidth 8, 1), (a, 1), (b, 1)]
  | .idot4Ext _ d a c _ b => [(d.setWidth 8, 1), (a, 1), (c, 1), (b, 1)]
  | .fdot2 _ d a b => [(d.setWidth 8, 1), (a, 1), (b, 1)]
  | .fdot2Ext _ d a c _ b => [(d.setWidth 8, 1), (a, 1), (c, 1), (b, 1)]
  | .shfl _ d a b => [(d.setWidth 8, 1), (a, 1), (b, 1)]
  | .shflExt _ d a c fmt b => [(d.setWidth 8, fmtRegs fmt), (a, fmtRegs fmt), (c, fmtRegs fmt), (b, 1)]
  | .shflup _ d a b => [(d.setWidth 8, 1), (a, 1), (b, 1)]
  | .shflupExt _ d a c fmt b => [(d.setWidth 8, fmtRegs fmt), (a, fmtRegs fmt), (c, fmtRegs fmt), (b, 1)]
  | .shfldn _ d a b => [(d.setWidth 8, 1), (a, 1), (b, 1)]
  | .shfldnExt _ d a c fmt b => [(d.setWidth 8, fmtRegs fmt), (a, fmtRegs fmt), (c, fmtRegs fmt), (b, 1)]
  | .shflx _ d a b => [(d.setWidth 8, 1), (a, 1), (b, 1)]
  | .shflxExt _ d a c fmt b => [(d.setWidth 8, fmtRegs fmt), (a, fmtRegs fmt), (c, fmtRegs fmt), (b, 1)]
  | .lred _ d a fmt _ => [(d.setWidth 8, fmtRegs fmt), (a, fmtRegs fmt)]
  | .lscan _ d a c fmt _ _ => [(d.setWidth 8, fmtRegs fmt), (a, fmtRegs fmt), (c, fmtRegs fmt)]
  | .vote _ d a _ => [(d.setWidth 8, 1), (a, 1)]
  | .bcast _ d a b c => [(d.setWidth 8, 1), (a, 1), (b, 1), (c, 1)]
  | .rvsend a n1 _ => [(a, n1.toNat + 1)]
  | .rvrecv d c n1 _ => [(d.setWidth 8, n1.toNat + 1), (c, 1)]
  | .xchgx d a n1 _ => [(d.setWidth 8, n1.toNat + 1), (a, n1.toNat + 1)]
  | .lnsadd _ d a b => [(d.setWidth 8, 1), (a, 1), (b, 1)]
  | .lnsmul _ d a b => [(d.setWidth 8, 1), (a, 1), (b, 1)]
  | .ld d a _ fmt _ _ _ => [(d.setWidth 8, fmtRegs fmt), (a, 2)]
  | .st a b _ fmt _ _ _ => [(a, 2), (b, fmtRegs fmt)]
  | .lds d a _ fmt _ _ _ => [(d.setWidth 8, fmtRegs fmt), (a, 1)]
  | .sts a b _ fmt _ _ _ => [(a, 1), (b, fmtRegs fmt)]
  | .atom d a b _ fmt _ _ aop _ => [(d.setWidth 8, aopRegs aop fmt), (a, 2), (b, aopRegs aop fmt)]
  | .red a b _ fmt _ _ aop _ => [(a, 2), (b, aopRegs aop fmt)]
  | .cas d a b c _ _ _ _ w64 _ => [(d.setWidth 8, w64.toNat + 1), (a, 2), (b, w64.toNat + 1), (c, w64.toNat + 1)]
  | .kvmap d a b c _ _ _ _ => [(d.setWidth 8, 2), (a, 1), (b, 1), (c, 1)]
  | .kvapp a b c _ _ _ => [(a, 2), (b, 1), (c, 1)]
  | .qadd d a b => [(d.setWidth 8, 4), (a, 4), (b, 4)]
  | .qsub d a b => [(d.setWidth 8, 4), (a, 4), (b, 4)]
  | .qmul d a b => [(d.setWidth 8, 4), (a, 4), (b, 4)]
  | .qdiv d a b => [(d.setWidth 8, 4), (a, 4), (b, 4)]
  | .qneg d a => [(d.setWidth 8, 4), (a, 4)]
  | .qenc d a b => [(d.setWidth 8, 4), (a, 2), (b, 2)]
  | .qdec d a => [(d.setWidth 8, 4), (a, 4)]
  | .sadd _ d a b => [(d.setWidth 8, 1), (a, 1), (b, 1)]
  | .ssub _ d a b => [(d.setWidth 8, 1), (a, 1), (b, 1)]
  | .smul _ d a b => [(d.setWidth 8, 1), (a, 1), (b, 1)]
  | .sand _ d a b => [(d.setWidth 8, 1), (a, 1), (b, 1)]
  | .sor _ d a b => [(d.setWidth 8, 1), (a, 1), (b, 1)]
  | .sxor _ d a b => [(d.setWidth 8, 1), (a, 1), (b, 1)]
  | .sshl _ d a b => [(d.setWidth 8, 1), (a, 1), (b, 1)]
  | .sshr _ d a b => [(d.setWidth 8, 1), (a, 1), (b, 1)]
  | .ssar _ d a b => [(d.setWidth 8, 1), (a, 1), (b, 1)]
  | .smin _ d a b => [(d.setWidth 8, 1), (a, 1), (b, 1)]
  | .smax _ d a b => [(d.setWidth 8, 1), (a, 1), (b, 1)]
  | .smov _ d a => [(d.setWidth 8, 1), (a, 1)]
  | .spopc _ d a => [(d.setWidth 8, 1), (a, 1)]
  | .sclz _ d a => [(d.setWidth 8, 1), (a, 1)]
  | .sffs _ d a => [(d.setWidth 8, 1), (a, 1)]
  | .saddi _ d _ => [(d.setWidth 8, 1)]
  | .smovi _ d _ => [(d.setWidth 8, 1)]
  | .smovl _ d _ => [(d.setWidth 8, 1)]
  | .smovh _ d _ => [(d.setWidth 8, 1)]
  | .scmp _ d a b _ => [(d.setWidth 8, 1), (a, 1), (b, 1)]
  | .mfs _ d _ => [(d.setWidth 8, 1)]
  | .mts d _ => [(d.setWidth 8, 1)]
  | .mvtcTo d a => [(d.setWidth 8, 1), (a, 1)]
  | .mvtcFrom _ d a => [(d.setWidth 8, 1), (a, 1)]
  | .bra _ => []
  | .call _ => [(0x7F#8, 1)]
  | .brz d _ => [(d.setWidth 8, 1)]
  | .brnz d _ => [(d.setWidth 8, 1)]
  | .brany d _ => [(d.setWidth 8, 1)]
  | .brall d _ => [(d.setWidth 8, 1)]
  | .brnone d _ => [(d.setWidth 8, 1)]
  | .loop d _ => [(d.setWidth 8, 1)]
  | .ret a => [(a, 1)]
  | .jmpr _ d a => [(d.setWidth 8, 1), (a, 1)]
  | .exmand a => [(a, 1)]
  | .exmset a => [(a, 1)]
  | .trap _ => []
  | .rep _ _ _ _ _ => []
  | .mcall _ _ _ => []
  | .elect _ d a => [(d.setWidth 8, 1), (a, 1)]
  | .bar _ _ _ => []
  | .bararv _ _ _ => []
  | .barwt _ _ _ => []
  | .fence _ _ _ => []
  | .sfence a _ _ => [(a, 1)]
  | .qfence d _ _ _ => [(d.setWidth 8, 1)]
  | .qpush a _ => [(a, 1)]
  | .qpop d _ => [(d.setWidth 8, 1)]
  | .evset a _ _ _ => [(a, 1)]
  | .evclr a _ _ _ => [(a, 1)]
  | .evwait a _ _ _ _ => [(a, 1)]
  | .acqtok _ => []
  | .reltok _ => []
  | .tld d a _ c _ _ _ _ _ _ => [(d.setWidth 8, 1), (a, 1), (c, 1)]
  | .tst d a _ c _ _ _ _ _ _ => [(d.setWidth 8, 1), (a, 1), (c, 1)]
  | .tzero _ _ => []
  | .mma _ _ _ => []
  | .mmas _ _ _ _ _ => []
  | .mmam _ _ _ _ => []
  | .accrd d a _ _ => [(d.setWidth 8, 4), (a, 1)]
  | .accwr a _ c _ => [(a, 1), (c, 4)]
  | .ttask d a _ _ _ _ => [(d.setWidth 8, 1), (a, 1)]
  | .tdesc d a c _ _ _ _ => [(d.setWidth 8, 1), (a, 1), (c, 1)]
  | .remap d a c _ _ _ _ => [(d.setWidth 8, 1), (a, 1), (c, 1)]
  | .cpy d a b c _ _ _ _ _ _ => [(d.setWidth 8, 1), (a, 1), (b, 1), (c, 1)]
  | .cpyTensor d a b c _ _ _ _ => [(d.setWidth 8, 1), (a, 1), (b, 1), (c, 1)]
  | .cpyacc d a b c _ _ _ _ _ _ _ => [(d.setWidth 8, 1), (a, 1), (b, 1), (c, 1)]
  | .cpydd d a b c _ _ _ _ _ => [(d.setWidth 8, 1), (a, 1), (b, 1), (c, 1)]
  | .gather d a _ _ _ _ _ _ => [(d.setWidth 8, 1), (a, 1)]
  | .mcast d a b c _ _ _ _ _ _ => [(d.setWidth 8, 1), (a, 1), (b, 1), (c, 1)]
  | .mcastTensor d a b c _ _ _ _ _ => [(d.setWidth 8, 1), (a, 1), (b, 1), (c, 1)]
  | .bwait _ _ _ => []
  | .crmerge d _ _ c _ _ _ _ _ => [(d.setWidth 8, 1), (c, 1)]
  | .crfin d _ _ c _ _ _ _ _ => [(d.setWidth 8, 1), (c, 1)]
  | .cvopen d a _ _ _ => [(d.setWidth 8, 1), (a, 1)]
  | .cvbind a _ _ _ _ _ => [(a, 1)]
  | .cvsend a b _ _ _ _ _ _ => [(a, 1), (b, 1)]
  | .cvrecv d a _ _ _ _ => [(d.setWidth 8, 1), (a, 1)]
  | .cvchoose _ _ _ _ _ => []
  | .cvdeleg _ _ _ _ _ _ => []
  | .cvclose _ _ _ _ => []
  | .ttclr a => [(a, 1)]
  | .ttadd d a b => [(d.setWidth 8, 1), (a, 1), (b, 1)]
  | .ttanc a _ => [(a, 1)]
  | .ttpos d a _ => [(d.setWidth 8, 1), (a, 1)]
  | .ttprune d a c => [(d.setWidth 8, 1), (a, 1), (c, 1)]
  | .instructionFetchFault _ => []
  | .chainAbandon _ => []
  | .chainResume _ => []
  | .pickerUrgent _ => []
  | .handlerInstructionLimit _ => []
  | .handlerWaitLimit _ => []
  | .crewInterruptDelivery _ => []
  | .teamRetire _ => []
  | .almanacSchedule _ _ _ => []
  | .slotBind _ => []
  | .slotRestore _ => []
  | .slotPreempt _ => []
  | .slotOpReserved _ => []
  | .forcedSaveExpiry _ => []
  | .saveComplete _ => []
  | .faultDomainEnd _ _ => []
  | .unitFence _ => []
  | .granuleService _ _ => []
  | .queueService _ => []
  | .barrierRelease _ _ => []
  | .rendezvousMatch _ _ => []
  | .xchgxPair _ _ => []
  | .remoteRequestArrive _ _ _ _ _ _ _ _ _ _ => []
  | .cowPath _ _ => []
  | .engineCommandStart _ _ => []
  | .engineCommandComplete _ _ => []
  | .matrixStep _ _ => []
  | .remapPass _ _ _ => []
  | .tileTaskDispatch _ _ => []
  | .taskDependencePoll _ _ => []
  | .tileTaskComplete _ _ => []
  | .cpyaccContribution _ _ => []
  | .mergeSessionMerge _ _ _ => []
  | .crfinComplete _ _ => []
  | .cpyddPageStep _ _ => []
  | .convHomeRequest _ => []
  | .convAccept _ => []
  | .convDeliver _ => []
  | .nop => []
  | .exit => []
  | .tret => []
  | .ckpt => []
  | .yield_ => []
  | .bclose => []
  | .evecWriteback _ => []
  | .slotHoldUpdate _ _ _ => []
  | .remoteReply _ _ _ => []
  | .requestLost _ => []
  | .leaseGrant _ _ _ => []
  | .leaseIdleRelease _ _ => []
  | .kick _ _ _ => []
  | .rctlWrite _ _ _ => []
  | .ringRecordRead _ _ _ => []
  | .ringStaleTimeout _ _ => []
  | .evdataRead _ _ => []
  | .hostBar2Read _ _ _ => []
  | .hostBar2Write _ _ _ _ => []
  | .invcmd _ => []
  | .invalidationDrainDone => []
  | .attcmd _ => []
  | .attestationReportDone => []
  | .rsvbase _ => []
  | .rsvtail _ => []
  | .fdcmd _ => []
  | .cirqcmd _ => []
  | .seclimitWrite _ _ _ _ _ => []
  | .eqtrig _ => []
  | .equinoxBufferDone => []
  | .vigilClr _ _ => []
  | .vigilSample _ _ => []
  | .registerWrite _ _ _ => []
  | .i3cHealthRead => []
  | .boot => []
  | .thermalTrip _ => []
  | .powerWindow _ => []
  | .linkReplay _ => []
  | .linkRetrain _ _ => []
  | .crossbarAging _ _ _ => []
  | .errorWindowEnd _ => []
  | .copyEngineError _ _ => []
  | .matrixEngineError _ => []
  | .loadResultReturn _ _ => []
  | .remoteAcknowledgement _ => []

/-- The instruction reads a latch (Table 7.4). -/
def Instr.readsLatch (i : Instr) : Bool := i.uses.any fun c => decide (0x80 ≤ c.1.toNat) && decide (c.1.toNat ≤ 0x87)

/-- The S registers that an instruction uses beside those it names: GATHER's three further ones (R284), the second of
CVRECV (R302), and those of an origin of n registers from S(k) on (R270, R283). -/
def Instr.moreS (i : Instr) (n : Nat) : List Nat :=
  match i with
  | .gather _ a _ _ _ _ _ _ => (List.range 4).map (a.toNat + ·)
  | .cvrecv d _ _ _ _ _ => [d.toNat + 1]
  | .tld _ a _ _ _ _ _ _ _ _ => (List.range n).map (a.toNat + ·)
  | .tst _ a _ _ _ _ _ _ _ _ => (List.range n).map (a.toNat + ·)
  | .cpyTensor _ _ _ c _ _ _ _ => if c == 0x88#8 then [] else (List.range n).map (c.toNat + ·)
  | _ => []

/-- The S registers that the instruction reads or writes, for an origin of n registers. -/
def Instr.sRegs (i : Instr) (n : Nat) : List Nat :=
  (i.uses.map (·.1.toNat) ++ i.moreS n).filterMap fun c => if 0x60 ≤ c ∧ c ≤ 0x7F then some (c - 0x60) else none

/-- The lane registers that the instruction reads or writes, by code. -/
def Instr.vRegs (i : Instr) : List Nat :=
  i.uses.flatMap fun c => if c.1.toNat < 0x60 then (List.range c.2).map (c.1.toNat + ·) else []

/-- The handle operand of a command with an origin (R270, R283). -/
def Instr.originHandle (i : Instr) : Option (BitVec 8) :=
  match i with
  | .tld _ _ _ c _ _ _ _ _ _ => some c
  | .tst _ _ _ c _ _ _ _ _ _ => some c
  | .cpyTensor _ a _ _ _ _ _ _ => some a
  | _ => none

/-- REMAP in register form reads and writes lane registers that its entry names (R97). -/
def Instr.isRemap (i : Instr) : Bool :=
  match i with
  | .remap .. => true
  | _ => false

end Sys2Proof
end

