-- ==== Sys2Proof/Machine/MemInstr.lean ====
section
/-! DEFINITION. LD, ST and the atomics on device memory (spec/10 R235 to R245): elements, checks of stage 4,
local loads and stores, which are issued here and performed later (Machine/Order.lean), atomics, remote requests and the
parking of their crew. -/
namespace Sys2Proof.Machine

/-! Elements (Table 10.2). -/

/-- Bytes of an element of a format in memory; none for the packed ones. L6 stands in one byte (R240). -/
def elemBytes (fmt : Nat) : Option Nat :=
  match fmt with
  | 0 => some 8
  | 1 | 13 => some 4
  | 2 | 3 | 11 | 12 => some 2
  | 4 | 5 | 7 | 8 | 10 | 14 | 15 => some 1
  | _ => none

/-- What a load's lane receives, with the flags of a converting load (R112). -/
def loadElem (fmt v : Nat) : Res :=
  match fmt with
  | 2 | 3 | 4 | 5 | 7 | 14 => cvtCode fmt 1 .rne v
  | 8 => { code := wrapInt 32 (signExt 8 v) }
  | 11 => { code := wrapInt 32 (signExt 16 v) }
  | _ => { code := v }

/-- What memory receives from a store's lane, with its flags: the store rounds by FPCR.RM and never stochastically. -/
def storeElem (fmt : Nat) (mode : Mode) (b : Nat) : Res :=
  match fmt with
  | 2 | 3 | 4 | 5 | 7 | 14 => cvtCode 1 fmt mode b
  | 8 | 10 | 11 | 12 => cvtCode 13 fmt mode b
  | 15 => { code := b % 256 }
  | _ => { code := b }

/-- A code that a memory address operand takes (R236). -/
def State.addrOk (s : State) (code : BitVec 8) : Bool :=
  if isV code then s.pairOk code else isS code || (latchOf code).isSome || code == 0x88#8

/-- EA of a lane (R236, R242). -/
def State.ea (s : State) (a : BitVec 8) (off : Int) (l : Nat) : Nat := wrapInt 64 ((s.pair a l).toNat + off)

/-! The checks of stage 4 (R236, R401). -/

/-- The next instruction of the crew reads a latch, so that this one, of n words, is not last in its chain (R47). -/
def State.chainGoesOn (s : State) (words : Nat) : Bool :=
  match (s.advance words).fetch with
  | .ok i => i.readsLatch
  | .error _ => false

/-- What an access asks for: its need, its bytes and alignment, whether it reads into registers (R418), and whether it
must be last in its chain (R47). -/
structure Access where
  need : Need
  n : Nat
  align : Nat := 1
  toReg : Bool := false
  last : Bool := false

/-- The parts of one lane's access, or the rank of its first failing check. -/
def State.laneCheck (s : State) (x : Access) (ea : Nat) : Except Nat (List Piece) :=
  if ea % x.align ≠ 0 then .error 0
  else
    match s.check x.need ea x.n with
    | .error r => .error r
    | .ok ps =>
      if x.toReg && s.piecesPoisoned ps then .error 5
      else if x.last && anyRemote ps then .error 6
      else .ok ps

/-- The trap of the first failing check over the lanes: its lanes and the address of the lowest of them (R236, R390). -/
def stage4 (fails : List (Nat × Nat × Nat)) : Option Trap :=
  match fails with
  | [] => none
  | f :: fs =>
    let r := fs.foldl (fun m g => min m g.2.2) f.2.2
    let ls := fails.filter fun g => g.2.2 == r
    some { code := codeOfRank r, lanes := maskOf (ls.map (·.1)), addr := dw ((ls.map (·.2.1)).headD 0) }

/-- Every lane of an access checked: the lanes with their address and parts, or the trap. -/
def State.laneChecks (s : State) (x : Access) (ea : Nat → Nat) : Except Trap (List (Nat × Nat × List Piece)) :=
  let rs := s.active.map fun l => (l, ea l, s.laneCheck x (ea l))
  let fails := rs.filterMap fun r => match r.2.2 with
    | .error e => some (r.1, r.2.1, e)
    | .ok _ => none
  match stage4 fails with
  | some t => .error t
  | none => .ok (rs.filterMap fun r => match r.2.2 with
    | .ok ps => some (r.1, r.2.1, ps)
    | .error _ => none)

/-- The checked parts of all lanes. -/
def allPieces (acc : List (Nat × Nat × List Piece)) : List Piece := acc.flatMap (·.2.2)

/-! Remote accesses (R244, R362, R364). -/

/-- The plane of a request (R362), or the next one up when it is down (R428). -/
def State.planeOf (s : State) (va dev : Nat) : Nat :=
  let p := field va 6 6 ^^^ dev % 64
  let down := s.reg 0 0x6020
  (((List.range 64).map fun j => (p + j) % 64).find? (fun q => !down.getLsbD q)).getD p

/-- A request of the current crew to the device of a part's page. -/
def State.request (s : State) (kind lane strm : Nat) (aop : BitVec 5) (fmt : BitVec 4) (data data2 : Nat) (p : Piece) : FabReq :=
  let dev := pteDev p.page.pte
  { kind := kind, dev := dev, rctx := pteRctx p.page.pte, sec := s.team.sec, va := dw p.va, size := p.n, aop := aop
    fmt := fmt, data := dw (data / 2 ^ (8 * p.off) % 2 ^ (8 * p.n)), data2 := dw data2, crew := s.cur, lane := lane
    plane := s.planeOf p.va dev, so := pteOrd p.page.pte == 1, strm := strm, part := p.off }

/-- Send requests into the fabric; the state and the numbers they got. -/
def State.send (s : State) (rs : List FabReq) : State × List Nat :=
  rs.foldl (fun a r => ({ a.1 with fabric := insert a.1.fabric a.1.nextReq r, nextReq := a.1.nextReq + 1 }, a.2 ++ [a.1.nextReq]))
    (s, [])

/-- The parts of an instruction's accesses, lane by lane, with the operation of each lane and its element or operand: those here, and
those to REMOTE pages with their requests, a misaligned one byte by byte where it comes back to this device (R325). -/
def State.laneAccs (s : State) (x : Acc) (kind n : Nat) (strm : BitVec 4) (aop : BitVec 5) (fmt : BitVec 4) (op : Nat → AccOp)
    (v data data2 : Nat → Nat) (acc : List (Nat × Nat × List Piece)) : List Acc :=
  markFull (numbered s.nextReq (acc.flatMap fun y => y.2.2.flatMap fun p =>
    let xl := { x with op := op y.1 }
    if pteRemote p.page.pte then
      let r := s.request kind y.1 strm.toNat aop fmt (data y.1) (data2 y.1) p
      [s.farPart xl y.1 (v y.1) p { r with bytes := if y.2.1 % n = 0 then [] else List.range p.n }]
    else xl.parts y.1 (y.2.1 % n == 0) (v y.1) p))

/-- The parts that are performed here without the fabric. -/
def localParts (as : List Acc) : Nat := (as.filter fun a => !a.far).length

/-- Park the crew (R46) for the replies of its requests and its parts here: the latches are lost, and the continuation is kept. -/
def State.park (s : State) (d : BitVec 7) (pair load : Bool) (fmt : BitVec 4) (as : List Acc) : State × Block :=
  let c := s.crew
  (s.setCrew c.clearChain,
   .parked { d := d.toNat, pair := pair, fmt := fmt.toNat, load := load, lanes := s.actMask, next := c.pc + 8, at_ := c.pc
             wait := as.filterMap fun a => a.req.map fun q => (a.lane, q)
             data := [], refused := [], since := s.clock, seq := s.fresh, left := localParts as })

/-- The accesses of an instruction that returns values are issued (R313): its parts join the crew's list; where some are remote the crew
is parked (R244), else the result in the lane register of a code waits for them. -/
def State.issueRead (s : State) (d : BitVec 7) (pair load : Bool) (fmt : BitVec 4) (ls : List Nat) (as : List Acc) : Effect :=
  let s1 := s.pendAll as
  if as.any (·.far) then
    let (s2, b) := s1.park d pair load fmt as
    .wait s2 b
  else
    .done (s1.setCrew { s1.crew with loads := s1.crew.loads ++ [{
      reg := vIndex s1.crew d.toNat, pair := pair, data := ls.map fun l => (l, 0#64)
      fmt := if load then fmt.toNat else 13, seq := s.fresh, left := as.length }] })

/-! LD and ST (R237 to R239). -/

/-- A load's result stands ready to be returned into the lane register of a code (LOAD_RESULT_RETURN). -/
def State.pendLoad (s : State) (d : BitVec 7) (pair : Bool) (data : List (Nat × DWord)) : State :=
  s.setCrew { s.crew with loads := s.crew.loads ++ [{ reg := vIndex s.crew d.toNat, pair := pair, data := data }] }

/-- A read that would meet poison waits for the crew's stores that are not performed: they may clear the marker (R418). -/
def State.badWaits (s : State) (t : Trap) : Bool :=
  t.code == 6 && s.crew.pend.any fun p => match p with
    | .acc a => a.wr && a.dev.isNone
    | .fence _ _ _ => false

/-- LD. -/
def execLd (d : BitVec 7) (a : BitVec 8) (strm fmt : BitVec 4) (scope : BitVec 3) (ord : BitVec 2) (imm : BitVec 11)
    (s : State) : Out :=
  let wide := fmt == 0#4
  perform { srcs := [a]
            ok := (elemBytes fmt.toNat).isSome && fmt != 7#4 && s.dstOk wide d && s.addrOk a && ordOk [0, 1] ord && scopeOk scope }
    s fun s =>
    let n := (elemBytes fmt.toNat).getD 1
    if s.active.isEmpty then .done s
    else
      match s.laneChecks { need := { r := true }, n := n, toReg := true, last := s.chainGoesOn 2 } (s.ea a imm.toInt) with
      | .error t => if s.badWaits t then .unready else .trap t
      | .ok acc =>
        let none_ (_ : Nat) : Nat := 0
        let as := s.laneAccs (s.accOf true false strm scope ord) 3 n strm 0 fmt (fun _ => .plain) none_ none_ none_ acc
        (s.keepWalks (acc.map (·.2.1))).issueRead d wide true fmt (acc.map (·.1)) as

/-- The wait of a write that meets COW (R70): the lowest such page by lane, with the lanes that touch it and the first address
there of the lowest of them. -/
def State.cowBlock (_s : State) (acc : List (Nat × Nat × List Piece)) : Option Block :=
  match cowAt (allPieces acc) with
  | none => none
  | some va =>
    let on (x : Nat × Nat × List Piece) : Option Piece := x.2.2.find? fun p => p.va / 4096 == va / 4096
    let hit := acc.filter fun x => (on x).isSome
    some (.cow (va / 4096 * 4096) (maskOf (hit.map (·.1))) (((hit.head?.bind on).map (·.va)).getD va))

/-- ST. -/
def execSt (a b : BitVec 8) (strm fmt : BitVec 4) (scope : BitVec 3) (ord : BitVec 2) (imm : BitVec 11) (s : State) : Out :=
  let wide := fmt == 0#4
  perform { srcs := [a, b], ends := true
            ok := (elemBytes fmt.toNat).isSome && fmt != 7#4 && s.srcOk wide b && s.addrOk a && ordOk [0, 2] ord && scopeOk scope }
    s fun s =>
    let n := (elemBytes fmt.toNat).getD 1
    if s.active.isEmpty then .done s
    else
      match s.laneChecks { need := { w := true }, n := n } (s.ea a imm.toInt) with
      | .error t => .trap t
      | .ok acc =>
        match s.cowBlock acc with
        | some b => .wait s b
        | none =>
          let v (l : Nat) : Res := storeElem fmt.toNat s.crew.mode (s.laneW wide b l).toNat
          let code (l : Nat) : Nat := (v l).code
          let as := s.laneAccs (s.accOf false true strm scope ord) 0 n strm 0 fmt (fun _ => .plain) code code (fun _ => 0) acc
          .done (((s.keepWalks (acc.map (·.2.1))).pendAll as).orFpsr (s.active.foldl (fun f l => f ||| (v l).fl) 0))

/-! Atomics (R242, R243). -/

/-- The operations of AOP that are floating. -/
def aopFloat (aop : Nat) : Bool := decide (9 ≤ aop) && decide (aop ≤ 13)

/-- AOP is not reserved and FMT is allowed for it (Table 10.4). -/
def aopOk (aop fmt : Nat) : Bool :=
  if aopFloat aop then decide (fmt ≤ 3) else decide (aop ≤ 8 ∨ 16 ≤ aop ∧ aop ≤ 24) && fmt == 13

/-- sz of an atomic (Table 10.4). -/
def aopSize (aop fmt : Nat) : Nat := if aopFloat aop then (if fmt = 0 then 8 else 4) else if aop < 16 then 4 else 8

/-- An integer operation on n bits. -/
def intAtom (k n old b : Nat) : Nat :=
  match k with
  | 0 => (old + b) % 2 ^ n
  | 1 => if signExt n old ≤ signExt n b then old else b
  | 2 => if signExt n old ≤ signExt n b then b else old
  | 3 => min old b
  | 4 => max old b
  | 5 => old &&& b
  | 6 => old ||| b
  | 7 => old ^^^ b
  | _ => b

/-- A floating operation in one format. -/
def floatAtom (aop fmt old b : Nat) : Nat :=
  match aop with
  | 9 => (fAdd fmt .rne old b).code
  | 10 => (fminmax fmt false false old b).code
  | 11 => (fminmax fmt true false old b).code
  | 12 => (fminmax fmt false true old b).code
  | _ => (fminmax fmt true true old b).code

/-- new of Table 10.4: BF16 and F16 act on each half. -/
def atomNew (aop fmt old b : Nat) : Nat :=
  if aopFloat aop then
    if fmt = 2 ∨ fmt = 3 then
      floatAtom aop fmt (field old 0 16) (field b 0 16) + 65536 * floatAtom aop fmt (field old 16 16) (field b 16 16)
    else floatAtom aop fmt old b
  else intAtom (aop % 16) (if aop < 16 then 32 else 64) old b

/-- An atomic's step on local parts (R72): the state after and the old value. -/
def State.atomStep (s : State) (ps : List Piece) (new : Nat → Option Nat) : State × Nat :=
  let old := s.readPieces ps
  match new old with
  | some v => (s.writePieces ps v, old)
  | none => (s, old)

/-- ATOM, CAS and RED on the lanes: kind 4, 5 or 1 of a request, and the operation of each lane with its operand in v and what its
request carries. Each lane's step is an access of its own, performed later (R243, R311). -/
def atomBody (kind : Nat) (d : BitVec 7) (a : BitVec 8) (strm fmt : BitVec 4) (aop : BitVec 5) (scope : BitVec 3) (ord : BitVec 2)
    (sz : Nat) (off : BitVec 6) (op : Nat → AccOp) (v data data2 : Nat → Nat) (s : State) : Effect :=
  let ret := kind != 1
  if s.active.isEmpty then .done s
  else
    match s.laneChecks { need := { r := true, w := true }, n := sz, align := sz, toReg := ret, last := ret && s.chainGoesOn 2 }
      (s.ea a (off.toInt * sz)) with
    | .error t => if s.badWaits t then .unready else .trap t
    | .ok acc =>
      match s.cowBlock acc with
      | some b => .wait s b
      | none =>
        let as := s.laneAccs (s.accOf ret true strm scope ord) kind sz strm aop fmt op v data data2 acc
        let s1 := s.keepWalks (acc.map (·.2.1))
        if ret then s1.issueRead d (sz == 8) false fmt (acc.map (·.1)) as else .done (s1.pendAll as)

/-- ATOM. -/
def execAtom (d : BitVec 7) (a b : BitVec 8) (strm fmt : BitVec 4) (scope : BitVec 3) (ord : BitVec 2) (aop : BitVec 5)
    (off : BitVec 6) (s : State) : Out :=
  let sz := aopSize aop.toNat fmt.toNat
  let wide := sz == 8
  perform { srcs := [a, b], ends := true
            ok := aopOk aop.toNat fmt.toNat && s.dstOk wide d && s.addrOk a && s.srcOk wide b && ordOk [0, 1, 2, 3] ord && scopeOk scope }
    s fun s =>
    let bv (l : Nat) : Nat := (s.laneW wide b l).toNat
    atomBody 4 d a strm fmt aop scope ord sz off (fun _ => .atom aop.toNat fmt.toNat) bv bv (fun _ => 0) s

/-- RED. -/
def execRed (a b : BitVec 8) (strm fmt : BitVec 4) (scope : BitVec 3) (ord : BitVec 2) (aop : BitVec 5) (off : BitVec 6)
    (s : State) : Out :=
  let sz := aopSize aop.toNat fmt.toNat
  let wide := sz == 8
  perform { srcs := [a, b], ends := true
            ok := aopOk aop.toNat fmt.toNat && aop != 8#5 && aop != 24#5 && s.addrOk a && s.srcOk wide b && ordOk [0, 2] ord &&
              scopeOk scope } s fun s =>
    let bv (l : Nat) : Nat := (s.laneW wide b l).toNat
    atomBody 1 0 a strm fmt aop scope ord sz off (fun _ => .atom aop.toNat fmt.toNat) bv bv (fun _ => 0) s

/-- CAS. -/
def execCas (d : BitVec 7) (a b c : BitVec 8) (strm fmt : BitVec 4) (scope : BitVec 3) (ord : BitVec 2) (w64 : BitVec 1)
    (off : BitVec 6) (s : State) : Out :=
  let wide := w64 == 1#1
  let sz := if wide then 8 else 4
  perform { srcs := [a, b, c], ends := true
            ok := fmt == 13#4 && s.dstOk wide d && s.addrOk a && s.srcOk wide b && s.srcOk wide c && ordOk [0, 1, 2, 3] ord &&
              scopeOk scope } s fun s =>
    let bv (l : Nat) : Nat := (s.laneW wide b l).toNat
    let cv (l : Nat) : Nat := (s.laneW wide c l).toNat
    atomBody 5 d a strm fmt 0 scope ord sz off (fun l => .cas (bv l)) cv bv cv s

/-! Results returned (R238). -/

/-- Write values into the lane register at a place (R388: the place is that of the load's issue). -/
def Crew.writePlace (c : Crew) (reg : Nat) (pair : Bool) (data : List (Nat × DWord)) : Crew :=
  { c with v := data.foldl (fun v x =>
      let v1 := fset 0 v (32 * reg + x.1) (x.2.setWidth 32)
      if pair then fset 0 v1 (32 * (reg + 1) + x.1) (x.2.extractLsb' 32 32) else v1) c.v }

/-- The values of a load by lane, converted from the format in memory (R112). -/
def PendingLoad.values (x : PendingLoad) : List (Nat × Res) := x.data.map fun d => (d.1, loadElem x.fmt d.2.toNat)

/-- LOAD_RESULT_RETURN (R238): the oldest load into the register at a place has been read whole, and writes it. -/
def execLoadResultReturn (crew reg : Nat) (s : State) : Out :=
  let c := s.crewAt crew
  match c.loads.find? (fun x => x.reg == reg && x.left == 0) with
  | none => .refused (.notEnabled "LOAD_RESULT_RETURN")
  | some x =>
    let c1 := c.writePlace reg x.pair (x.values.map fun v => (v.1, dw v.2.code))
    .next (s.setCrewAt crew { c1 with
      fpsr := c1.fpsr ||| dw (x.values.foldl (fun f v => f ||| v.2.fl) 0), loads := c1.loads.erase x })

end Sys2Proof.Machine
end

