-- ==== Sys2Proof/Machine/EngineBase.lean ====
section
/-! DEFINITION. Engine queues, status words, batches and accumulator tokens (spec/10 R248, spec/11 R262 to R269). -/
namespace Sys2Proof.Machine

/-- The opcode of a first word, with the set bit. -/
def opOf (w : Word) : Nat := field w.toNat 24 8
def fieldD (w : Word) : Nat := field w.toNat 16 7
def fieldA (w : Word) : Nat := field w.toNat 8 8
def fieldB (w : Word) : Nat := field w.toNat 0 8

/-! Status words (Table 11.2). -/

def status (code cause bytes : Nat) : DWord := dw (code * 2 ^ 56 + cause * 2 ^ 48 + bytes % 2 ^ 48)
def stDone (bytes : Nat) : DWord := status 1 0 bytes
def stPartial (bytes : Nat) : DWord := status 2 0x08 bytes
def stFault (cause bytes : Nat) : DWord := status 3 cause bytes

/-- The cause of a failing check, by its rank (Table 11.3). -/
def causeOfRank (r : Nat) : Nat :=
  match r with
  | 0 => 0x06
  | 1 => 0x05
  | 2 => 0x01
  | 3 => 0x02
  | 4 => 0x02
  | _ => 0x03

/-! Tiles and accumulators that an operation names (R262). -/

/-- FMT, ROWSM1 + 1 and bytes per row of a TC value (Table 9.5). -/
def tcFmt (tc : DWord) : Nat := field tc.toNat 0 4
def tcRows (tc : DWord) : Nat := field tc.toNat 8 6 + 1
def tcRowBytes (tc : DWord) : Nat := 16 * (field tc.toNat 16 4 + 1)

/-- The tiles and accumulators that an operation reads and writes; accumulator j stands as 16 + j. -/
structure Foot where
  reads : List Nat := []
  writes : List Nat := []
deriving DecidableEq, Repr

/-- The accumulators of a matrix operation: a pair for F64 (R273). -/
def accsOf (d : Nat) (tcs : List DWord) : List Nat := if tcFmt (tcs.headD 0) = 0 then [16 + d, 17 + d] else [16 + d]

/-- The footprint of an operation or command from its words and captured control registers. -/
def footprint (w e : Word) (tcs : List DWord) : Foot :=
  let acc := accsOf (fieldD w) tcs
  match opOf w with
  | 0xD0 => { writes := [fieldB w] }
  | 0xD1 => { reads := [fieldB w] }
  | 0xD2 => { writes := if field e.toNat 0 1 = 1 then [16 + fieldD w] else [fieldD w] }
  | 0xD3 => { reads := [fieldA w, fieldB w] ++ acc, writes := acc }
  | 0xD4 => { reads := [fieldA w, fieldB w, field e.toNat 0 4, field e.toNat 4 4] ++ acc, writes := acc }
  | 0xD5 => { reads := [fieldA w, fieldB w, field e.toNat 0 4] ++ acc, writes := acc }
  | 0xE7 => { reads := [16 + fieldA w, fieldB w] }
  | 0xE8 => { writes := [16 + fieldA w, fieldB w] }
  | _ => {}

/-- A later operation must wait for an earlier one (R262). -/
def conflicts (earlier later : Foot) : Bool :=
  later.reads.any (fun x => earlier.writes.contains x) ||
    later.writes.any (fun x => earlier.writes.contains x || earlier.reads.contains x)

def MatOp.foot (m : MatOp) : Foot := footprint m.w m.e m.tcs
def Cmd.foot (c : Cmd) : Foot := footprint c.w c.e c.tcs

/-- All commands in a team's queues. -/
def Team.cmds (t : Team) : List Cmd := t.queues.flatMap (·.2)
def Team.queue (t : Team) (q : Nat) : List Cmd := (lookup t.queues q).getD []
def Team.setQueue (t : Team) (q : Nat) (cs : List Cmd) : Team := { t with queues := fset [] t.queues q cs }

/-- No operation that the team issued before a number stands in the way of a footprint. -/
def Team.clear (t : Team) (issue : Nat) (f : Foot) : Bool :=
  t.matrix.all (fun m => decide (issue ≤ m.issue) || !conflicts m.foot f) &&
    t.cmds.all (fun c => decide (issue ≤ c.issue) || !conflicts c.foot f)

/-- An operation that was issued before a number and is not complete names an accumulator. -/
def Team.accNamed (t : Team) (n issue : Nat) : Bool :=
  let names (f : Foot) : Bool := f.reads.contains (16 + n) || f.writes.contains (16 + n)
  t.matrix.any (fun m => decide (m.issue < issue) && names m.foot) || t.cmds.any (fun c => decide (c.issue < issue) && names c.foot)

/-! Tokens (R263). -/

/-- The matrix unit holds the token of accumulator n. -/
def Team.unitHolds (t : Team) (n : Nat) : Bool := t.tokhold.getLsbD n
def Team.setToken (t : Team) (n : Nat) (unit : Bool) : Team :=
  { t with tokhold := if unit then t.tokhold ||| BitVec.ofNat 8 (2 ^ n) else t.tokhold &&& ~~~BitVec.ofNat 8 (2 ^ n) }

/-- The accumulator-token trap. -/
def State.tokenTrap (s : State) : Trap := { code := 0x09, lanes := s.actMask }

/-- RELTOK: a release at TEAM scope (Table 13.3). -/
def execReltok (b : BitVec 8) (s : State) : Out :=
  perform { ends := true, words := 1, ok := s.accOk b.toNat } s fun s =>
    match s.ordered 2#2 1#3 with
    | none => .unready
    | some s => .done (s.setTeam (s.team.setToken b.toNat true))

/-- ACQTOK: at once when the crews hold it or nothing issued names it; otherwise the crew waits. -/
def execAcqtok (b : BitVec 8) (s : State) : Out :=
  perform { ends := true, words := 1, ok := s.accOk b.toNat } s fun s =>
    if s.team.unitHolds b.toNat && s.team.accNamed b.toNat s.team.issues then .wait s (.acqtok b.toNat s.team.issues)
    else .done (s.setTeam (s.team.setToken b.toNat false))

/-- The crews of a team slot. -/
def State.crewsOf (s : State) (slot : Nat) : List Nat := (List.range (s.teamAt slot).ncrew).map (16 * slot + ·)

/-- Crews whose ACQTOK or BWAIT has come true go on, after an operation of the team of a slot has completed. -/
def State.wakeTeam (s : State) (slot : Nat) : State :=
  (s.crewsOf slot).foldl (fun s k =>
    match (s.crewAt k).block with
    | some (.acqtok n issue) =>
      if (s.teamAt slot).accNamed n issue then s
      else ((((s.setTeamAt slot ((s.teamAt slot).setToken n false)).at_ k).unblock 1)).at_ s.cur
    | some (.bwait n) =>
      if (s.teamAt slot).outstanding.length ≤ n then ((s.at_ k).unblock 2).at_ s.cur else s
    | _ => s) s

/-! Batches (R269). -/

/-- The closed batches that still have a command in a queue. -/
def Team.trimBatches (t : Team) : Team :=
  { t with outstanding := t.outstanding.filter fun b => t.cmds.any fun c => c.batch == b }

/-- Close the open batch, if it holds a command. -/
def Team.closeBatch (t : Team) : Team :=
  if t.batchCmds = 0 then t
  else ({ t with outstanding := t.outstanding ++ [t.batch], batch := t.batch + 1, batchCmds := 0 } : Team).trimBatches

/-- Closing would make a 65th outstanding batch. -/
def Team.batchesFull (t : Team) : Bool := decide (64 < t.closeBatch.outstanding.length)

/-- BCLOSE. -/
def execBclose (s : State) : Out :=
  perform { ends := true } s fun s =>
    if s.team.batchesFull then .unready else .done (s.setTeam s.team.closeBatch)

/-- BWAIT; a batch closed before a save is not closed again (R414). -/
def execBwait (scope : BitVec 3) (ord : BitVec 2) (n : BitVec 8) (s : State) : Out :=
  perform { ends := true, ok := scopeOk scope && ordOk [0, 1] ord } s fun s =>
    if s.team.batchesFull && !s.crew.reissue then .unready
    else
      let s1 := if s.crew.reissue then s else s.setTeam s.team.closeBatch
      if s1.team.outstanding.length ≤ n.toNat then .done s1 else .wait s1 (.bwait n.toNat)

/-! Issue and completion of commands (R264 to R266). -/

/-- A queue of a team is full. -/
def Team.queueFull (t : Team) (q : Nat) : Bool := decide (32 ≤ (t.queue q).length)

/-- A release fence of a crew of the team holds its later commands back (R247). -/
def State.teamHeld (s : State) (slot : Nat) : Bool :=
  (s.crewsOf slot).any fun k => fenceHolds (s.crewAt k).pend

/-- Put a command into queues of the current crew's team; D becomes pending. -/
def State.enqueue (s : State) (qs : List Nat) (c : Cmd) : State :=
  let t := s.team
  let c := { c with batch := t.batch, issue := t.issues }
  let t1 := qs.foldl (fun t q => t.setQueue q (t.queue q ++ [c])) { t with issues := t.issues + 1, batchCmds := t.batchCmds + 1 }
  let s1 := s.setTeam t1
  s1.setCrew { s1.crew with pendS := s1.crew.pendS ++ [c.d] }

/-- The command of the current crew from its words. -/
def State.command (s : State) (ws : List Word) (d : BitVec 7) (ops tcs : List DWord) : Cmd :=
  { w := ws.headD 0, e := (ws.drop 1).headD 0, ops := ops, tcs := tcs, crew := s.cur, d := sIndex s.crew (sNum d) }

/-- The issue of an engine command: not ready while its queue is full (R264) or earlier accesses that its release part
orders are outstanding (R266). -/
def State.issueCmd (s : State) (scope : BitVec 3) (ord : BitVec 2) (qs : List Nat) (c : Cmd) : Effect :=
  if qs.any (fun q => s.team.queueFull q) || s.teamHeld (slotOf s.cur) then .unready
  else
    match s.ordered ord scope with
    | none => .unready
    | some s => .done (s.enqueue qs c)

/-- A write of the head command of a queue to another device has not been acknowledged (R366). -/
def State.queueOutstanding (s : State) (slot q : Nat) : Bool :=
  s.fabric.any fun r => (r.2.kind == 2 || r.2.kind == 6) && slotOf r.2.crew == slot && r.2.lane == q

/-- A status word is written: D of the issuing crew, which stops being pending (R264). -/
def State.writeStatus (s : State) (c : Cmd) (st : DWord) : State :=
  let k := s.crewAt c.crew
  if !k.pendS.contains c.d then s
  else s.setCrewAt c.crew { k with sr := fset 0 k.sr c.d st, pendS := k.pendS.erase c.d }

/-- The head command of a queue is complete. -/
def State.finishCmd (s : State) (slot q : Nat) (c : Cmd) (st : DWord) : State :=
  let t := s.teamAt slot
  let s1 := s.setTeamAt slot (t.setQueue q ((t.queue q).drop 1)).trimBatches
  (if c.told then s1 else s1.writeStatus c st).wakeTeam slot

/-- Replace the head command of a queue. -/
def State.setHead (s : State) (slot q : Nat) (c : Cmd) : State :=
  let t := s.teamAt slot
  s.setTeamAt slot (t.setQueue q (c :: (t.queue q).drop 1))

/-! QFENCE (R248). -/

/-- The queues of a mask. -/
def maskQueues (m : Nat) : List Nat := (List.range 8).filter fun q => m / 2 ^ q % 2 == 1

/-- QFENCE. -/
def execQfence (d : BitVec 7) (scope : BitVec 3) (ord : BitVec 2) (qmask : BitVec 8) (s : State) : Out :=
  perform { ends := true, ok := dS d && scopeOk scope } s fun s =>
    if qmask = 0 then .done (s.setCrew (s.crew.setS (sNum d) (stDone 0)))
    else s.issueCmd scope ord (maskQueues qmask.toNat) (s.command (encode (.qfence d scope ord qmask)) d [] [])

/-- A QFENCE is complete when its entry stands at the head of every queue it names. -/
def State.joinDone (s : State) (slot : Nat) (c : Cmd) : Bool :=
  (maskQueues (field c.e.toNat 0 8)).all fun q =>
    match (s.teamAt slot).queue q with
    | h :: _ => h.issue == c.issue
    | [] => false

/-- The join's entries leave the queues and D is written. -/
def State.finishJoin (s : State) (slot : Nat) (c : Cmd) : State :=
  let t := (maskQueues (field c.e.toNat 0 8)).foldl (fun (t : Team) q => t.setQueue q ((t.queue q).drop 1)) (s.teamAt slot)
  ((s.setTeamAt slot t.trimBatches).writeStatus c (stDone 0)).wakeTeam slot

end Sys2Proof.Machine
end

