-- ==== Sys2Proof/Machine/Tensor.lean ====
section
/-! DEFINITION. Tensors (spec/04): the table entry and its checks (R80 to R82), the place of an element (R83 to R85),
matrices over GF(2) and the passes of REMAP (R86 to R88), and the accesses of engines to parts and memory (R268, R366). -/
namespace Sys2Proof.Machine

/-! Matrices over GF(2) as lists of rows. -/

/-- The parity of the bits of a 48-bit number. -/
def parity (v : Nat) : Nat := popc v 48 % 2

/-- Place(i) (R83). -/
def applyRows (rows : List Nat) (i : Nat) : Nat :=
  (List.range rows.length).foldl (fun p j => p + parity ((rows.getD j 0) &&& i) * 2 ^ j) 0

/-- The XOR of the rows of b that a mask names. -/
def combine (b : List Nat) (mask : Nat) : Nat :=
  (List.range b.length).foldl (fun v c => if mask.testBit c then v ^^^ b.getD c 0 else v) 0

/-- The product of two matrices. -/
def matMul (a b : List Nat) : List Nat := a.map (combine b)

def identityRows (n : Nat) : List Nat := (List.range n).map (2 ^ ·)

/-- Clear a column but for its pivot, in a matrix and its companion. -/
def clearCol (m : List (Nat × Nat)) (c : Nat) : Option (List (Nat × Nat)) :=
  match (m.drop c).findIdx? (fun r => r.1.testBit c) with
  | none => none
  | some k =>
    let pivot := m.getD (c + k) (0, 0)
    let m1 := (m.set (c + k) (m.getD c (0, 0))).set c pivot
    some ((List.range m1.length).map fun r =>
      let row := m1.getD r (0, 0)
      if r ≠ c ∧ row.1.testBit c then (row.1 ^^^ pivot.1, row.2 ^^^ pivot.2) else row)

/-- The inverse of a matrix of n rows; none when it is singular. -/
def inverse (n : Nat) (rows : List Nat) : Option (List Nat) :=
  ((List.range n).foldlM clearCol ((List.range n).map fun r => (rows.getD r 0 % 2 ^ n, 2 ^ r))).map fun m => m.map (·.2)

/-- X[x] := X[x] XOR X[y]. -/
def addRow (X : List Nat) (x y : Nat) : List Nat := X.set x (X.getD x 0 ^^^ X.getD y 0)

/-- X[x][c] = 1. -/
def bitAt (X : List Nat) (x c : Nat) : Bool := (X.getD x 0).testBit c

/-- Clear the columns cs of row x by their pivots (R87). -/
def reduceRow (cs : List Nat) (X : List Nat) (x : Nat) : List Nat :=
  cs.foldl (fun X c => if bitAt X x c then addRow X x c else X) X

/-- A helper row reduced by the pivots of the columns cs (R87). -/
def helperRow (X : List Nat) (cs : List Nat) (h : Nat) : Nat :=
  cs.foldl (fun v c => if v.testBit c then v ^^^ X.getD c 0 else v) (X.getD h 0)

/-- Make row c of field f the pivot of column c: from a row of f above it, or from a helper row (R87). -/
def pivotFor (below own above : List Nat) (X : List Nat) (c : Nat) : List Nat :=
  if bitAt X c c then X
  else
    match own.find? fun y => decide (c < y) && bitAt X y c with
    | some y => addRow X c y
    | none =>
      let cs := below ++ own.filter (· < c)
      match above.find? fun h => (helperRow X cs h).testBit c with
      | some h => X.set c (X.getD c 0 ^^^ helperRow X cs h)
      | none => X

/-- The forward step of a field whose columns are own (R87). -/
def forwardStep (below own above : List Nat) (X : List Nat) : List Nat :=
  own.foldl (fun X c =>
    let X1 := pivotFor below own above X c
    own.foldl (fun X y => if y ≠ c ∧ bitAt X y c then addRow X y c else X) X1) (own.foldl (reduceRow below) X)

/-- The columns of the fields of widths ws. -/
def fieldCols (ws : List Nat) : List (List Nat) :=
  (List.range ws.length).map fun f => (List.range (ws.getD f 0)).map (· + (ws.take f).sum)

/-- A field is touched by a matrix: its block row or block column differs from the identity (R87). -/
def touches (n : Nat) (M : List Nat) (cols : List Nat) : Bool :=
  cols.any fun r => M.getD r 0 != 2 ^ r || (List.range n).any fun y => y != r && bitAt M y r

/-- A step that changed X forms a pass (R86, R87). -/
def formPass (n : Nat) (before after : List Nat) : List (List Nat) :=
  if before = after then []
  else
    match inverse n before with
    | some b => [matMul after b]
    | none => []

/-- The passes that reduce N = M⁻¹ to the identity (R87). -/
def passesOf (ws : List Nat) (M N : List Nat) : List (List Nat) :=
  let n := ws.sum
  let fs := (fieldCols ws).filter (touches n M)
  let m := fs.length
  let forward := (List.range m).foldl (fun (a : List Nat × List (List Nat)) k =>
    let X := forwardStep (fs.take k).flatten (fs.getD k []) (fs.drop (k + 1)).flatten a.1
    (X, a.2 ++ formPass n a.1 X)) (N, [])
  ((List.range (m - 1)).foldl (fun (a : List Nat × List (List Nat)) j =>
    let k := m - 2 - j
    let X := (fs.getD k []).foldl (reduceRow (fs.drop (k + 1)).flatten) a.1
    (X, a.2 ++ formPass n a.1 X)) forward).2

/-! The tensor table entry (Tables 4.1 to 4.3), as the number its 512 bytes hold. -/

def eFmt (e : Nat) : Nat := field e 0 4
def eRank (e : Nat) : Nat := field e 4 3
def eRes (e : Nat) : Nat := field e 8 2
def eSplv (e : Nat) : Nat := field e 10 2
def eNout (e : Nat) : Nat := field e 12 2
def eNbits (e : Nat) : Nat := field e 16 6
def eBreg (e : Nat) : Nat := field e 24 7
def eValid (e : Nat) : Bool := field e 31 1 == 1
/-- Widths of ELEM, REG, LANE, CREW, CORE, CLUS, DIE and ADDR. -/
def eWidths (e : Nat) : List Nat := (List.range 8).map fun k => field e (64 + 6 * k) 6
def eSt (e : Nat) : Nat := field e 128 2
def ePidx (e : Nat) : Nat := field e 136 6
def eNpass (e : Nat) : Nat := field e 144 6
def eBase (e : Nat) : Nat := field e 192 64
def eDstr (e : Nat) : Nat := field e 256 64
def eOstr0 (e : Nat) : Nat := field e 320 64
def eOstr1 (e : Nat) : Nat := field e 384 64
/-- The extent e_d. -/
def eExt (e d : Nat) : Nat := field e (448 + 32 * d) 32 + 1
def eTgt (e : Nat) : Nat := field e 832 64
def eOwnl (e : Nat) : Nat := field e 896 64
def eOwnt (e : Nat) : Nat := field e 960 24
/-- The rows of L. -/
def eRows (e : Nat) : List Nat := (List.range (eNbits e)).map fun j => field e (1024 + 64 * j) 64 % 2 ^ eNbits e

def eInner (e : Nat) : Nat := eRank e - eNout e
/-- b_d (R83). -/
def eB (e d : Nat) : Nat := clog2 (eExt e d)
/-- o_d (R83). -/
def eO (e d : Nat) : Nat := ((List.range d).map (eB e)).sum

/-- A field width is at most a limit (Table 4.4). -/
def eWidth (e k : Nat) : Nat := (eWidths e).getD k 0

/-- Table 4.4 for a team of ncrew crews of width lanes with nvreg registers. -/
def entryLimits (e nvreg ncrew width : Nat) : Bool :=
  let w := eWidth e
  let z := zOf (eFmt e)
  match eRes e with
  | 0 =>
    let k := if z = 64 then 2 else 1
    w 0 == (if z = 64 then 0 else clog2 (32 / z)) && decide (w 1 ≤ 6) && decide (eBreg e + k * 2 ^ w 1 ≤ nvreg) &&
      (z != 64 || eBreg e % 2 == 0) && decide (w 2 ≤ clog2 width) && decide (w 3 ≤ 4) && decide (2 ^ w 3 ≤ ncrew) &&
      w 4 == 0 && w 5 == 0 && w 6 == 0 && w 7 == 0 && eNout e == 0
  | 1 =>
    w 0 == 0 && w 1 == 0 && w 2 == 0 && w 3 == 0 && eSplv e != 3 && decide (w 4 ≤ if eSplv e = 0 then 3 else 0) &&
      decide (w 5 ≤ if eSplv e = 2 then 0 else 3) && decide (w 6 ≤ 3) && decide (w 7 ≤ 48) && decide (eNout e ≤ 2)
  | 2 =>
    w 0 == 0 && w 1 == 0 && w 2 == 0 && w 3 == 0 && w 4 == 0 && w 5 == 0 && decide (w 6 ≤ 3) && decide (w 7 ≤ 48) &&
      decide (eNout e ≤ 2)
  | _ => false

/-- R82. -/
def entryOk (e nvreg ncrew width : Nat) : Bool :=
  eValid e && decide (1 ≤ eRank e ∧ eRank e ≤ 6 ∧ eNout e ≤ eRank e ∧ eNbits e ≤ 48) && (eWidths e).sum == eNbits e &&
    eO e (eInner e) == eNbits e && entryLimits e nvreg ncrew width

/-- A scratchpad tensor is distributed (Table 4.5). -/
def eDistributed (e : Nat) : Bool := eWidth e 4 != 0 || eWidth e 5 != 0 || eWidth e 6 != 0

/-! Places. -/

/-- Where an element stands: a register, a part as a team slot reaches it at a level, or memory; with its first bit. -/
inductive Place where
  | reg (crew lane r bit : Nat)
  | part (slot level off bit : Nat)
  | mem (va bit : Nat)
deriving DecidableEq, Repr

/-- The bits that an element occupies, and the bytes it touches. An L6 element in memory is checked, tested for poison and read
as the whole three-byte group in which it stands, also where its bits lie in fewer bytes: the spec packs four elements into the
group and does not say which of its bytes an access of one element touches (the model's choice, log entry 81). -/
def eBits (e : Nat) : Nat := if eFmt e = 7 then (if eRes e = 2 then 6 else 8) else zOf (eFmt e)
def eSpan (e : Nat) : Nat := if eFmt e = 7 ∧ eRes e = 2 then 3 else (zOf (eFmt e) + 7) / 8

/-- The index of coordinates, or none for a hole (R83, R85). -/
def eIndex (e : Nat) (xs : List Nat) : Option Nat :=
  (List.range (eInner e)).foldl (fun i d =>
    if xs.getD d 0 < eExt e d then i.map (· + xs.getD d 0 * 2 ^ eO e d) else none) (some 0)

/-- Every outer coordinate is below its extent. -/
def outerOk (e : Nat) (xs : List Nat) : Bool :=
  (List.range (eRank e)).all fun d => decide (d < eInner e) || decide (xs.getD d 0 < eExt e d)

/-- The outer offset U (R84). -/
def outerOffset (e : Nat) (xs : List Nat) : Nat :=
  (List.range (eNout e)).foldl (fun u k => u + xs.getD (eInner e + k) 0 * (if k = 0 then eOstr0 e else eOstr1 e)) 0

/-- The value of field k of a placement vector. -/
def fieldOf (e p k : Nat) : Nat := field p (((eWidths e).take k).sum) (eWidth e k)

/-- The byte offset and bit of ADDR (R84). -/
def addrOffset (e a : Nat) : Nat × Nat :=
  let z := zOf (eFmt e)
  if eFmt e = 7 ∧ eRes e = 2 then (3 * (a / 4), 6 * (a % 4))
  else if z = 4 then (a / 2, 4 * (a % 2))
  else (a * z / 8, 0)

/-! The parties that use parts and memory. -/

/-- Who an engine acts for: the cluster it walks from, its launch and team, its context and world, and a page whose
copy-on-write path has failed, with the cause. -/
structure Eng where
  cl : Nat
  launch : Nat
  lrec : DWord
  teamid : Nat
  ctx : Nat
  sec : Bool
  bad : Option (Nat × Nat) := none
  /-- What its command or task has read ahead (R311), and has read from other devices (R366). -/
  seen : List (Nat × (Nat × Bool)) := []
  got : List (Nat × (Nat × Nat)) := []
deriving DecidableEq, Repr

/-- The party of a team slot's commands. -/
def State.engOf (s : State) (slot : Nat) (bad : Option (Nat × Nat)) : Eng :=
  let t := s.teamAt slot
  { cl := clusterOf slot, launch := t.launch, lrec := t.lrec, teamid := t.teamid, ctx := t.ctx, sec := t.sec, bad := bad }

/-- The slot of a bound team. -/
def State.slotOfTeam (s : State) (launch teamid : Nat) : Option Nat :=
  (s.teams.find? fun e => e.2.launch == launch && e.2.teamid == teamid).map (·.1)

/-- A slot from which the launch's part at a named place is reached; none where the part does not exist (R268). -/
def State.namedSlot (s : State) (launch level die clus core : Nat) : Option Nat :=
  let there (k : Nat) : Bool :=
    match level with
    | 0 => coreOf k == die * 96 + clus * 8 + core
    | 1 => clusterOf k == die * 12 + clus
    | _ => dieOf k == die
  if 12 ≤ clus ∨ 8 ≤ core then none
  else (s.teams.find? fun e => e.2.launch == launch && there e.1).map (·.1)

/-- The slot from which the party's own part at a level is reached. -/
def State.ownSlot (s : State) (x : Eng) (level : Nat) : Option Nat :=
  if level = 0 then s.slotOfTeam x.launch x.teamid else s.namedSlot x.launch level (x.cl / 12) (x.cl % 12) 0

/-- The location of a placement vector (Table 4.5), or the cause of a failure. -/
def State.locate (s : State) (x : Eng) (e p u : Nat) : Except Nat Place :=
  let f := fieldOf e p
  let (off, bit) := addrOffset e (f 7)
  match eRes e with
  | 0 => .ok (.reg (f 3) (f 2) (eBreg e + (if zOf (eFmt e) = 64 then 2 else 1) * f 1) (zOf (eFmt e) * f 0))
  | 1 =>
    let at_ := (eBase e + u + off) % 2 ^ 64
    let slot := if !eDistributed e then s.ownSlot x (eSplv e)
      else
        let own (k v : Nat) : Nat := if eWidth e k = 0 then v else f k
        let ownCore := match s.slotOfTeam x.launch x.teamid with
          | some k => coreOf k % 8
          | none => 0
        s.namedSlot x.launch (eSplv e) (own 6 (x.cl / 12)) (own 5 (x.cl % 12)) (if eSplv e = 0 then own 4 ownCore else 0)
    match slot with
    | none => .error 0x04
    | some k => if (s.partAt k (eSplv e)).size < at_ + eSpan e ∨ at_ % eSpan e ≠ 0 then .error 0x05 else .ok (.part k (eSplv e) at_ bit)
  | _ => .ok (.mem ((eBase e + f 6 * eDstr e + u + off) % 2 ^ 64) bit)

/-- The place of an element, none for a hole; causes as R85 and R84 give them. -/
def State.elemPlace (s : State) (x : Eng) (e : Nat) (xs : List Nat) : Except Nat (Option Place) :=
  if !outerOk e xs then .error 0x04
  else
    match eIndex e xs with
    | none => .ok none
    | some i => (s.locate x e (applyRows (eRows e) i) (outerOffset e xs)).map some

/-- The owner of an entry (R84). -/
def eOwned (x : Eng) (e : Nat) : Bool :=
  match eRes e with
  | 0 => eOwnt e == x.teamid && eOwnl e == x.lrec.toNat
  | 1 => eOwnl e == x.lrec.toNat && (eSplv e != 0 || eDistributed e || eOwnt e == x.teamid)
  | _ => true

/-! Memory accesses of engines (R268, R366). -/

/-- A cause that is none of Table 11.3: k granules from a virtual one on are still to be read from another device (R366). -/
def fetchCause (g k : Nat) : Nat := 4096 * (g + 1) + k
def isFetch (c : Nat) : Bool := decide (4096 ≤ c)

/-- What an engine has read in a granule of another device, by a virtual address in it: the data and how the read ended, 0 served, 8
poisoned, otherwise a cause. -/
def Eng.gotten (x : Eng) (va : Nat) : Option (Nat × Nat) := lookup x.got (va / 16)

/-- n bytes of such a granule. -/
def Eng.farBits (x : Eng) (va n : Nat) : Nat := ((x.gotten va).map fun y => field y.1 (8 * (va % 16)) (8 * n)).getD 0

/-- Check n bytes for an engine: the cause of the first failing check, or the parts. -/
def State.engCheck (s : State) (x : Eng) (need : Need) (va n : Nat) : Except Nat (List Piece) :=
  match s.checkSpan x.cl x.ctx x.sec need va n with
  | .error r => .error (causeOfRank r)
  | .ok ps =>
    match x.bad with
    | some (page, cause) => if need.w && ps.any (fun p => p.va / 4096 == page / 4096) then .error cause else .ok ps
    | none => .ok ps

/-- The parts of a range of addresses by granule: first address and bytes. -/
def byGranule (a n : Nat) : List (Nat × Nat) :=
  (granules a n).map fun g => (max a (16 * g), min (a + n) (16 * g + 16) - max a (16 * g))

/-- The cause with which a checked read ends when a granule of it on another device has not been read yet, or was not served (R366). -/
def engLost (x : Eng) (ps : List Piece) : Option Nat :=
  ps.findSome? fun p =>
    if pteRemote p.page.pte then
      let gs := byGranule p.va p.n
      match gs.findIdx? fun g => (x.gotten g.1).isNone with
      | some j => some (fetchCause ((gs.getD j (0, 0)).1 / 16) (gs.length - j))
      | none => (gs.map fun g => ((x.gotten g.1).map (·.2)).getD 0).find? fun f => f != 0 && f != 8
    else none

/-- The first address of an access at which its failing check fails: the page of a check of Table 3.5, the granule that another
device does not serve, or the first poisoned granule (R93). -/
def State.failAddr (s : State) (x : Eng) (need : Need) (va n : Nat) : Nat :=
  match s.checkSpan x.cl x.ctx x.sec need va n with
  | .error r =>
    (((pieces va n).find? fun p => match s.checkPage x.cl x.ctx x.sec need p.1 with
      | .error c => c == r
      | .ok _ => false).map (·.1)).getD va
  | .ok ps =>
    ((ps.flatMap fun p =>
      if pteRemote p.page.pte then ((byGranule p.va p.n).filter fun g => (x.gotten g.1).any (·.2 != 0)).map (·.1)
      else ((byGranule p.page.pa p.n).filter fun g => fget false s.poison (g.1 / 16)).map fun g => p.va + (g.1 - p.page.pa)).head?).getD va

/-- Check a read, and whether another device serves it. -/
def State.engReadable (s : State) (x : Eng) (va n : Nat) : Except Nat (List Piece) :=
  match s.engCheck x { r := true } va n with
  | .error c => .error c
  | .ok ps =>
    match engLost x ps with
    | some c => .error c
    | none => .ok ps

/-- n bytes of this device for an engine, with what it has read ahead. -/
def State.engBytes (s : State) (x : Eng) (pa n : Nat) : Nat :=
  if x.seen.isEmpty ∨ memTop ≤ pa then s.loadPhys pa n
  else (byGranule pa n).foldl (fun v g =>
    v + (match lookup x.seen (g.1 / 16) with
      | some y => field y.1 (8 * (g.1 % 16)) (8 * g.2)
      | none => s.loadPhys g.1 g.2) * 2 ^ (8 * (g.1 - pa))) 0

/-- The bytes of checked parts as a number; a granule of another device is one access (R366). -/
def State.engRead (s : State) (x : Eng) (ps : List Piece) : Nat :=
  ps.foldl (fun v p =>
    v + (if pteRemote p.page.pte then
        (byGranule p.va p.n).foldl (fun v g => v + x.farBits g.1 g.2 * 2 ^ (8 * (g.1 - p.va))) 0
      else s.engBytes x p.page.pa p.n) * 2 ^ (8 * p.off)) 0

/-- The marker of a granule of memory for an engine. -/
def State.engMark (s : State) (x : Eng) (g : Nat) : Bool :=
  match lookup x.seen g with
  | some y => y.2
  | none => fget false s.poison g

/-- The granules of checked parts that are poisoned, as ranges of byte offsets within the access (R418). -/
def State.engPoison (s : State) (x : Eng) (ps : List Piece) : List (Nat × Nat) :=
  ps.flatMap fun p =>
    if pteRemote p.page.pte then
      ((byGranule p.va p.n).filter fun g => (x.gotten g.1).any (·.2 == 8)).map fun g => (p.off + (g.1 - p.va), p.off + (g.1 - p.va) + g.2)
    else if memTop ≤ p.page.pa then []
    else ((byGranule p.page.pa p.n).filter fun g => s.engMark x (g.1 / 16)).map fun g =>
      (p.off + (g.1 - p.page.pa), p.off + (g.1 - p.page.pa) + g.2)

/-- The walks of an engine's accesses are kept in its cluster (R66). -/
def State.engKeep (s : State) (x : Eng) (ps : List Piece) : State := ps.foldl (fun s p => s.fillTlb x.cl x.ctx p.va) s

/-- The requests of a write to another device, by granule (R366): KIND 2, with the marker where a bad byte range of the access lies in
the granule (R418). -/
def granuleWrites (crew q part : Nat) (sec : Bool) (plane : Nat → Nat → Nat) (p : Piece) (v : Nat) (bad : List (Nat × Nat)) :
    List FabReq :=
  (granules p.va p.n).map fun g =>
    let lo := max p.va (16 * g)
    let n := min (p.va + p.n) (16 * g + 16) - lo
    let bits := v / 2 ^ (8 * (p.off + (lo - p.va))) % 2 ^ (8 * n)
    { kind := 2, dev := pteDev p.page.pte, rctx := pteRctx p.page.pte, sec := sec, va := dw lo, size := n, aop := 0, fmt := 0
      data := dw bits, data2 := dw (bits / 2 ^ 64), crew := crew, lane := q, plane := plane lo (pteDev p.page.pte)
      so := pteOrd p.page.pte == 1, part := part
      bad := bad.any fun r => decide (r.1 < p.off + (lo - p.va) + n) && decide (p.off + (lo - p.va) < r.2) }

/-- Bits of n bytes of a place, from byte a on, join what the step's command has written. -/
def State.wroteAt (s : State) (place a n mask : Nat) : State :=
  { s with wrote := s.wrote ++ ((granules a n).map fun g =>
      (place, g, field (mask * 2 ^ (8 * (a % 16))) (128 * (g - a / 16)) 128)) }

/-- The bits of v where a mask has ones, else those of an old value. -/
def mixBits (mask v old : Nat) : Nat := old ^^^ ((old ^^^ v) &&& mask)

/-- Write the bits of a number that a mask names through the local parts of an access. -/
def State.putBits (s : State) (ps : List Piece) (mask v : Nat) : State :=
  ps.foldl (fun s p =>
    if pteRemote p.page.pte ∨ memTop < p.page.pa + p.n then s
    else
      let m := field mask (8 * p.off) (8 * p.n)
      (s.storePhys p.page.pa (bytesOf p.n (mixBits m (field v (8 * p.off) (8 * p.n)) (s.readNat p.page.pa p.n)))).wroteAt 0 p.page.pa p.n m) s

/-- Who a request is for: the crew, the queue (8 is nobody's, 16 the crew itself, 32 + c a task of cluster c), and the number of the task
or of the command's issue. -/
structure From where
  crew : Nat
  q : Nat
  part : Nat := 0

/-- Write a number's bytes through checked parts, poisoned where byte ranges of the access are bad. -/
def State.engWrite (s : State) (x : Eng) (w : From) (ps : List Piece) (v : Nat) (bad : List (Nat × Nat)) : State :=
  let s1 := ((s.engKeep x ps).recallAll ps).putBits ps (2 ^ (8 * (ps.map (·.n)).sum) - 1) v
  (s1.send ((ps.filter fun p => pteRemote p.page.pte).flatMap fun p => granuleWrites w.crew w.q w.part x.sec s.planeOf p v bad)).1

/-- The ranges of device memory that parts of accesses cover. -/
def rangesOf (ps : List Piece) : List (Nat × Nat) :=
  ps.filterMap fun p => if pteRemote p.page.pte ∨ memTop ≤ p.page.pa then none else some (p.page.pa, p.n)

/-- The granules that one command covers whole lose their markers (R418). -/
def State.clearCovered (s : State) (rs : List (Nat × Nat)) : State :=
  { s with poison := setFlags s.poison (coveredGranules rs) false }

/-- A command writes granules of a place poisoned: bit 128 of what it has written there. -/
def State.hurtAt (s : State) (place : Nat) (gs : List Nat) : State :=
  { s with wrote := s.wrote ++ gs.map fun g => (place, g, 2 ^ 128) }

/-- The granules of parts that byte ranges of the access touch become poisoned (R265, R418). -/
def State.poisonPieces (s : State) (ps : List Piece) (bad : List (Nat × Nat)) : State :=
  let gs := ps.flatMap fun p =>
    if pteRemote p.page.pte ∨ memTop ≤ p.page.pa then []
    else bad.flatMap fun r =>
      let lo := max r.1 p.off
      let hi := min r.2 (p.off + p.n)
      if lo < hi then granules (p.page.pa + (lo - p.off)) (hi - lo) else []
  { s.hurtAt 0 gs with poison := setFlags s.poison gs true }

/-! Elements by place. -/

/-- Check the place of an element for an engine; the parts of a memory place. -/
def State.placeCheck (s : State) (x : Eng) (need : Need) (e : Nat) (p : Place) : Except Nat (List Piece) :=
  match p with
  | .mem va _ => if need.r then s.engReadable x va (eSpan e) else s.engCheck x need va (eSpan e)
  | _ => .ok []

/-- n bytes of a part for an engine, and whether a granule of them is poisoned, with what it has read ahead. -/
def State.engPart (s : State) (x : Eng) (slot level off n : Nat) : Nat × Bool :=
  let p := s.partAt slot level
  let key (g : Nat) : Nat := (1 + s.partId slot level) * 2 ^ 64 + g
  if x.seen.isEmpty then (natOf (p.read off n), p.poisoned off n)
  else ((byGranule off n).foldl (fun v g =>
    v + (match lookup x.seen (key (g.1 / 16)) with
      | some y => field y.1 (8 * (g.1 % 16)) (8 * g.2)
      | none => natOf (p.read g.1 g.2)) * 2 ^ (8 * (g.1 - off))) 0,
    (granules off n).any fun g => match lookup x.seen (key g) with
      | some y => y.2
      | none => fget false p.poison g)

/-- The bytes at a place as a number. -/
def State.placeBytes (s : State) (x : Eng) (e : Nat) (p : Place) (ps : List Piece) : Nat :=
  match p with
  | .reg _ _ _ _ => 0
  | .part k level off _ => (s.engPart x k level off (eSpan e)).1
  | .mem _ _ => s.engRead x ps

def Place.bit : Place → Nat
  | .reg _ _ _ b => b
  | .part _ _ _ b => b
  | .mem _ b => b

/-- A read element: its code and whether its granule is poisoned. -/
def State.readElem (s : State) (x : Eng) (e : Nat) (p : Place) (ps : List Piece) : Nat × Bool :=
  let v := s.placeBytes x e p ps / 2 ^ p.bit % 2 ^ eBits e
  let bad := match p with
    | .part k level off _ => (s.engPart x k level off (eSpan e)).2
    | _ => !(s.engPoison x ps).isEmpty
  (if eFmt e = 7 then v % 64 else v, bad)

/-- A write of an element: its place with the parts of a memory place, its code, and whether it is written poisoned. -/
structure ElemWrite where
  place : Place
  ps : List Piece
  code : Nat
  bad : Bool

/-- Write one element of this device (R57, R104). -/
def State.writeElem (s : State) (x : Eng) (e : Nat) (w : ElemWrite) : State :=
  let b := w.place.bit
  let mask := (2 ^ eBits e - 1) * 2 ^ b
  let v := w.code % 2 ^ eBits e * 2 ^ b
  match w.place with
  | .reg _ _ _ _ => s
  | .part k level off _ =>
    let p := s.partAt k level
    let p1 := { p with bytes := fsetRun 0 p.bytes off (bytesOf (eSpan e) (mixBits mask v (natOf (p.read off (eSpan e))))) }
    (s.setPartAt k level (p1.setEmpty (granules off (eSpan e)) false)).wroteAt (1 + s.partId k level) off (eSpan e) mask
  | .mem _ _ => ((s.engKeep x w.ps).recallAll w.ps).putBits w.ps mask v

/-- The bits that a write names in byte k of its access. -/
def ElemWrite.bitsAt (e : Nat) (w : ElemWrite) (k : Nat) : Nat := field ((2 ^ eBits e - 1) * 2 ^ w.place.bit) (8 * k) 8

/-- A byte of another device that a command writes: what it leaves there, its marker, and the part that it goes through. -/
structure FarByte where
  v : Nat
  bad : Bool
  p : Piece

/-- The bytes of other devices that the elements of one command leave, in ascending address: where an element fills a byte in part,
the rest is what the elements before it left there, or what was read there (R99, R366). -/
def farBytes (x : Eng) (e : Nat) (ws : List ElemWrite) : List (Nat × FarByte) :=
  ws.foldl (fun m w =>
    let v := w.code % 2 ^ eBits e * 2 ^ w.place.bit
    (w.ps.filter fun p => pteRemote p.page.pte).foldl (fun m p => (List.range p.n).foldl (fun m i =>
      let k := w.bitsAt e (p.off + i)
      let old := lookup m (p.va + i)
      if k = 0 then m
      else insert m (p.va + i) { v := mixBits k (field v (8 * (p.off + i)) 8) ((old.map (·.v)).getD (x.farBits (p.va + i) 1))
                                 bad := w.bad || old.any (·.bad), p := p }) m) m) []

/-- The cause that stands against the writes of one command to other devices: a byte that they fill in part has not been read there yet,
or its read was not served (R366). -/
def farNeeds (x : Eng) (e : Nat) (ws : List ElemWrite) : Option Nat :=
  ws.findSome? fun w => (w.ps.filter fun p => pteRemote p.page.pte).findSome? fun p =>
    ((List.range p.n).filter fun i => w.bitsAt e (p.off + i) != 0 && w.bitsAt e (p.off + i) != 255).findSome? fun i =>
      engLost x [{ p with va := p.va + i, n := 1 }]

/-- Runs of neighbouring bytes within one granule and page, as parts of a write with their data and marker (R366). -/
def farRuns (bs : List (Nat × FarByte)) : List (Piece × Nat × Bool) :=
  (bs.foldl (fun (rs : List (Piece × Nat × Bool)) b => match rs with
    | (p, v, m) :: r =>
      if p.va + p.n = b.1 ∧ p.va / 16 = b.1 / 16 ∧ p.page = b.2.p.page then
        ({ p with n := p.n + 1 }, v + b.2.v * 2 ^ (8 * p.n), m || b.2.bad) :: r
      else ({ b.2.p with va := b.1, n := 1, off := 0 }, b.2.v, b.2.bad) :: rs
    | [] => [({ b.2.p with va := b.1, n := 1, off := 0 }, b.2.v, b.2.bad)]) []).reverse

/-- The physical address of byte k of an access. -/
def physByte (ps : List Piece) (k : Nat) : Option Nat :=
  match ps.find? fun p => decide (p.off ≤ k) && decide (k < p.off + p.n) with
  | some p => if pteRemote p.page.pte ∨ memTop ≤ p.page.pa then none else some (p.page.pa + (k - p.off))
  | none => none

/-- The bits that writes of one command cover: the number of the part, or 2^50 for device memory, and the bit. -/
def State.coveredBits (s : State) (e : Nat) (ws : List ElemWrite) : List (Nat × Nat) :=
  ws.flatMap fun w => (List.range (eBits e)).filterMap fun i =>
    let b := w.place.bit + i
    match w.place with
    | .part k level off _ => some (s.partId k level, 8 * off + b)
    | .mem _ _ => (physByte w.ps (b / 8)).map fun a => (2 ^ 50, 8 * a + b % 8)
    | .reg _ _ _ _ => none

/-- The granules of a write in its part or in device memory. -/
def ElemWrite.granules (e : Nat) (w : ElemWrite) : List Nat :=
  match w.place with
  | .part _ _ off _ => Machine.granules off (eSpan e)
  | .mem _ _ => (rangesOf w.ps).flatMap fun r => Machine.granules r.1 r.2
  | .reg _ _ _ _ => []

/-- Set or clear the markers of granules of a write's place. -/
def State.markElem (s : State) (w : ElemWrite) (gs : List Nat) (b : Bool) : State :=
  match w.place with
  | .part k level _ _ =>
    let p := s.partAt k level
    (if b then s.hurtAt (1 + s.partId k level) gs else s).setPartAt k level { p with poison := setFlags p.poison gs b }
  | .mem _ _ => { (if b then s.hurtAt 0 gs else s) with poison := setFlags s.poison gs b }
  | .reg _ _ _ _ => s

/-- The markers of granules that a command covers alone are cleared; then those of its poisoned elements are set (R265,
R418). -/
def State.settlePoison (s : State) (e : Nat) (ws : List ElemWrite) : State :=
  let bits := s.coveredBits e ws
  let full (w : ElemWrite) (g : Nat) : Bool :=
    let k := match w.place with
      | .part k level _ _ => s.partId k level
      | _ => 2 ^ 50
    (List.range 128).all fun i => bits.contains (k, 128 * g + i)
  let s1 := ws.foldl (fun s w => s.markElem w ((w.granules e).filter (full w)) false) s
  ws.foldl (fun s w => if w.bad then s.markElem w (w.granules e) true else s) s1

/-- Write the elements of one command in order; what goes to other devices leaves by granule (R366). -/
def State.writeElems (s : State) (x : Eng) (w : From) (e : Nat) (ws : List ElemWrite) : State :=
  let s1 := (ws.foldl (fun s w => s.writeElem x e w) s).settlePoison e ws
  (s1.send ((farRuns (farBytes x e ws)).flatMap fun r =>
    granuleWrites w.crew w.q w.part x.sec s.planeOf r.1 r.2.1 (if r.2.2 then [(0, r.1.n)] else []))).1

/-! Writes outstanding to a frame. -/

/-- Some command or task owes a write into a range of memory. -/
def State.owedTo (s : State) (pa n : Nat) : Bool :=
  let hits (o : Owed) : Bool := decide (o.key < 2 ^ 64) && decide (pa < 16 * o.key + 16) && decide (16 * o.key < pa + n)
  (s.teams.any fun e => e.2.cmds.any fun c => c.owed.any hits) || s.clusters.any fun e => e.2.tasks.any fun t => t.owed.any hits

/-- Some command has a page in progress in the frame at an address (R421). -/
def State.pageHeld (s : State) (pa : Nat) : Bool :=
  s.teams.any fun e => e.2.cmds.any fun c => c.pages.any fun y => !pteRemote y.2.1 && y.2.2.1 == pa

/-- Every access to the frame of a page that was translated so far has been performed: what an invalidation of the page waits for
(R71, R367, R421). -/
def State.frameSettled (s : State) (ctx va : Nat) : Bool :=
  match s.translate noCluster ctx va with
  | some p =>
    let frame := p.pa / 4096 * 4096
    pteRemote p.pte || (s.settled s.fresh frame 4096 && !s.owedTo frame 4096 && !s.pageHeld frame)
  | none => true

/-! Reads of other devices (R366). -/

/-- Requests for the granules that a cause names (R366); pages are the command's pages in progress. -/
def State.askReads (s : State) (x : Eng) (w : From) (pages : List (Nat × (Nat × Nat × Nat))) (cause : Nat) : State :=
  (s.send (((List.range (cause % 4096)).map (cause / 4096 - 1 + ·)).filterMap fun g =>
    let va := 16 * g
    let pte? := match lookup pages (va / 4096) with
      | some y => some y.1
      | none => (s.translate x.cl x.ctx va).map (·.pte)
    match pte? with
    | some e =>
      if (x.gotten va).isNone && pteRemote e then
        some { kind := 8, dev := pteDev e, rctx := pteRctx e, sec := x.sec, va := dw va, size := 16, aop := 0, fmt := 0, data := 0
               data2 := 0, crew := w.crew, lane := w.q, plane := s.planeOf va (pteDev e), so := pteOrd e == 1, part := w.part }
      else none
    | none => none)).1

/-- Reads of a command, a task or a crew at other devices are under way. -/
def State.readsOut (s : State) (w : From) : Bool :=
  s.fabric.any fun r => r.2.kind == 8 && r.2.crew == w.crew && r.2.lane == w.q && r.2.part == w.part

/-- The same once the reads under way have ended; none before. -/
def State.askOnce (s : State) (x : Eng) (w : From) (cause : Nat) : Option State :=
  if s.readsOut w then none else some (s.askReads x w [] cause)

/-- How a granule read at another device ended: 0 served, 8 poisoned, else the cause of the refusal (R245, R366, R429). -/
def fateOf (refusal : Nat) : Nat :=
  match refusal with
  | 0 => 0
  | 3 => 6
  | 4 => 1
  | 5 => 2
  | 6 => 8
  | _ => 0x0A

/-- A granule read at another device comes to whoever asked for it: the crew, which goes on with the last one, a task, or the head command
of a queue. -/
def State.fetched (s : State) (req : Nat) (r : FabReq) (refusal data : Nat) : State :=
  let s := { s with fabric := erase s.fabric req }
  let add (m : List (Nat × (Nat × Nat))) : List (Nat × (Nat × Nat)) := insert m (r.va.toNat / 16) (data % 2 ^ 128, fateOf refusal)
  if r.crew = goneKey then s
  else if r.lane = 16 then
    let c := s.crewAt r.crew
    if c.block != some .fetching then s
    else s.setCrewAt r.crew { c with
      got := add c.got, block := if s.readsOut { crew := r.crew, q := 16 } then c.block else none }
  else if 32 ≤ r.lane then
    let c := s.clusterAt (r.lane - 32)
    s.setClusterAt (r.lane - 32) { c with tasks := c.tasks.map fun t => if t.num == r.part then { t with got := add t.got } else t }
  else
    match (s.teamAt (slotOf r.crew)).queue r.lane with
    | c :: _ =>
      if c.issue = r.part ∧ c.crew = r.crew then s.setHead (slotOf r.crew) r.lane { c with got := add c.got } else s
    | [] => s

/-! Reading and writing table entries. -/

def State.entryVa (s : State) (ctx h : Nat) : Nat := (s.ctxTtbase ctx + 512 * h) % 2 ^ 64

/-- Read the entry of a handle: the cause of a failing check, or the entry (R80). -/
def State.readEntry (s : State) (x : Eng) (h : Nat) : Except Nat Nat :=
  match s.engReadable x (s.entryVa x.ctx h) 512 with
  | .error c => .error c
  | .ok ps => if !(s.engPoison x ps).isEmpty then .error 0x03 else .ok (s.engRead x ps)

/-- What the part keeps of a read of an entry: its walk, and no lease on its lines (R66, R74). -/
def State.keepEntry (s : State) (x : Eng) (h : Nat) : State := s.keepSpan x.cl x.ctx x.sec (s.entryVa x.ctx h) 512

/-- An entry as a use holds it from its start (R80): the cause of a failing check, 0 for none, and its bits. -/
def State.holdEntry (s : State) (x : Eng) (h : Nat) : Nat × BitVec 4096 :=
  match s.readEntry x h with
  | .ok e => (0, BitVec.ofNat 4096 e)
  | .error c => (c, 0)

/-- The rank of the check that fails the device's own write of an entry (R70), or the parts. An entry on a REMOTE page fails with the
permission cause: the spec does not say how the device's own stores to an entry fare there (the model's choice; log entry 99). -/
def State.entryWritable (s : State) (x : Eng) (h : Nat) : Except Nat (List Piece) :=
  match s.checkSpan x.cl x.ctx x.sec { w := true } (s.entryVa x.ctx h) 512 with
  | .error r => .error r
  | .ok ps => if ps.any (fun p => pteRemote p.page.pte || pteCow p.page.pte || !pteW p.page.pte) then .error 4 else .ok ps

/-- Write n bytes of an entry from byte off on. -/
def State.writeEntry (s : State) (x : Eng) (h off n v : Nat) : State :=
  match s.checkSpan x.cl x.ctx x.sec { w := true } (s.entryVa x.ctx h + off) n with
  | .ok ps => ((s.recallAll ps).writePieces ps v)
  | .error _ => s

end Sys2Proof.Machine
end

