-- ==== Sys2Proof/Machine/CrewEvents.lean ====
section
/-! DEFINITION. When a crew issues (R38, R264), and the events of a crew: a fetch that traps (R61), chains abandoned and
resumed (R161), the picker's urgent mark (R334), the handler's limits (R394, R406) and crew interrupts (R396, R400). -/
namespace Sys2Proof.Machine

/-- The handler has issued all the instructions it may (R394). -/
def Crew.spent (c : Crew) : Bool := c.inHandler && decide (65536 ≤ c.handlerCount)

/-- The crew stands ready apart from its next instruction's operands: resident, alive, neither halted nor waiting, and
its team's issue not stopped (R38, R333, R409). -/
def State.crewReady (s : State) : Bool :=
  let c := s.crew
  let e := s.slotAt (slotOf s.cur)
  c.bound && !c.halted && c.block.isNone && s.liveMask != 0#32 && c.stop == .running && !e.hold && (s.teamRuns (slotOf s.cur) || s.teamSaves (slotOf s.cur))

/-- How many registers of its origin an instruction reads: two coordinates each by the rank of its handle (R270, R283); three
where the entry gives no rank, or a command that may still change it is outstanding (log entry 41). -/
def State.originCount (s : State) (i : Instr) : Nat :=
  match i.originHandle with
  | none => 0
  | some c =>
    let h := (s.uni c).toNat % 1024
    let rewritten := s.teams.any fun e => e.2.ctx == s.team.ctx && e.2.cmds.any fun c => opOf c.w == 0xD9 && c.ops.getD 1 0 % 1024 == dw h
    match s.readEntry (s.engOf (slotOf s.cur) none) h with
    | .ok e => if !rewritten && decide (1 ≤ eRank e ∧ eRank e ≤ 6) then (eRank e + 1) / 2 else 3
    | .error _ => 3

/-- TRET in a handler reads HS0, which stands as S28 there (R393). -/
def State.returnS (s : State) (i : Instr) : List Nat :=
  match i with
  | .tret => if s.crew.inHandler then [28] else []
  | _ => []

/-- The status registers that an instruction of the current crew names and no command has written yet (R264). -/
def State.awaitedS (s : State) (i : Instr) : List Nat :=
  if s.crew.pendS.isEmpty then []
  else ((i.sRegs (s.originCount i) ++ s.returnS i).map (sIndex s.crew)).filter s.crew.pendS.contains

/-- The places of lane registers that a load's result goes to. -/
def PendingLoad.places (x : PendingLoad) : List Nat := if x.pair then [x.reg, x.reg + 1] else [x.reg]

/-- An instruction that reads or writes FPSR, into which a load's result may put flags (R237). -/
def namesFpsr (i : Instr) : Bool :=
  match i with
  | .mfs _ _ n => n.toNat == 0x09
  | .mts _ n => n.toNat == 0x09
  | _ => false

/-- The places of the outstanding loads whose results an instruction of the current crew needs (R38): those of the lane registers
that it names; of all of them where it reads or writes FPSR, or places of a tensor in lane registers. -/
def State.awaitedV (s : State) (i : Instr) : List Nat :=
  let places := s.crew.loads.flatMap PendingLoad.places
  if places.isEmpty then []
  else if i.isRemap || namesFpsr i then places
  else (i.vRegs.map (vIndex s.crew)).filter places.contains

/-- An instruction of the current crew waits on a status register or on a load (R38, R264). -/
def State.awaits (s : State) (i : Instr) : Bool := !(s.awaitedS i).isEmpty || !(s.awaitedV i).isEmpty

/-- The crew's next instruction reads or writes a status register that is not written yet: the crew is blocked (R39). -/
def State.blockedOnStatus (s : State) : Bool :=
  match s.fetch with
  | .ok i => !(s.awaitedS i).isEmpty
  | .error _ => false

/-- The crew stands between instructions where a forced save may stop it: outside its handler, and not inside a latch
chain (R396, R409). -/
def State.mayStop (s : State) : Bool :=
  !s.crew.inHandler && (match s.fetch with
    | .ok i => !i.readsLatch
    | .error _ => true)

/-- The crew can issue its next instruction, or trap on its words (R38, R173); once the count of a save has expired it
stops instead at its next resumption point (R409). -/
def State.canIssue (s : State) : Bool :=
  s.crewReady && !s.crew.spent && !(s.team.full && s.mayStop) && (match s.fetch with
    | .ok i => !s.awaits i
    | .error _ => true)

/-- What the crew waits on is a block or a park at which a save may find it (R39, R409); a register REMAP is one only
for a forced save, at the end of a pass, and not inside a chain (R97, R396). -/
def State.blockStops (s : State) (b : Block) : Bool :=
  match b with
  | .remap _ _ => s.team.full && s.mayStop
  | .parked _ | .abandoned _ _ => true
  | _ => s.mayStop

/-- The current crew stands at a stopping point of R409: retired, at a CKPT, blocked or parked, waiting on a status
register (R39), or stopped by the forced save. -/
def State.atStop (s : State) : Bool :=
  let c := s.crew
  s.liveMask == 0#32 || (!c.inHandler && !c.halted && c.loads.isEmpty && (c.stop != .running || (match c.block with
    | some b => s.blockStops b
    | none => s.mayStop && (s.team.full || s.blockedOnStatus))))

/-- Every crew of a team slot but one stands at a stopping point. -/
def State.othersStop (s : State) (slot : Nat) (k : Option Nat) : Bool :=
  (List.range (s.teamAt slot).ncrew).all fun c => some (16 * slot + c) == k || (s.at_ (16 * slot + c)).atStop

/-- What stage 1 of R401 rejects before an issue: the code where the PC's words are no instruction, and 1 for an instruction that
reads a latch after its chain has ended (R61, R159, R173). -/
def State.rejects (s : State) : Option Nat :=
  match s.fetch with
  | .error code => some code
  | .ok i => if i.readsLatch && s.crew.fin then some 1 else none

/-- The other group of a crew's hardware crew in compatibility mode (R49). -/
def otherGroup (s : State) (k : Nat) : Option Nat :=
  if (s.teamAt (slotOf k)).compat then some (if k % 2 = 0 then k + 1 else k - 1) else none

/-- Two crews stand at one PC, at the same place of a REP unit or MCALL. -/
def sameUnit (s : State) (k j : Nat) : Bool := (s.crewAt k).pc == (s.crewAt j).pc && (s.crewAt k).run == (s.crewAt j).run

/-- A rejected word traps crew k. Of a word that decodes to no instruction the model takes the RESUMEPC of a chain's head, its own
PC, whatever its bits say of a latch (the model's choice; log entry 103). -/
def State.fetchFault (s : State) (k code : Nat) : State :=
  let s := s.at_ k
  let chained := match s.fetch with
    | .ok _ => true
    | .error _ => false
  let s1 := s.begin chained
  s1.trapHere { code := code, lanes := s1.actMask } chained

/-- INSTRUCTION_FETCH_FAULT (R61, R173): the word at the PC is rejected at stage 1, and the crew traps without an issue; both groups
of a hardware crew that stand at it enter the handler joined (R397). -/
def execInstructionFetchFault (crew : Nat) (s : State) : Out :=
  let faults (k : Nat) : Option Nat := if (s.at_ k).canIssue then (s.at_ k).rejects else none
  match faults crew with
  | none => .refused (.notEnabled "INSTRUCTION_FETCH_FAULT")
  | some code =>
    let t := s.fetchFault crew code
    match otherGroup s crew with
    | some j => .next (if sameUnit s crew j && faults j == some code then t.fetchFault j code else t)
    | none => .next t

/-! Chains. -/

/-- The crew stands inside a latch chain: its next instruction reads a latch (R38, R159). -/
def State.inChain (s : State) : Bool :=
  match s.fetch with
  | .ok i => i.readsLatch
  | .error _ => false

/-- Time has reached a moment, and passes on (R217; log entry 6). -/
def State.passTo (s : State) (t : Nat) : State := { s with clock := max s.clock t + Config.elapsed s.fresh }

/-- CHAIN_ABANDON (R161): an instruction of a chain that is not its head waits on a status register or a load for more
than 64 cycles; the PC goes back to the head, and the crew is blocked until what it waits for is written. -/
def execChainAbandon (crew : Nat) (s : State) : Out :=
  let s := s.at_ crew
  match s.fetch with
  | .ok i =>
    if s.crewReady && i.readsLatch && s.awaits i then
      let c := s.crew
      let run := match c.run with
        | some (.mcall _ head) => some (Run.mcall head head)
        | r => r
      let s1 := s.passTo (s.clock + 65)
      .next (s1.setCrew { c.clearChain with
        pc := if c.run.isSome then c.pc else c.head.getD c.pc, run := run, block := some (.abandoned (s.awaitedS i) (s.awaitedV i)), since := s1.clock })
    else .refused (.notEnabled "CHAIN_ABANDON")
  | .error _ => .refused (.notEnabled "CHAIN_ABANDON")

/-- CHAIN_RESUME (R161): the awaited registers are written, and the crew issues from the chain's head. -/
def execChainResume (crew : Nat) (s : State) : Out :=
  let c := s.crewAt crew
  match c.block with
  | some (.abandoned regs loads) =>
    if regs.all (fun n => !c.pendS.contains n) && loads.all (fun r => !(c.loads.flatMap PendingLoad.places).contains r) then .next (s.setCrewAt crew { c with block := none })
    else .refused (.notEnabled "CHAIN_RESUME")
  | _ => .refused (.notEnabled "CHAIN_RESUME")

/-! The picker. -/

/-- The instruction goes to the uniform pipe: bit 31 of its first word (R149, R38). -/
def toUniform (i : Instr) : Bool := ((encode i).headD 0).getLsbD 31

/-- The crew's wait count for a pipe, and its urgent mark: true is the uniform pipe (R334). -/
def Crew.waited (c : Crew) (u : Bool) : Nat := if u then c.waitS else c.waitL
def Crew.urgent (c : Crew) (u : Bool) : Bool := if u then c.urgentS else c.urgentL
/-- The step of its last issue to a pipe. -/
def Crew.lastIssue (c : Crew) (u : Bool) : Nat := if u then c.lastS else c.lastL

/-- The crew's wait count for a pipe rises by n cycles. -/
def Crew.waitOn (c : Crew) (u : Bool) (n : Nat) : Crew := if u then { c with waitS := c.waitS + n } else { c with waitL := c.waitL + n }

/-- The crew is urgent for a pipe. -/
def Crew.markUrgent (c : Crew) (u : Bool) : Crew := if u then { c with urgentS := true } else { c with urgentL := true }

/-- The pipe that a crew could issue to now, its word and its operands being there; a rejected word takes no slot (R61). -/
def State.couldIssue (s : State) (k : Nat) : Option Bool :=
  let s := s.at_ k
  if s.canIssue && s.rejects.isNone then
    match s.fetch with
    | .ok i => some (toUniform i)
    | .error _ => none
  else none

/-- Crew k stands at a repeat of a REP unit that both groups of its hardware crew have begun together, and the other group is not
ready for that repeat: the unit stays shared (R226). -/
def unitHolds (s : State) (k : Nat) : Bool :=
  match otherGroup s k with
  | none => false
  | some j =>
    let ck := s.crewAt k
    let cj := s.crewAt j
    match ck.run, cj.run with
    | some (.rep i _), some (.rep i' _) =>
      ck.together && cj.together && ck.pc == cj.pc && decide (i' ≤ i) && !(i' == i && s.couldIssue j == s.couldIssue k)
    | _, _ => false

/-- The pipe that a crew is ready for (R38). -/
def State.readyFor (s : State) (k : Nat) : Option Bool := if unitHolds s k then none else s.couldIssue k

/-- The pipe of the next instruction of a crew that stands inside a latch chain: true is the uniform pipe (R38). -/
def chainPipe (s : State) (k : Nat) : Option Bool :=
  let s := s.at_ k
  if s.crewReady && s.inChain then
    match s.fetch with
    | .ok i => some (toUniform i)
    | .error _ => none
  else none

/-- The crews of the core of crew k but itself; 16 crews to a slot, so that no key of another kind is meant. -/
def coreMates (s : State) (k : Nat) : List Nat :=
  (s.crews.map (·.1)).filter fun j => j != k && decide (j < 2 ^ 16) && coreOf (slotOf j) == coreOf (slotOf k)

/-- The pipe stands idle on the core of crew k: a chain that keeps it waits on an operand (R38, R334). -/
def pipeIdle (s : State) (k : Nat) (u : Bool) : Bool :=
  (k :: coreMates s k).any fun j => chainPipe s j == some u && s.couldIssue j != some u

/-- The wait counts of crews that were ready for a pipe rise by n cycles (R334). -/
def State.rose (s : State) (ks : List Nat) (u : Bool) (n : Nat) : State :=
  ks.foldl (fun s k => s.setCrewAt k ((s.crewAt k).waitOn u n)) s

/-- PICKER_URGENT (R334): the wait count of a ready crew has reached 64, by the issues of others or while the pipe stands idle, and the
crew is urgent. -/
def execPickerUrgent (crew : Nat) (s : State) : Out :=
  match s.readyFor crew with
  | some u =>
    let c := s.crewAt crew
    if c.urgent u then .refused (.notEnabled "PICKER_URGENT")
    else if 64 ≤ c.waited u then .next (s.setCrewAt crew (c.markUrgent u))
    else if pipeIdle s crew u then
      let n := 64 - c.waited u
      let s1 := (s.passTo (s.clock + n)).rose ((crew :: coreMates s crew).filter fun j => s.readyFor j == some u) u n
      .next (s1.setCrewAt crew ((s1.crewAt crew).markUrgent u))
    else .refused (.notEnabled "PICKER_URGENT")
  | none => .refused (.notEnabled "PICKER_URGENT")

/-- A crew has issued to a pipe at a step: its wait count there is zero; both says that the other group shared the issue. -/
def Crew.issuedTo (c : Crew) (u : Bool) (step : Nat) (both : Bool) : Crew :=
  let c := { c with together := both }
  if u then { c with waitS := 0, urgentS := false, lastS := step } else { c with waitL := 0, urgentL := false, lastL := step }

/-- One issue to a pipe serves the crews ks, which were the last to issue there (R51, R334). -/
def State.picked (s : State) (ks : List Nat) (u : Bool) : State :=
  ks.foldl (fun t k => t.setCrewAt k ((t.crewAt k).issuedTo u s.fresh (decide (1 < ks.length)))) s

/-! The handler's limits. -/

/-- HANDLER_INSTRUCTION_LIMIT (R394): the handler would issue a 65,537th instruction, and the crew halts in its place. -/
def execHandlerInstructionLimit (crew : Nat) (s : State) : Out :=
  let s := s.at_ crew
  if s.crewReady && s.crew.spent then .next s.haltCrew else .refused (.notEnabled "HANDLER_INSTRUCTION_LIMIT")

/-- HANDLER_WAIT_LIMIT (R406): a handler has been blocked, also on a status register, or parked for 2^20 cycles; a double
fault. -/
def execHandlerWaitLimit (crew : Nat) (s : State) : Out :=
  let s := s.at_ crew
  let c := s.crew
  if c.bound && c.inHandler && !c.halted && c.block.isSome then .next ((s.passTo (c.since + 2 ^ 20)).haltCrew)
  else if c.bound && c.inHandler && !c.halted && s.blockedOnStatus then .next ((s.passTo (s.clock + 2 ^ 20)).haltCrew)
  else .refused (.notEnabled "HANDLER_WAIT_LIMIT")

/-! Crew interrupts. -/

/-- A held crew interrupt may be delivered now: between instructions of a ready crew, outside a chain and a handler, or between
the passes of a register REMAP that stands outside a chain, and not before a save that is pending (R396, R97). A crew that is
blocked on a status register is held, as is one whose blocking instruction is to be issued again after a restore (R414). -/
def State.mayInterrupt (s : State) : Bool :=
  let c := s.crew
  let between := match c.block with
    | some (.remap _ r) => decide (0 < r.done)
    | some _ => false
    | none => !c.reissue && !s.blockedOnStatus
  c.irq && c.bound && !c.halted && !c.inHandler && c.stop == .running && s.teamRuns (slotOf s.cur) &&
    between && !s.inChain

/-- TRAPREP of a trap taken before the instruction at which a crew goes on after TRET or a restore: it keeps the repeat or the
operation from which that instruction is to go on (R172, R396; log entry 104). -/
def State.keptRep (s : State) : DWord :=
  let r := s.crew.traprep
  match s.fetch with
  | .ok (.rep ..) => if s.crew.resuming then r &&& 0x3F else 0
  | .ok (.mcall ..) => if s.crew.resuming && r.getLsbD 15 then r else 0
  | _ => 0

/-- CREW_INTERRUPT_DELIVERY (R400): code 0x12, taken between instructions; inside an MCALL the operation that issues next is the
one at which it resumes (R167). -/
def execCrewInterruptDelivery (crew : Nat) (s : State) : Out :=
  let s := s.at_ crew
  if !s.mayInterrupt then .refused (.notEnabled "CREW_INTERRUPT_DELIVERY")
  else
    let t : Trap := { code := 0x12, lanes := s.actMask, async := true }
    let s1 := (s.setCrew { s.crew with irq := false, run := s.crew.runAt false }).irqDone crew false
    let pc := s.crew.pc
    match s.keptRep with
    | 0 => .next (s1.trapHere t false)
    | r => .next (s1.takeTrap t (if r.getLsbD 15 then pc else pc + 4) pc r)

end Sys2Proof.Machine
end

