-- ==== Sys2Proof/Machine/Convert.lean ====
section
/-! DEFINITION. Conversion, packing, dot products and L6 arithmetic of the lane pipe (spec/08 R194 to R200). -/
namespace Sys2Proof.Machine

/-- The generator state of a lane (R110). -/
def Crew.seedOf (c : Crew) (l : Nat) : Word := fget 0 c.seed l

/-- Advance the generators of the lanes where f holds. -/
def State.advanceSeeds (s : State) (f : Nat → Bool) : State :=
  let c := s.crew
  s.setCrew { c with seed := (s.active.filter f).foldl (fun m l => fset 0 m l (seedNext (c.seedOf l))) c.seed }

/-- RoundTo is applied, so that a stochastic rounding advances the generator: not to a NaN or an infinity, nor to a
negative or zero value into E8M0 (R103, R109). -/
def rounds (dst : Nat) : Val → Bool
  | .num n x => !(dst == 14 && (n || x.sign == 0))
  | _ => false

/-- The mode of lane l: SR with the next 16 bits of its generator, or FPCR.RM (R108). -/
def State.laneMode (s : State) (sr : Bool) (l : Nat) : Mode :=
  if sr then .sr ((seedNext (s.crew.seedOf l)).toNat % 65536) else s.crew.mode

/-- Convert values by lane into D (R194, R195): g gives the converted result under a mode. -/
def State.convertLanes (s : State) (nw : Bool) (d : BitVec 7) (dst : Nat) (narrow : Bool) (v : Nat → Val)
    (g : Nat → Mode → Res) : State :=
  let sr := s.crew.sre && narrow
  (s.putRes (dst == 0) nw d fun l => g l (s.laneMode sr l)).advanceSeeds fun l => sr && rounds dst (v l)

/-- SIX is in range for a source format (R194). -/
def sixOk (sfmt six : Nat) : Bool := if sfmt = 0 then six == 0 else decide (six < 32 / zOf sfmt)

/-- The source element of lane l (R194). -/
def State.element (s : State) (a : BitVec 8) (sfmt six l : Nat) : Nat :=
  field (s.laneW (sfmt == 0) a l).toNat (zOf sfmt * six) (zOf sfmt)

/-- CVT (R194). -/
def execCvt (nw : Bool) (d : BitVec 7) (a : BitVec 8) (fmt : BitVec 4) (six : BitVec 3) (sfmt : BitVec 4) (s : State) : Out :=
  let src := sfmt.toNat
  let dst := fmt.toNat
  perform { srcs := [a], lp := 1
            ok := s.dstOk (dst == 0) d && s.srcOk (src == 0) a && sixOk src six.toNat } s fun s =>
    let e (l : Nat) : Nat := s.element a src six.toNat l
    if src = 15 ∨ dst = 15 then .done (s.putLane (dst == 0) nw d fun l => dw (e l % 256))
    else
      .done (s.convertLanes nw d dst (!widening src dst) (fun l => valOf src (e l)) fun l m => cvt src dst m (valOf src (e l)))

/-- CVTSC (R195): the exact product with the F32 scale, rounded once; it always counts as narrowing. -/
def execCvtsc (nw : Bool) (d : BitVec 7) (a b : BitVec 8) (fmt : BitVec 4) (six : BitVec 3) (sfmt : BitVec 4) (s : State) :
    Out :=
  let src := sfmt.toNat
  let dst := fmt.toNat
  perform { srcs := [a, b], lp := 1
            ok := s.dstOk (dst == 0) d && s.srcOk (src == 0) a && s.laneOk b && sixOk src six.toNat && src != 15 &&
              dst != 15 } s fun s =>
    let p (l : Nat) : Exact := vMul (valOf src (s.element a src six.toNat l)) (valOf 1 (s.lane b l).toNat)
    .done (s.convertLanes nw d dst true (fun l => (p l).v) fun l m =>
      let r := cvtNarrow dst m (p l).v
      { code := r.code, fl := r.fl ||| (p l).fl })

/-- Element idx of a word replaced (R196). -/
def putElement (z idx : Nat) (w : Word) (v : Nat) : Word :=
  let low := w.toNat % 2 ^ (z * idx)
  w32 (low + v % 2 ^ z * 2 ^ (z * idx) + w.toNat / 2 ^ (z * idx + z) * 2 ^ (z * idx + z))

/-- The value PACK reads from A by its target (R196). -/
def packElement (dst : Nat) (mode : Mode) (x : Nat) : Res :=
  if dst = 15 then { code := x % 256 }
  else if isInt dst then cvt 13 dst mode (valOf 13 x)
  else cvt 1 dst mode (valOf 1 x)

/-- PACK (R196). -/
def execPack (nw : Bool) (d : BitVec 7) (a b : BitVec 8) (fmt : BitVec 4) (idx : BitVec 3) (s : State) : Out :=
  let dst := fmt.toNat
  perform { srcs := [a, b], lp := 1
            ok := s.dV d && s.laneOk a && s.laneOk b && dst != 0 && decide (idx.toNat < 32 / zOf dst) } s fun s =>
    .done (s.putRes false nw d fun l =>
      let r := packElement dst s.crew.mode (s.lane a l).toNat
      { code := (putElement (zOf dst) idx.toNat (s.lane b l) r.code).toNat, fl := r.fl })

/-- UNPK (R197). -/
def execUnpk (nw : Bool) (d : BitVec 7) (a : BitVec 8) (fmt : BitVec 4) (idx : BitVec 3) (s : State) : Out :=
  let src := fmt.toNat
  perform { srcs := [a], lp := 1
            ok := s.dV d && s.laneOk a && src != 0 && decide (idx.toNat < 32 / zOf src) } s fun s =>
    .done (s.putRes false nw d fun l =>
      let e := field (s.lane a l).toNat (zOf src * idx.toNat) (zOf src)
      if src = 15 then { code := e }
      else if isInt src then { code := wrapInt 32 (if isSigned src then signExt (zOf src) e else (e : Int)) }
      else cvt src 1 .rne (valOf src e))

/-- IDOT4 on one lane (R198). -/
def idot4 (fmt : Nat) (x y : Nat) : Int :=
  let w := if fmt = 9 then 4 else 8
  let el (v j : Nat) : Int := if fmt = 10 then (field v (w * j) w : Nat) else signExt w (field v (w * j) w)
  (List.range (32 / w)).foldl (fun acc j => acc + el x j * el y j) 0

def idotOp (s : State) (nw : Bool) (d : BitVec 7) (a b : BitVec 8) (srcs : List (BitVec 8)) (fmt words : Nat)
    (acc : State → Nat → Word) : Out :=
  perform { srcs := srcs, lp := 1, words := words
            ok := s.dV d && srcs.all s.laneOk && (fmt == 8 || fmt == 9 || fmt == 10) } s fun s =>
    .done (s.putLane false nw d fun l =>
      dw (wrapInt 32 ((acc s l).toNat + idot4 fmt (s.lane a l).toNat (s.lane b l).toNat)))

def execIdot4 (nw : Bool) (d : BitVec 7) (a b : BitVec 8) (s : State) : Out :=
  idotOp s nw d a b [a, b] 8 1 fun s l => s.crew.getV d.toNat l
def execIdot4Ext (nw : Bool) (d : BitVec 7) (a c : BitVec 8) (fmt : BitVec 4) (b : BitVec 8) (s : State) : Out :=
  idotOp s nw d a b [a, b, c] fmt.toNat 2 fun s l => s.lane c l

/-- Infinities of opposite sign stand among the terms of a sum. -/
def opposed (xs : List Exact) : Bool := xs.any (fun x => x.v == .inf false) && xs.any (fun x => x.v == .inf true)

/-- FDOT2 on one lane (R199): the exact sum of the accumulator and two products, rounded once to F32; opposed infinities raise IV
also beside a NaN. -/
def fdot2 (fmt : Nat) (mode : Mode) (x y acc : Nat) : Res :=
  let p (j : Nat) : Exact := vMul (valOf fmt (field x (16 * j) 16)) (valOf fmt (field y (16 * j) 16))
  let a := valOf 1 acc
  let xs : List Exact := [{ v := a, fl := snan [a] }, p 0, p 1]
  let r := vSum mode xs
  finish 1 mode { r with fl := r.fl ||| (if opposed xs then flIV else 0) }

def fdotOp (s : State) (nw : Bool) (d : BitVec 7) (a b : BitVec 8) (srcs : List (BitVec 8)) (fmt words : Nat)
    (acc : State → Nat → Word) : Out :=
  perform { srcs := srcs, lp := 1, words := words
            ok := s.dV d && srcs.all s.laneOk && (fmt == 2 || fmt == 3) } s fun s =>
    .done (s.putRes false nw d fun l =>
      fdot2 fmt s.crew.mode (s.lane a l).toNat (s.lane b l).toNat (acc s l).toNat)

def execFdot2 (nw : Bool) (d : BitVec 7) (a b : BitVec 8) (s : State) : Out :=
  fdotOp s nw d a b [a, b] 2 1 fun s l => s.crew.getV d.toNat l
def execFdot2Ext (nw : Bool) (d : BitVec 7) (a c : BitVec 8) (fmt : BitVec 4) (b : BitVec 8) (s : State) : Out :=
  fdotOp s nw d a b [a, b, c] fmt.toNat 2 fun s l => s.lane c l

/-- LNSADD on one element (R200). -/
def lnsAdd (mode : Mode) (x y : Nat) : Res :=
  let a := valOf 7 x
  let b := valOf 7 y
  if a.isNaN || b.isNaN then { code := 0x20 } else cvtNarrow 7 mode (vAdd mode a b).v

/-- LNSMUL on one element (R200): UF and NX whenever the field falls below 1, also where it rounds to 1. -/
def lnsMul (mode : Mode) (x y : Nat) : Res :=
  let a := valOf 7 x
  let b := valOf 7 y
  if a.isNaN || b.isNaN then { code := 0x20 }
  else if a.isZero || b.isZero then { code := 0 }
  else
    let r := cvtNarrow 7 mode (vMul a b).v
    if x % 32 + y % 32 < 17 then { code := r.code, fl := flUF + flNX } else r

/-- LNSADD and LNSMUL act on four L6 elements (R200). -/
def lnsOp (s : State) (nw : Bool) (d : BitVec 7) (a b : BitVec 8) (f : Mode → Nat → Nat → Res) : Out :=
  perform (lanePlan s false d [a, b] [] 1) s fun s =>
    .done (s.putRes false nw d fun l =>
      sideBySide 8 (fun j => f s.crew.mode (field (s.lane a l).toNat (8 * j) 8) (field (s.lane b l).toNat (8 * j) 8)) 4)

def execLnsadd (nw : Bool) (d : BitVec 7) (a b : BitVec 8) (s : State) : Out := lnsOp s nw d a b lnsAdd
def execLnsmul (nw : Bool) (d : BitVec 7) (a b : BitVec 8) (s : State) : Out := lnsOp s nw d a b lnsMul

end Sys2Proof.Machine
end

