-- ==== Sys2Proof/Machine/Cross.lean ====
section
/-! DEFINITION. Shuffles, reductions, scans, votes, broadcast, rendezvous and exchange (spec/08 R201 to R209). -/
namespace Sys2Proof.Machine

/-! Shuffles (R201, R202): the source lane by Table 8.11, or none. -/

def srcShfl (w _l b : Nat) : Option Nat := some (b % w)
def srcUp (_w l b : Nat) : Option Nat := if l < b then none else some (l - b)
def srcDn (w l b : Nat) : Option Nat := if l + b < w then some (l + b) else none
def srcX (w l b : Nat) : Option Nat := if l ^^^ b < w then some (l ^^^ b) else none

/-- A shuffle: every lane reads A of its source lane before any lane writes; a missing or exited source gives the fill. -/
def shuffle (s : State) (nw : Bool) (d : BitVec 7) (a b : BitVec 8) (fmt : BitVec 4) (words : Nat) (fill : Option (BitVec 8))
    (src : Nat → Nat → Nat → Option Nat) : Out :=
  let wide := fmt == 0#4
  perform { srcs := [a, b] ++ fill.toList, lp := 1, words := words
            ok := (fmt == 0#4 || fmt == 0xD#4) && s.dstOk wide d && s.srcOk wide a && s.laneOk b &&
              fill.toList.all (s.srcOk wide) } s fun s =>
    .done (s.putLane wide nw d fun l =>
      let f : DWord := match fill with
        | some c => s.laneW wide c l
        | none => 0
      match src s.width l (s.lane b l).toNat with
      | some q => if s.liveMask.getLsbD q then s.laneW wide a q else f
      | none => f)

def execShfl (nw : Bool) (d : BitVec 7) (a b : BitVec 8) (s : State) : Out := shuffle s nw d a b 0xD#4 1 none srcShfl
def execShflExt (nw : Bool) (d : BitVec 7) (a c : BitVec 8) (fmt : BitVec 4) (b : BitVec 8) (s : State) : Out :=
  shuffle s nw d a b fmt 2 (some c) srcShfl
def execShflup (nw : Bool) (d : BitVec 7) (a b : BitVec 8) (s : State) : Out := shuffle s nw d a b 0xD#4 1 none srcUp
def execShflupExt (nw : Bool) (d : BitVec 7) (a c : BitVec 8) (fmt : BitVec 4) (b : BitVec 8) (s : State) : Out :=
  shuffle s nw d a b fmt 2 (some c) srcUp
def execShfldn (nw : Bool) (d : BitVec 7) (a b : BitVec 8) (s : State) : Out := shuffle s nw d a b 0xD#4 1 none srcDn
def execShfldnExt (nw : Bool) (d : BitVec 7) (a c : BitVec 8) (fmt : BitVec 4) (b : BitVec 8) (s : State) : Out :=
  shuffle s nw d a b fmt 2 (some c) srcDn
def execShflx (nw : Bool) (d : BitVec 7) (a b : BitVec 8) (s : State) : Out := shuffle s nw d a b 0xD#4 1 none srcX
def execShflxExt (nw : Bool) (d : BitVec 7) (a c : BitVec 8) (fmt : BitVec 4) (b : BitVec 8) (s : State) : Out :=
  shuffle s nw d a b fmt 2 (some c) srcX

/-! Reductions and scans (R116, R203, R204). -/

/-- A reduction operation on values of its format (Table 8.13). -/
def redOp (opr fmt : Nat) (mode : Mode) (x y : Nat) : Res :=
  let i := signExt 32 x
  let j := signExt 32 y
  match opr with
  | 0 => { code := (x + y) % 2 ^ 32 }
  | 1 => { code := if i ≤ j then x else y }
  | 2 => { code := if i ≤ j then y else x }
  | 3 => { code := if x ≤ y then x else y }
  | 4 => { code := if x ≤ y then y else x }
  | 5 => { code := x &&& y }
  | 6 => { code := x ||| y }
  | 7 => { code := x ^^^ y }
  | 8 => fAdd fmt mode x y
  | 9 => fminmax fmt false false x y
  | 10 => fminmax fmt true false x y
  | 11 => fminmax fmt false true x y
  | _ => fminmax fmt true true x y

/-- OPR with its FMT (Table 8.13). -/
def redOk (opr fmt : Nat) : Bool := if opr < 8 then fmt == 13 else decide (opr ≤ 12) && decide (fmt ≤ 1)

/-- A lane's value in a reduction, or ABSENT, with the flags of the operations that made it. -/
abbrev Part_ := Option Nat × Nat

/-- Comb(x, y). -/
def comb (f : Nat → Nat → Res) (x y : Part_) : Part_ :=
  match x.1, y.1 with
  | none, _ => (y.1, x.2 ||| y.2)
  | _, none => (x.1, x.2 ||| y.2)
  | some a, some b => (some (f a b).code, x.2 ||| y.2 ||| (f a b).fl)

def partOf (v : List Part_) (l : Nat) : Part_ := v.getD l (none, 0)

/-- The steps s, s + 1, … of LRED (R203). -/
def redSteps (f : Nat → Nat → Res) (w : Nat) : Nat → Nat → List Part_ → List Part_
  | 0, _, v => v
  | n + 1, s, v =>
    redSteps f w n (s + 1) ((List.range w).map fun l =>
      let q := l ^^^ 2 ^ s
      comb f (partOf v (min l q)) (partOf v (max l q)))

/-- The steps of LSCAN (R204) on p, e and t. -/
def scanSteps (f : Nat → Nat → Res) (w : Nat) : Nat → Nat → List Part_ → List Part_ → List Part_ →
    List Part_ × List Part_ × List Part_
  | 0, _, p, e, t => (p, e, t)
  | n + 1, s, p, e, t =>
    let q (l : Nat) : Nat := l ^^^ 2 ^ s
    scanSteps f w n (s + 1)
      ((List.range w).map fun l => if q l < l then comb f (partOf t (q l)) (partOf p l) else partOf p l)
      ((List.range w).map fun l => if q l < l then comb f (partOf t (q l)) (partOf e l) else partOf e l)
      ((List.range w).map fun l =>
        if q l < l then comb f (partOf t (q l)) (partOf t l) else comb f (partOf t l) (partOf t (q l)))

/-- The values the active lanes bring. -/
def State.lanesIn (s : State) (wide : Bool) (a : BitVec 8) : List Part_ :=
  (List.range s.width).map fun l => if s.actMask.getLsbD l then (some (s.laneW wide a l).toNat, 0) else (none, 0)

/-- All flags of a list of parts. -/
def allFlags (v : List Part_) : Nat := v.foldl (fun m x => m ||| x.2) 0

/-- LRED (R203). -/
def execLred (nw : Bool) (d : BitVec 7) (a : BitVec 8) (fmt opr : BitVec 4) (s : State) : Out :=
  let wide := fmt == 0#4
  let toS := dS d
  perform { srcs := [a], lp := if toS then 0 else 1, up := if toS then 1 else 0
            ok := redOk opr.toNat fmt.toNat && (toS || s.dstOk wide d) && s.srcOk wide a } s fun s =>
    let r := redSteps (redOp opr.toNat fmt.toNat s.crew.mode) s.width s.width.log2 0 (s.lanesIn wide a)
    let v : DWord := dw ((partOf r 0).1.getD 0)
    let s1 := if toS then s.putS (nw || s.active.isEmpty) d v else s.putLane wide nw d fun _ => v
    .done (s1.orFpsr (allFlags r))

/-- LSCAN (R204). With EXCL = 0 C is not used: any source code that C takes is accepted and ignored (the model's choice; log entry
108). -/
def execLscan (nw : Bool) (d : BitVec 7) (a c : BitVec 8) (fmt : BitVec 4) (excl : BitVec 1) (opr : BitVec 4) (s : State) :
    Out :=
  let wide := fmt == 0#4
  perform { srcs := [a, c], lp := 1
            ok := redOk opr.toNat fmt.toNat && s.dstOk wide d && s.srcOk wide a && s.srcOk wide c } s fun s =>
    let v := s.lanesIn wide a
    let (p, e, t) := scanSteps (redOp opr.toNat fmt.toNat s.crew.mode) s.width s.width.log2 0 v
      (v.map fun _ => (none, 0)) v
    .done ((s.putLane wide nw d fun l =>
      if excl == 0#1 then dw ((partOf p l).1.getD 0)
      else match (partOf e l).1 with
        | some x => dw x
        | none => s.laneW wide c l).orFpsr (allFlags p ||| allFlags e ||| allFlags t))

/-- VOTE (R205). -/
def execVote (nw : Bool) (d : BitVec 7) (a : BitVec 8) (mode : BitVec 2) (s : State) : Out :=
  perform { srcs := [a], up := 1, ok := dS d && s.laneOk a } s fun s =>
    let ballot := s.maskWhere fun l => s.lane a l != 0
    let v : DWord := match mode.toNat with
      | 0 => ballot
      | 1 => if ballot != 0 then 1 else 0
      | 2 => if s.active.all (fun l => s.lane a l != 0) then 1 else 0
      | _ => if s.active.all (fun l => s.lane a l == s.lane a (s.active.headD 0)) then 1 else 0
    .done (s.putS nw d v)

/-- BCAST (R206). The whole 64 bits of the uniform B are the lane's number: the spec does not say how many are read (the model's choice;
log entry 107). -/
def execBcast (nw : Bool) (d : BitVec 7) (a b c : BitVec 8) (s : State) : Out :=
  let toS := dS d
  perform { srcs := [a, b, c], lp := if toS then 0 else 1, up := if toS then 1 else 0
            ok := isUniform b && s.laneOk a && (if toS then isUniform c else s.dV d && s.laneOk c) } s fun s =>
    let q := (s.uni b).toNat
    let v (l : Nat) : DWord :=
      if decide (q < s.width) && s.liveMask.getLsbD q then (s.lane a q).setWidth 64 else (s.lane c l).setWidth 64
    .done (if toS then s.putS nw d (v 0) else s.putLane false nw d v)

/-! Rendezvous and exchange (R207, R208). A send is a release at TEAM scope, an exchange one at PACKAGE scope: it waits for the
crew's earlier accesses (R316, Table 13.3). -/

def execRvsend (a : BitVec 8) (n1 : BitVec 3) (slot : BitVec 4) (s : State) : Out :=
  let n := n1.toNat + 1
  perform { srcs := [a], ends := true, ok := isV a && s.vBlockOk a.toNat n } s fun s =>
    match s.ordered 2#2 1#3 with
    | none => .unready
    | some s => .wait s (.rvsend slot.toNat a.toNat n)

def execRvrecv (d : BitVec 7) (c : BitVec 8) (n1 : BitVec 3) (slot : BitVec 4) (s : State) : Out :=
  let n := n1.toNat + 1
  perform { srcs := [c], ends := true, ok := decide (d.toNat < 0x60) && s.vBlockOk d.toNat n && s.laneOk c } s fun s =>
    .wait s (.rvrecv slot.toNat d.toNat n c.toNat)

def execXchgx (d : BitVec 7) (a : BitVec 8) (n1 : BitVec 2) (ch : BitVec 8) (s : State) : Out :=
  let n := n1.toNat + 1
  perform { srcs := [a], ends := true
            ok := isV a && decide (d.toNat < 0x60) && s.vBlockOk a.toNat n && s.vBlockOk d.toNat n } s fun s =>
    match s.ordered 2#2 4#3 with
    | none => .unready
    | some s => .wait s (.xchgx ch.toNat d.toNat a.toNat n)

/-- Of two crews the one blocked earlier. -/
def earlier (s : State) (best : Option Nat) (k : Nat) : Option Nat :=
  match best with
  | none => some k
  | some b => if (s.crewAt k).order < (s.crewAt b).order then some k else some b

/-- The crew blocked earliest among those that a test selects, in a team or a launch. -/
def State.firstBlocked (s : State) (p : Nat → Block → Bool) : Option Nat :=
  (s.crews.filterMap fun e => match e.2.block with
    | some b => if e.2.bound && !e.2.halted && p e.1 b then some e.1 else none
    | none => none).foldl (earlier s) none

/-- Write n registers of crew k in some lanes; f gives register and lane. -/
def State.writeBlock (s : State) (k d n : Nat) (ls : List Nat) (f : Nat → Nat → Word) : State :=
  s.setCrewAt k ((List.range n).foldl (fun c j => c.setVs (d + j) ls (f j)) (s.crewAt k))

/-- RENDEZVOUS_MATCH (R207): the earliest send and the earliest receive of a team's slot are matched whole. -/
def execRendezvousMatch (team slot : Nat) (s : State) : Out :=
  let snd := s.firstBlocked fun k b => match b with
    | .rvsend sl _ _ => slotOf k == team && sl == slot
    | _ => false
  let rcv := s.firstBlocked fun k b => match b with
    | .rvrecv sl _ _ _ => slotOf k == team && sl == slot
    | _ => false
  match snd, rcv with
  | some ks, some kr =>
    match (s.crewAt ks).block, (s.crewAt kr).block with
    | some (.rvsend _ a n), some (.rvrecv _ d m c) =>
      let sender := s.crewAt ks
      let live := (s.at_ ks).liveMask
      let sr := s.at_ kr
      let s1 := s.writeBlock kr d m sr.active fun j l =>
        if j < n ∧ live.getLsbD l then sender.getV (a + j) l else sr.lane (BitVec.ofNat 8 c) l
      .next ((((s1.at_ ks).unblock 2).at_ kr).unblock 2)
    | _, _ => .refused (.notEnabled "RENDEZVOUS_MATCH")
  | _, _ => .refused (.notEnabled "RENDEZVOUS_MATCH")

/-- XCHGX_PAIR (R208): the first unpaired crew of a launch's channel and the next one; both read before either writes. -/
def execXchgxPair (launch ch : Nat) (s : State) : Out :=
  let on (skip : Option Nat) := s.firstBlocked fun k b => match b with
    | .xchgx c _ _ _ => (s.teamAt (slotOf k)).launch == launch && c == ch && skip != some k
    | _ => false
  let k1 := on none
  match k1, on k1 with
  | some k1, some k2 =>
    match (s.crewAt k1).block, (s.crewAt k2).block with
    | some (.xchgx _ d1 a1 n1), some (.xchgx _ d2 a2 n2) =>
      let c1 := s.crewAt k1
      let c2 := s.crewAt k2
      let both := (s.at_ k1).active.filter (fun l => (s.at_ k2).active.contains l)
      let n := min n1 n2
      let s1 := s.writeBlock k1 d1 n both fun j l => c2.getV (a2 + j) l
      let s2 := s1.writeBlock k2 d2 n both fun j l => c1.getV (a1 + j) l
      .next ((((s2.at_ k1).unblock 2).at_ k2).unblock 2)
    | _, _ => .refused (.notEnabled "XCHGX_PAIR")
  | _, _ => .refused (.notEnabled "XCHGX_PAIR")

end Sys2Proof.Machine
end

