-- ==== Sys2Proof/Machine/Kv.lean ====
section
/-! DEFINITION. KVMAP and KVAPP (spec/10 R255 to R260). -/
namespace Sys2Proof.Machine

/-- Tokens of a page. -/
def KvDesc.btok (d : KvDesc) : Nat := 2 ^ d.bLog
/-- LSTR (R256). -/
def KvDesc.lstr (d : KvDesc) : Nat := 2 * d.btok * d.rowb

/-- Where an access of these instructions fails: a check of stage 4 by its rank, or a REMOTE page, which is the KV trap. -/
inductive KvFail where
  | check (rank addr : Nat)
  | kv
deriving DecidableEq, Repr

/-- Some page of an access is REMOTE; an address past 57 bits names no page (R62). -/
def State.spanRemote (s : State) (va n : Nat) : Bool :=
  (pieces va n).any fun p => decide (p.1 < 2 ^ 57) && (s.translate s.cl s.team.ctx p.1).any fun g => pteRemote g.pte

/-- The parts of an access: none may lie on a REMOTE page, which stage 3 finds before any check of stage 4 (R244, R401); a read
of a poisoned granule fails (R418). -/
def State.kvSpan (s : State) (need : Need) (va n : Nat) : Except KvFail (List Piece) :=
  if s.spanRemote (va % 2 ^ 64) n then .error .kv
  else
    match s.check need (va % 2 ^ 64) n with
    | .error r => .error (.check r (va % 2 ^ 64))
    | .ok ps => if need.r && s.piecesPoisoned ps then .error (.check 5 (va % 2 ^ 64)) else .ok ps

/-- Reads of ranges that have been made: their walks are kept, and the leases on their lines recalled (R66, R74). -/
def State.touchSpans (s : State) (xs : List (Nat × Nat)) : State :=
  xs.foldl (fun t x => t.keepSpan s.cl s.team.ctx s.team.sec (x.1 % 2 ^ 64) x.2) s

/-- The accesses that reads of ranges make at issue. -/
def State.spanAccs (s : State) (x : Acc) (rs : List (Nat × Nat)) : List Acc :=
  rs.flatMap fun r => match s.check {} (r.1 % 2 ^ 64) r.2 with
    | .ok ps => readAccs x ps
    | .error _ => []

/-- Reads of the current crew that are performed at issue, since a trap of theirs is precise (R388): none where they wait, for earlier
accesses or for a store of another crew that they must find. -/
def State.reads (s : State) (bs : List Acc) : Option State := if s.lateFound bs then none else s.passing bs

/-- The value of n bytes. -/
def State.kvRead (s : State) (need : Need) (va n : Nat) : Except KvFail Nat :=
  (s.kvSpan need va n).map s.readPieces

/-- The descriptor at an address (R255). -/
def State.kvDesc (s : State) (a layer : Nat) : Except KvFail KvDesc :=
  if a % 64 ≠ 0 then .error .kv
  else
    match s.kvRead { r := true } a 64 with
    | .error e => .error e
    | .ok v =>
      let d : KvDesc :=
        { vl := field v 384 64, pr := field v 320 64, bt := field v 256 64, w := field v 224 32, s := field v 192 32
          nlayer := field v 176 16, rowb := 16 * field v 160 16, bLog := field v 8 4, es := 2 ^ field v 4 2
          mode := field v 0 1 }
      if 4 ≤ d.bLog ∧ d.bLog ≤ 8 ∧ d.w % d.btok = 0 ∧ d.s % d.btok = 0 ∧ d.btok ≤ d.w ∧ 1 ≤ d.nlayer ∧ 1 ≤ d.rowb ∧
          d.rowb % (16 * d.es) = 0 ∧ layer < d.nlayer then .ok d
      else .error .kv

/-- The page, offset and generation of a position (R257). -/
def KvDesc.map (d : KvDesc) (p : Nat) : Nat × Nat × Nat :=
  let (slot, ge) := if p < d.s then (p, 0) else (d.s + (p - d.s) % d.w, (p - d.s) / d.w)
  (slot / d.btok, slot % d.btok, ge)

/-- GEN and FILL of a page record (Table 10.7). -/
def recGen (r : Nat) : Nat := field r 0 32
def recFill (r : Nat) : Nat := field r 32 16

/-- The layer block of a page (R256). -/
def KvDesc.block (d : KvDesc) (page layer : Nat) : Nat := page + layer * d.lstr
/-- The K row of an offset. -/
def KvDesc.kAt (d : KvDesc) (base o : Nat) : Nat := base + o * d.rowb
/-- The V place of element c of an offset, mode 0 or mode 1. -/
def KvDesc.vAt (d : KvDesc) (base o c : Nat) : Nat :=
  if d.mode = 0 then base + d.btok * d.rowb + o * d.rowb + c * d.es
  else base + d.btok * d.rowb + ((o / 16 * (d.rowb / d.es) + c) * 16 + o % 16) * d.es

/-- The trap of a failure outside the lanes: every active lane has it (R390). -/
def State.kvTrap (s : State) (a : Nat) (e : KvFail) : Trap :=
  match e with
  | .kv => { code := 0x0B, lanes := s.actMask, addr := dw a }
  | .check r addr => { code := codeOfRank r, lanes := s.actMask, addr := dw addr }

/-- The trap of the lanes' failures: a REMOTE page in any lane is the KV trap of stage 3, before the checks of stage 4. -/
def State.kvLanes (s : State) (a : Nat) (fs : List (Nat × KvFail)) : Option Trap :=
  if fs.any (fun f => f.2 == .kv) then some (s.kvTrap a .kv)
  else stage4 (fs.filterMap fun f => match f.2 with
    | .check r addr => some (f.1, addr, r)
    | .kv => none)

/-- A lane of KVMAP: its result (R257, R259). -/
def State.kvMapLane (s : State) (d : KvDesc) (layer vl sel p : Nat) : Except KvFail Nat :=
  if vl ≤ p ∨ (d.s ≤ p ∧ p < max d.s (vl - d.w)) then .ok 0
  else
    let (j, o, ge) := d.map p
    let valid : Except KvFail Bool :=
      if p < d.s then .ok true
      else (s.kvRead { r := true } (d.pr + 8 * j) 8).map fun r =>
        (ge == recGen r && decide (o < recFill r)) || (ge + 1 == recGen r && decide (recFill r ≤ o))
    match valid with
    | .error e => .error e
    | .ok false => .ok 0
    | .ok true =>
      match s.kvRead { r := true } (d.bt + 8 * j) 8 with
      | .error e => .error e
      | .ok 0 => .error (.check 2 ((d.bt + 8 * j) % 2 ^ 64))
      | .ok page =>
        let base := d.block page layer
        let at_ := if sel = 0 then d.kAt base o else d.vAt base o 0
        .ok ((at_ % 2 ^ 64) ||| 1)

/-- What a lane of KVMAP reads beside the descriptor and VL: its page record, and its block-table entry where it is used (R259). -/
def State.kvMapReads (s : State) (d : KvDesc) (layer vl sel p : Nat) : List (Nat × Nat) :=
  if vl ≤ p ∨ (d.s ≤ p ∧ p < max d.s (vl - d.w)) then []
  else
    let j := (d.map p).1
    (if p < d.s then [] else [(d.pr + 8 * j, 8)]) ++ (match s.kvMapLane d layer vl sel p with
      | .ok 0 => []
      | _ => [(d.bt + 8 * j, 8)])

/-- What a lane of KVMAP reads, as far as its reads succeed. -/
def State.kvMapSpans (s : State) (addr layer sel p : Nat) : List (Nat × Nat) :=
  (addr, 64) :: (match s.kvDesc addr layer with
    | .error _ => []
    | .ok d => (d.vl + 8 * layer, 8) :: (match s.kvRead { r := true } (d.vl + 8 * layer) 8 with
      | .ok vl => s.kvMapReads d layer vl sel p
      | .error _ => []))

/-- KVMAP. -/
def execKvmap (d : BitVec 7) (a b c : BitVec 8) (strm : BitVec 4) (scope : BitVec 3) (ord : BitVec 2) (sel : BitVec 1) (s : State) :
    Out :=
  perform { srcs := [a, b, c]
            ok := s.dPair d && s.laneOk a && isUniform b && isUniform c && ordOk [0, 1] ord && scopeOk scope } s fun s =>
    let addr := (s.uni b).toNat
    let layer := (s.uni c).toNat
    let p (l : Nat) : Nat := (s.lane a l).toNat
    let spans (l : Nat) : List (Nat × Nat) := s.kvMapSpans addr layer sel.toNat (p l)
    if s.active.isEmpty then .done s
    else
      match s.reads (s.active.flatMap fun l => s.spanAccs { s.accOf true false strm scope ord with lane := l } (spans l)) with
      | none => .unready
      | some s =>
        match s.kvDesc addr layer with
        | .error e => .trap (s.kvTrap addr e)
        | .ok desc =>
          match s.kvRead { r := true } (desc.vl + 8 * layer) 8 with
          | .error e => .trap (s.kvTrap addr e)
          | .ok vl =>
            let rs := s.active.map fun l => (l, s.kvMapLane desc layer vl sel.toNat (p l))
            let fs := rs.filterMap fun r => match r.2 with
              | .error e => some (r.1, e)
              | .ok _ => none
            match s.kvLanes addr fs with
            | some t => .trap t
            | none =>
              let v (l : Nat) : DWord := match lookup rs l with
                | some (.ok x) => dw x
                | _ => 0
              let s1 := s.touchSpans (s.active.flatMap spans)
              .done (s1.setCrew (s1.crew.setPairs d.toNat s.active v))

/-- Every part that a lane writes. -/
def KvPlan.pieces (x : KvPlan) : List Piece := x.entry ++ x.len ++ x.k ++ x.v

/-- The parts of a V block of 16 tokens in mode 1 that a lane writes: all where it clears the block, else those in which a place of
its token lies. -/
def State.kvBlock (s : State) (d : KvDesc) (va o : Nat) (clears : Bool) : Except KvFail (List Piece) :=
  let hit (p : Nat × Nat × Nat) : Bool := clears || (List.range (d.rowb / d.es)).any fun c =>
    let at_ := (c * 16 + o % 16) * d.es
    decide (p.2.2 < at_ + d.es) && decide (at_ < p.2.2 + p.2.1)
  (((pieces (va % 2 ^ 64) (16 * d.rowb)).filter hit).mapM fun p =>
    (s.kvSpan { w := true } p.1 p.2.1).map fun ps => ps.map fun (q : Piece) => { q with off := q.off + p.2.2 }).map (·.flatten)

/-- The failures of a lane of KVAPP, and its plan unless it is skipped (R259, R260): the record is read first, and a lane that
it lets skip has no other check (log entry 80). -/
def State.kvAppLane (s : State) (d : KvDesc) (layer l p src : Nat) : List KvFail × Option KvPlan :=
  let part := s.team.part
  let range : List KvFail := if src % 16 ≠ 0 ∨ part.size < src + 2 * d.rowb then [.check 1 src]
    else if part.poisoned src (2 * d.rowb) then [.check 5 src] else []
  let (j, o, ge) := d.map p
  let failOf (e : Except KvFail (List Piece)) : List KvFail × List Piece := match e with
    | .error f => ([f], [])
    | .ok ps => ([], ps)
  let (fr, rps) := failOf (s.kvSpan { r := true } (d.pr + 8 * j) 8)
  let record := s.readPieces rps
  if d.s ≤ p ∧ !fr.isEmpty then (range ++ fr, none)
  else if d.s ≤ p ∧ ge < recGen record then ([], none)
  else
    let (f0, _) := failOf (s.kvSpan { w := true } (d.pr + 8 * j) 8)
    let (f1, vps) := failOf (s.kvSpan { w := true } (d.vl + 8 * layer) 8)
    let fs := range ++ fr ++ f0 ++ f1
    match s.kvRead { r := true } (d.bt + 8 * j) 8 with
    | .error e => (fs ++ [e], none)
    | .ok 0 => (fs ++ [.check 2 ((d.bt + 8 * j) % 2 ^ 64)], none)
    | .ok page =>
      let base := d.block page layer
      let (f2, kps) := failOf (s.kvSpan { w := true } (d.kAt base o) d.rowb)
      let (f3, wps) := failOf (if d.mode = 0 then s.kvSpan { w := true } (d.vAt base o 0) d.rowb
        else s.kvBlock d (base + d.btok * d.rowb + o / 16 * 16 * d.rowb) o (ge == 0 && decide (recFill record ≤ o / 16 * 16)))
      (fs ++ f2 ++ f3, some {
        lane := l, p := p, o := o, ge := ge, kBytes := part.read src d.rowb, vBytes := part.read (src + d.rowb) d.rowb
        entry := rps, len := vps, k := kps, v := wps })

/-- The earliest failing check of a lane. -/
def firstFail (fs : List KvFail) : Option KvFail :=
  fs.foldl (fun m f => match m, f with
    | none, f => some f
    | some .kv, _ => some .kv
    | some _, .kv => some .kv
    | some (.check r a), .check q b => some (if q < r then .check q b else .check r a)) none

/-- The parts of n bytes from an offset on of an access. -/
def subPieces (ps : List Piece) (off n : Nat) : List Piece :=
  ps.filterMap fun p =>
    let lo := max off p.off
    let hi := min (off + n) (p.off + p.n)
    if lo < hi then
      some { page := { p.page with pa := p.page.pa + (lo - p.off) }, n := hi - lo, off := lo - off, va := p.va + (lo - p.off) }
    else none

/-- Write bytes through checked parts from an offset on. -/
def State.kvWrite (s : State) (ps : List Piece) (off : Nat) (bs : List Byte) : State :=
  let qs := subPieces ps off bs.length
  (s.recallAll qs).writePieces qs (natOf bs)

/-- A lane of KVAPP performed in one step (R260, R311): the record is read anew, so that an earlier lane's change counts. -/
def State.kvAppDo (s : State) (d : KvDesc) (x : KvPlan) : State :=
  let r := s.readPieces x.entry
  let g := recGen r
  let f := recFill r
  if d.s ≤ x.p ∧ x.ge < g then s
  else
    let s1 := s.kvWrite x.k 0 x.kBytes
    let s2 :=
      if d.mode = 0 then s1.kvWrite x.v 0 x.vBytes
      else
        let zeroed := if x.ge = 0 ∧ f ≤ x.o / 16 * 16 then s1.kvWrite x.v 0 (List.replicate (16 * d.rowb) 0) else s1
        (List.range (d.rowb / d.es)).foldl (fun s c =>
          s.kvWrite x.v ((c * 16 + x.o % 16) * d.es) ((x.vBytes.drop (c * d.es)).take d.es)) zeroed
    let (g', f') := if x.p < d.s ∨ x.ge = g then (g, max f (x.o + 1)) else (x.ge, x.o + 1)
    let r' := r - g - f * 2 ^ 32 + g' % 2 ^ 32 + f' % 2 ^ 16 * 2 ^ 32
    (s2.kvWrite x.entry 0 (bytesOf 8 r')).kvWrite x.len 0 (bytesOf 8 (x.p + 1))

/-- KVAPP: its checks are made at issue, and each lane that is not skipped appends in a step of its own later, in ascending order (R260,
R311). -/
def execKvapp (a b c : BitVec 8) (strm : BitVec 4) (scope : BitVec 3) (ord : BitVec 2) (s : State) : Out :=
  perform { srcs := [a, b, c], ends := true
            ok := isV a && s.pairOk a && s.vOk (a.toNat + 1) && isUniform b && isUniform c && ordOk [0, 2] ord && scopeOk scope } s
    fun s =>
    let addr := (s.uni b).toNat
    let layer := (s.uni c).toNat
    let p (l : Nat) : Nat := (s.crew.getV a.toNat l).toNat
    let x := s.accOf true true strm scope ord
    let spans (l : Nat) : List (Nat × Nat) := (addr, 64) :: (match s.kvDesc addr layer with
      | .ok d => [(d.pr + 8 * (d.map (p l)).1, 8), (d.bt + 8 * (d.map (p l)).1, 8)]
      | .error _ => [])
    let read (l : Nat) : Acc := { x with lane := l, wr := false, rel := false }
    if s.active.isEmpty then .done s
    else
      match s.reads (s.active.flatMap fun l => read l :: s.spanAccs (read l) (spans l)) with
      | none => .unready
      | some s =>
        match s.kvDesc addr layer with
        | .error e => .trap (s.kvTrap addr e)
        | .ok desc =>
          let rs := s.active.map fun l => (l, s.kvAppLane desc layer l (p l) (s.crew.getV (a.toNat + 1) l).toNat)
          match s.kvLanes addr (rs.filterMap fun r => (firstFail r.2.1).map fun f => (r.1, f)) with
          | some t => .trap t
          | none =>
            let xs := rs.filterMap (·.2.2)
            match s.cowBlock (xs.map fun x => (x.lane, 0, x.pieces)) with
            | some b => .wait s b
            | none =>
              let s1 := (s.touchSpans (s.active.flatMap spans)).keepWalks (xs.flatMap fun x => x.pieces.map (·.va))
              .done (s1.pendAll (xs.map fun y => { x with lane := y.lane, op := .kv desc y }))

end Sys2Proof.Machine
end

