-- ==== Sys2Proof/Machine/Conv.lean ====
section
/-! DEFINITION. Conversations (spec/12 R294 to R306, spec/16 R368, spec/23 R407, R408, spec/26 R430). -/
namespace Sys2Proof.Machine

/-! Handles and role values (Table 12.5). -/

def roleConv (v : DWord) : Nat := field v.toNat 0 12
def roleDev (v : DWord) : Nat := field v.toNat 12 9
def roleRole (v : DWord) : Nat := field v.toNat 24 3
def roleGen (v : DWord) : Nat := field v.toNat 32 16
def roleNonce (v : DWord) : Nat := field v.toNat 48 16
def roleValue (conv dev role gen nonce : Nat) : DWord :=
  dw (conv + dev * 2 ^ 12 + role * 2 ^ 24 + gen * 2 ^ 32 + nonce * 2 ^ 48)

/-! Protocol tables (R294). -/

/-- NS, NR and NK of a header (Table 12.3). -/
def tableNs (h : Nat) : Nat := field h 24 6 + 1
def tableNr (h : Nat) : Nat := field h 8 3 + 1
def tableNk (h : Nat) : Nat := field h 16 5 + 1

/-- Bytes of the table of a header. -/
def tableSize (h : Nat) : Nat := 64 + 2 * (tableNs h * tableNr h * tableNk h)

/-- The entries of a table's bytes. -/
def tableEntries (h : Nat) (bs : List Byte) : List (BitVec 16) :=
  (List.range (tableNs h * tableNr h * tableNk h)).map fun i => BitVec.ofNat 16 (natOf ((bs.drop (64 + 2 * i)).take 2))

/-- A table is well formed. -/
def tableOk (h : Nat) (bs : List Byte) : Bool :=
  h == h &&& 0x3F1F0700 &&
    (tableEntries h bs).all fun e =>
      e &&& 0x0FC0#16 == 0 && (!e.getLsbD 15 ||
        (decide (field e.toNat 0 6 < tableNs h) && decide (field e.toNat 12 3 < tableNr h)))

/-- The entry of (state, role, kind); one outside the table is not valid (R407). -/
def Conv.entry (c : Conv) (role kind : Nat) : BitVec 16 :=
  if role < c.nr ∧ kind < c.nk then c.entries.getD ((c.state * c.nr + role) * c.nk + kind) 0 else 0

/-- The state has no valid entry. -/
def Conv.terminal (c : Conv) : Bool :=
  (List.range (c.nr * c.nk)).all fun i => !(c.entries.getD (c.state * c.nr * c.nk + i) 0).getLsbD 15

def Conv.nonce (c : Conv) (role : Nat) : Nat := fget 0 c.nonces role

/-! Traps and answers. -/

/-- The conversation trap (R306). -/
def State.convTrap (s : State) (reason detail : Nat) : Trap :=
  { code := 0x0F, lanes := s.actMask, addr := dw (reason * 2 ^ 32 + detail) }

/-- A key from which the requests of other devices are held at the homes here. -/
def remoteParty : Nat := 24576

/-- A request is refused: the crew takes the trap, or the refusal leaves for another device. -/
def State.convRefuse (s : State) (k reason detail : Nat) : State :=
  if k < remoteParty then (s.at_ k).trapHere ((s.at_ k).convTrap reason detail) true
  else if k = goneKey then s
  else { s with crews := erase s.crews k, hostRead := BitVec.ofNat 2112 (reason * 2 ^ 64 + detail) }

/-- A request has its answer: the crew's state changes by f and it goes on, or the answer leaves for another device. -/
def State.convAnswer (s : State) (k : Nat) (value : DWord) (f : Crew → Crew) : State :=
  if k < remoteParty then
    let s1 := s.at_ k
    (s1.setCrew (f s1.crew)).unblock 2
  else if k = goneKey then s
  else { s with crews := erase s.crews k, hostRead := value.setWidth 2112 }

/-- Write a role register. -/
def Crew.setRole (c : Crew) (rr : Nat) (v : DWord) : Crew := { c with cvrole := fset 0 c.cvrole rr v }
def Crew.getRole (c : Crew) (rr : Nat) : DWord := fget 0 c.cvrole rr

/-! Issue. -/

/-- This device's number. -/
def State.ownDev (s : State) : Nat := s.devnum

/-- The message of a request to a home on another device (R368): kind 7 of a fabric request, with its payload whole and the
requester's world. -/
def State.convRequest (s : State) (r : ConvReq) (target : DWord) : FabReq :=
  let dev := roleDev target
  let p := (roleConv target % 64) ^^^ (dev % 64)
  let down := s.reg 0 0x6020
  { kind := 7, dev := dev, rctx := 0, sec := r.sec, va := target, size := r.payload.length, aop := BitVec.ofNat 5 r.kind
    fmt := BitVec.ofNat 4 r.op, data := dw (natOf (r.payload.take 8)), data2 := 0, payload := r.payload, crew := s.cur, lane := 0
    plane := (((List.range 64).map fun j => (p + j) % 64).find? (fun q => !down.getLsbD q)).getD p }

/-- Send a request to its home and wait for the answer. -/
def State.askHome (s : State) (r : ConvReq) (target : DWord) : Effect :=
  if roleDev target = s.ownDev then .wait s (.conv r)
  else .wait (s.send [s.convRequest r target]).1 (.conv r)

/-- The address of a failing read of a protocol table, by its rank. -/
def State.tableTrap (s : State) (a rank : Nat) : Trap := { code := codeOfRank rank, lanes := s.actMask, addr := dw a }

/-- The read of a protocol table as an access of its stream. -/
def State.tableAccs (s : State) (strm : BitVec 4) (scope : BitVec 3) (ord : BitVec 2) (ps : List Piece) : List Acc :=
  readAccs (s.accOf true false strm scope ord) ps

/-- CVOPEN (R298): the table is read and checked at issue; every check of the read comes before that of R294 (R401). -/
def execCvopen (d : BitVec 7) (a : BitVec 8) (strm : BitVec 4) (scope : BitVec 3) (ord : BitVec 2) (s : State) : Out :=
  perform { srcs := [a], ends := true, ok := dS d && isUniform a && scopeOk scope } s fun s =>
    let va := (s.uni a).toNat
    match s.ordered ord scope with
    | none => .unready
    | some s =>
      match s.check { r := true } va 64 with
      | .error r => .trap (s.tableTrap va r)
      | .ok ps =>
        if anyRemote ps then .trap (s.tableTrap va 3)
        else
          match s.reads (s.tableAccs strm scope ord ps) with
          | none => .unready
          | some s =>
            if s.piecesPoisoned ps then .trap (s.tableTrap va 5)
            else
              let h := s.readPieces ps
              match s.check { r := true } va (tableSize h) with
              | .error r => .trap (s.tableTrap va r)
              | .ok qs =>
                let bs := bytesOf (tableSize h) (s.readPieces qs)
                if anyRemote qs then .trap (s.tableTrap va 3)
                else
                  match s.reads (s.tableAccs strm scope ord qs) with
                  | none => .unready
                  | some s =>
                    if s.piecesPoisoned qs then .trap (s.tableTrap va 5)
                    else if va % 64 ≠ 0 || !tableOk h bs then .trap (s.convTrap 6 0)
                    else .wait ((s.keepWalks (qs.map (·.va))).recallAll qs) (.conv {
                      op := 0, d := sNum d, sec := s.team.sec, table := dw va, bytes := bs })

/-- CVBIND (R299). -/
def execCvbind (a : BitVec 8) (_strm : BitVec 4) (scope : BitVec 3) (ord : BitVec 2) (rr : BitVec 2) (role : BitVec 3) (s : State) : Out :=
  perform { srcs := [a], ends := true, ok := isUniform a && scopeOk scope } s fun s =>
    match s.ordered ord scope with
    | none => .unready
    | some s =>
      let h := s.uni a
      let v := roleValue (roleConv h) (roleDev h) role.toNat (roleGen h) 0
      s.askHome { op := 1, role := v, rr := rr.toNat, sec := s.team.sec } v

/-- A location word of a conversation payload: HERE, within the core part (R268, R301). -/
def State.payloadAt (s : State) (w : DWord) (n : Nat) : Option Nat :=
  let off := field w.toNat 0 32
  if field w.toNat 32 32 = 0x80000000 ∧ off % 16 = 0 ∧ n % 16 = 0 ∧ n ≤ 256 ∧ off + n ≤ s.team.part.size then some off else none

/-- The scratchpad-range trap of a payload. -/
def State.payloadTrap (s : State) (w : DWord) : Trap := { code := 0x07, lanes := s.actMask, addr := dw (field w.toNat 0 32) }

/-- The place of a payload's access to the core part in its stream (R297, R67). -/
def State.payloadAcc (s : State) (load : Bool) (strm : BitVec 4) : Acc := { seq := s.fresh, rd := load, wr := !load, strm := strm.toNat }

/-- CVSEND (R301): the payload is read at issue. -/
def execCvsend (a b : BitVec 8) (strm : BitVec 4) (scope : BitVec 3) (ord : BitVec 2) (im : BitVec 1) (rr : BitVec 2) (kind : BitVec 5)
    (s : State) : Out :=
  perform { srcs := [a, b], ends := true, ok := isUniform a && isUniform b && ordOk [0, 2] ord && scopeOk scope } s fun s =>
    let v := s.crew.getRole rr.toNat
    if v = 0 then .trap (s.convTrap 3 0)
    else
      match s.ordered ord scope with
      | none => .unready
      | some s =>
        let r : ConvReq := { op := 2, role := v, kind := kind.toNat, rr := rr.toNat, sec := s.team.sec }
        if im = 1 then s.askHome { r with payload := bytesOf 8 (s.uni a).toNat, imm := true } v
        else
          match s.payloadAt (s.uni a) (s.uni b).toNat with
          | none => .trap (s.payloadTrap (s.uni a))
          | some off =>
            match s.passing [s.payloadAcc true strm] with
            | none => .unready
            | some s => s.askHome { r with payload := s.team.part.read off (s.uni b).toNat } v

/-- CVCHOOSE. -/
def execCvchoose (_strm : BitVec 4) (scope : BitVec 3) (ord : BitVec 2) (rr : BitVec 2) (kind : BitVec 5) (s : State) : Out :=
  perform { ends := true, ok := ordOk [0, 2] ord && scopeOk scope } s fun s =>
    let v := s.crew.getRole rr.toNat
    if v = 0 then .trap (s.convTrap 3 0)
    else
      match s.ordered ord scope with
      | none => .unready
      | some s => s.askHome { op := 3, role := v, kind := kind.toNat, rr := rr.toNat, sec := s.team.sec } v

/-- CVRECV (R302). Its payload is written while it blocks, before anything that the crew issues later. -/
def execCvrecv (d : BitVec 7) (a : BitVec 8) (strm : BitVec 4) (scope : BitVec 3) (ord : BitVec 2) (rr : BitVec 2) (s : State) : Out :=
  perform { srcs := [a], ends := true
            ok := dS d && d.toNat % 2 == 0 && isUniform a && ordOk [0, 1] ord && scopeOk scope } s fun s =>
    let v := s.crew.getRole rr.toNat
    let b : Block := .cvrecv (sNum d) rr.toNat (s.uni a) (a == 0x88#8)
    if v = 0 then .trap (s.convTrap 3 0)
    else if a != 0x88#8 && (s.payloadAt (s.uni a) 0).isNone then .trap (s.payloadTrap (s.uni a))
    else
      match (if a == 0x88#8 then some s else s.passing [s.payloadAcc false strm]) with
      | none => .unready
      | some s =>
        if roleDev v = s.ownDev then .wait s b
        else .wait (s.send [s.convRequest { op := 6, role := v, sec := s.team.sec } v]).1 b

/-- CVDELEG (R303): the passed role's home answers first. -/
def execCvdeleg (_strm : BitVec 4) (scope : BitVec 3) (ord : BitVec 2) (rrp rr : BitVec 2) (kind : BitVec 5) (s : State) : Out :=
  perform { ends := true, ok := rr != rrp && ordOk [0, 2] ord && scopeOk scope } s fun s =>
    let v := s.crew.getRole rr.toNat
    let p := s.crew.getRole rrp.toNat
    if v = 0 ∨ p = 0 then .trap (s.convTrap 3 0)
    else
      match s.ordered ord scope with
      | none => .unready
      | some s => s.askHome { op := 4, role := v, kind := kind.toNat, rr := rr.toNat, rrp := rrp.toNat, sec := s.team.sec, passed := p } p

/-- CVCLOSE (R304). -/
def execCvclose (_strm : BitVec 4) (scope : BitVec 3) (ord : BitVec 2) (rr : BitVec 2) (s : State) : Out :=
  perform { ends := true, ok := scopeOk scope } s fun s =>
    let v := s.crew.getRole rr.toNat
    if v = 0 then .trap (s.convTrap 3 0)
    else
      match s.ordered ord scope with
      | none => .unready
      | some s => s.askHome { op := 5, role := v, rr := rr.toNat, sec := s.team.sec } v

/-! The home. -/

/-- CVMEM of a die (R368). -/
def State.cvmem (s : State) (die : Nat) : Nat := (s.reg 0 (0x40 + 8 * die)).toNat

/-- The physical address of a message slot: the die's region holds 16 slots of 272 bytes for each of its 512 conversations
(R368; their order there is the model's choice, log entry 92). -/
def State.slotPa (s : State) (conv slot : Nat) : Nat := s.cvmem (conv / 512) + 272 * (16 * (conv % 512) + slot)

/-- The slot that the home gives a message: the lowest free one (log entry 92). -/
def Conv.freeSlot (c : Conv) : Nat := ((List.range 16).find? fun j => c.msgs.all fun m => m.slot != j).getD 0

/-- A message stands in its slot: a 16-byte header, then its payload (R295). -/
def State.fillSlot (s : State) (conv slot : Nat) (payload : List Byte) : State :=
  let pa := s.slotPa conv slot
  ((s.recallRun pa 272).storePhys pa (bytesOf 16 (Config.slotHeader s.fresh).toNat)).storePhys (pa + 16) payload

/-- The payload of a message, from its slot. -/
def State.slotPayload (s : State) (conv : Nat) (m : Msg) : List Byte :=
  bytesOf m.len (s.loadPhys (s.slotPa conv m.slot + 16) m.len)

/-- The first three tests of R300: the reason of the first that fails. -/
def Conv.refusal (c : Conv) (v : DWord) (sec : Bool) : Option Nat :=
  if roleGen v ≠ c.gen then some 2
  else if roleNonce v = 0 ∨ roleNonce v ≠ c.nonce (roleRole v) then some 3
  else if sec != c.sec then some 5
  else none

/-- A fresh nonce, other than the role's previous one (R299). -/
def State.freshNonce (s : State) (previous : Nat) : Nat :=
  let n := 1 + Config.nonce s.fresh % 65535
  if n = previous then n % 65535 + 1 else n

/-- Bytes of the tables that a die's store holds: open conversations of one table share a copy (R295). -/
def State.storeUsed (s : State) (die : Nat) : Nat :=
  let cs := s.convs.filter fun e => e.1 / 512 == die && e.2.isOpen
  (cs.foldl (fun (a : List (Nat × DWord × List (BitVec 16)) × Nat) e =>
    let key := (e.2.ctx, e.2.table, e.2.entries)
    if a.1.contains key then a else (key :: a.1, a.2 + 64 + 2 * e.2.entries.length)) ([], 0)).2

/-- The conversation that CVOPEN takes (R298): the lowest free one of the issuing die, else of the device. -/
def State.freeConv (s : State) (die : Nat) : Option Nat :=
  let free (c : Nat) : Bool := !(s.convAt c).isOpen && s.cvmem (c / 512) != 0
  match ((List.range 512).map (512 * die + ·)).find? free with
  | some c => some c
  | none => (List.range 4096).find? free

/-- A home opens a conversation for a crew. -/
def State.openConv (s : State) (k : Nat) (r : ConvReq) : State :=
  let t := s.teamAt (slotOf k)
  let h := natOf (r.bytes.take 64)
  let entries := tableEntries h r.bytes
  let d0 (v : DWord) : Crew → Crew := fun c => c.setS r.d v
  match s.freeConv (dieOf (slotOf k)) with
  | none => s.convAnswer k 0 (d0 0)
  | some c =>
    let shared := s.convs.any fun e =>
      e.1 / 512 == c / 512 && e.2.isOpen && e.2.ctx == t.ctx && e.2.table == r.table && e.2.entries == entries
    if !shared && decide (524288 < s.storeUsed (c / 512) + r.bytes.length) then s.convAnswer k 0 (d0 0)
    else
      let old := s.convAt c
      let new : Conv := { old with
        isOpen := true, state := 0, sec := r.sec, ctx := t.ctx, table := r.table, ns := tableNs h, nr := tableNr h, nk := tableNk h
        entries := entries, nonces := [], queue := [], msgs := [], closing := none }
      let v := roleValue c s.ownDev 0 old.gen 0
      (s.setConvAt c new).convAnswer k v (d0 v)

/-- A home binds a role. -/
def State.bindRole (s : State) (k : Nat) (r : ConvReq) : State :=
  let n := roleConv r.role
  let c := s.convAt n
  let role := roleRole r.role
  if !c.isOpen || roleGen r.role != c.gen then s.convRefuse k 2 0
  else if r.sec != c.sec then s.convRefuse k 5 0
  else if c.nonce role ≠ 0 then s.convRefuse k 4 0
  else
    let nonce := s.freshNonce (fget 0 c.lastNonces role)
    let v := roleValue n s.ownDev role c.gen nonce
    (s.setConvAt n { c with nonces := fset 0 c.nonces role nonce, lastNonces := fset 0 c.lastNonces role nonce }).convAnswer k v
      fun w => w.setRole r.rr v

/-- The reason and detail for which a message request is refused (R300). -/
def Conv.messageRefusal (c : Conv) (r : ConvReq) : Option (Nat × Nat) :=
  match c.refusal r.role r.sec with
  | some x => some (x, 0)
  | none =>
    let role := roleRole r.role
    let e := c.entry role r.kind
    if !e.getLsbD 15 || (decide (16 ≤ r.kind) != (r.op == 3)) then some (1, c.state * 256 + role * 32 + r.kind) else none

/-- Refuse a message request: a delegation's role goes back to its crew (R303). -/
def State.messageRefuse (s : State) (k : Nat) (r : ConvReq) (reason detail : Nat) : State :=
  let s1 := if r.op = 4 ∧ k < remoteParty then s.setCrewAt k ((s.crewAt k).setRole r.rrp r.moved) else s
  s1.convRefuse k reason detail

/-- The receipt word (Table 12.7). -/
def receipt (code kind sender len : Nat) : DWord := dw (code * 2 ^ 56 + kind * 2 ^ 48 + sender * 2 ^ 42 + len * 2 ^ 32)

/-- The crews whose CVRECV waits at a conversation. -/
def State.receivers (s : State) (n : Nat) : List Nat :=
  (s.crews.filter fun e => (e.2.bound || decide (remoteParty ≤ e.1)) && (match e.2.block with
    | some (.cvrecv _ rr _ _) =>
      let v := e.2.getRole rr
      roleConv v == n && roleDev v == s.ownDev
    | _ => false)).map (·.1)

/-- A blocked CVRECV completes with a receipt and a value. -/
def State.received (s : State) (k d : Nat) (rcpt value : DWord) : State :=
  s.convAnswer k rcpt fun c => (c.setS d rcpt).setS (d + 1) value

/-- The message itself leaves for a receiver on another device. -/
def State.carry (s : State) (k : Nat) (payload : List Byte) : State :=
  if k < remoteParty then s else { s with hostRead := s.hostRead ||| BitVec.ofNat 2112 (natOf payload * 2 ^ 64) }

/-- The world of the party of a request. -/
def State.partySec (s : State) (k : Nat) (loc : DWord) : Bool :=
  if k < remoteParty then (s.teamAt (slotOf k)).sec else loc.getLsbD 0

/-- End a conversation (R304): each blocked CVRECV gets a code, GEN advances past 0, the bindings go. -/
def State.endConv (s : State) (n code : Nat) : State :=
  let s1 := (s.receivers n).foldl (fun s k =>
    match (s.crewAt k).block with
    | some (.cvrecv d rr _ _) =>
      if roleGen ((s.crewAt k).getRole rr) = (s.convAt n).gen then (s.received k d (receipt code 0 0 0) 0).at_ s.cur else s
    | _ => s) s
  let c := s.convAt n
  s1.setConvAt n { gen := if c.gen = 65535 then 1 else c.gen + 1, lastNonces := c.lastNonces }

/-- CVCLOSE at its home. -/
def State.closeConv (s : State) (k : Nat) (r : ConvReq) : State :=
  let n := roleConv r.role
  let c := s.convAt n
  match c.refusal r.role r.sec with
  | some x => s.convRefuse k x 0
  | none =>
    if c.terminal then
      if c.msgs.isEmpty then (s.endConv n 4).convAnswer k 0 id
      else s.setConvAt n { c with closing := some k }
    else (s.endConv n 5).convAnswer k 0 id

/-- The passed role's home of a delegation has given the new role value v: CVROLE(RRP) becomes 0 and the carrier's home is
asked (R303 steps 2 and 3). For a crew of another device the value leaves as the answer. -/
def State.passRole (s : State) (k : Nat) (r : ConvReq) (v : DWord) : State :=
  if remoteParty ≤ k then s.convAnswer k v id else
  let s1 := s.setCrewAt k { (s.crewAt k).setRole r.rrp 0 with
    block := some (.conv { r with moved := v, payload := bytesOf 8 v.toNat, imm := true }) }
  if roleDev r.role = s.ownDev then s1
  else ((s1.at_ k).send [(s1.at_ k).convRequest { r with moved := v, payload := bytesOf 8 v.toNat } r.role]).1.at_ s.cur

/-- CONV_HOME_REQUEST (R300): a home takes the request of a crew, unless an earlier one of its conversation waits. -/
def execConvHomeRequest (crew : Nat) (s : State) : Out :=
  match (s.crewAt crew).block with
  | some (.conv r) =>
    let target := if r.op = 4 ∧ r.moved = 0 then r.passed else r.role
    let n := roleConv target
    let c := s.convAt n
    if r.op = 0 then .next (s.openConv crew r)
    else if roleDev target ≠ s.ownDev ∨ r.checked ∨ c.queue ≠ [] ∨ c.closing ≠ none then .refused (.notEnabled "CONV_HOME_REQUEST")
    else
      match r.op with
      | 1 => .next (s.bindRole crew r)
      | 5 => .next (s.closeConv crew r)
      | _ =>
        if r.op = 4 ∧ r.moved = 0 then
          match c.refusal r.passed r.sec with
          | some x => .next (s.convRefuse crew x 0)
          | none =>
            let role := roleRole r.passed
            let nonce := s.freshNonce (fget 0 c.lastNonces role)
            let v := roleValue n s.ownDev role c.gen nonce
            .next ((s.setConvAt n { c with
              nonces := fset 0 c.nonces role nonce, lastNonces := fset 0 c.lastNonces role nonce }).passRole crew r v)
        else
          match c.messageRefusal r with
          | some (reason, detail) => .next (s.messageRefuse crew r reason detail)
          | none =>
            .next ((s.setConvAt n { c with queue := c.queue ++ [crew] }).setCrewAt crew
              { s.crewAt crew with block := some (.conv { r with checked := true }) })
  | _ => .refused (.notEnabled "CONV_HOME_REQUEST")

/-- CONV_ACCEPT (R300): the waiting request is accepted once a slot is free; the state advances. -/
def execConvAccept (conv : Nat) (s : State) : Out :=
  let c := s.convAt conv
  match c.queue with
  | [] => .refused (.notEnabled "CONV_ACCEPT")
  | k :: more =>
    match (s.crewAt k).block with
    | some (.conv r) =>
      if 16 ≤ c.msgs.length then .refused (.notEnabled "CONV_ACCEPT")
      else
        let role := roleRole r.role
        let e := c.entry role r.kind
        let m : Msg :=
          { slot := c.freeSlot, code := if r.op = 3 then 2 else if r.op = 4 then 3 else 1, kind := r.kind, sender := role
            recv := field e.toNat 12 3, len := r.payload.length, imm := r.imm }
        .next (((s.fillSlot conv m.slot r.payload).setConvAt conv { c with queue := more, msgs := c.msgs ++ [m], state := field e.toNat 0 6 }).convAnswer k 0 id)
    | _ => .next (s.setConvAt conv { c with queue := more })

/-- The close that waits for a delivery ends when it was the last (R304). -/
def State.afterDelivery (s : State) (n : Nat) : State :=
  let c := s.convAt n
  match c.closing with
  | some k => if c.msgs.isEmpty then (s.endConv n 4).convAnswer k 0 id else s
  | none => s

/-- CONV_DELIVER (R302): a blocked CVRECV takes the oldest message for its role, or learns that its role value is
stale. Of two crews that wait on one role, the earlier goes first. -/
def execConvDeliver (crew : Nat) (s : State) : Out :=
  let w := s.crewAt crew
  match w.block with
  | some (.cvrecv d rr loc discard) =>
    let v := w.getRole rr
    let n := roleConv v
    let c := s.convAt n
    if roleDev v ≠ s.ownDev then .refused (.notEnabled "CONV_DELIVER")
    else if roleGen v ≠ c.gen then
      .next (if crew < remoteParty then s.convAnswer crew 0 fun x => x.setS d (receipt 4 0 0 0) else s.convRefuse crew 2 0)
    else
      match c.refusal v (s.partySec crew loc) with
      | some x => .next (s.convRefuse crew x 0)
      | none =>
        let role := roleRole v
        let first := (s.receivers n).all fun k => decide (w.order ≤ (s.crewAt k).order) || (match (s.crewAt k).block with
          | some (.cvrecv _ r2 _ _) => roleRole ((s.crewAt k).getRole r2) != role
          | _ => true)
        match c.msgs.find? fun m => m.recv == role with
        | none => .refused (.notEnabled "CONV_DELIVER")
        | some m =>
          if !first then .refused (.notEnabled "CONV_DELIVER")
          else
            let s1 := s.at_ crew
            let payload := s.slotPayload n m
            let write := !discard && !m.imm && m.len != 0
            let value : DWord := if m.imm then dw (natOf payload) else 0
            match s1.payloadAt loc m.len with
            | none =>
              if write then .next (s1.trapHere (s1.payloadTrap loc) true)
              else .next ((((s1.setConvAt n { c with msgs := c.msgs.erase m }).received crew d
                (receipt m.code m.kind m.sender m.len) value).carry crew payload).afterDelivery n)
            | some off =>
              let s2 := if write then s1.setTeam { s1.team with part := s1.team.part.engineWrite off payload } else s1
              .next ((((s2.setConvAt n { c with msgs := c.msgs.erase m }).received crew d
                (receipt m.code m.kind m.sender m.len) value).carry crew payload).afterDelivery n)
  | _ => .refused (.notEnabled "CONV_DELIVER")

/-! Homes on other devices. -/

/-- The answer of a home on another device to a crew's request (R300, R368), or its loss (R430). To a CVRECV the reason STALE
says that its GEN is stale: it completes with CODE CLOSED and nothing else changes (R302). -/
def State.convReply (s : State) (k reason : Nat) (data : DWord) : State :=
  match (s.crewAt k).block with
  | some (.conv r) =>
    if r.op = 4 ∧ r.moved = 0 then
      if reason ≠ 0 then s.convRefuse k reason 0 else s.passRole k r data
    else if reason = 7 then s.convRefuse k 7 0
    else if reason ≠ 0 then s.messageRefuse k r reason (if reason = 1 then data.toNat % 2 ^ 32 else 0)
    else s.convAnswer k 0 fun c => if r.op = 1 then c.setRole r.rr data else c
  | some (.cvrecv d _ loc discard) =>
    let rcpt := if reason = 7 then receipt 5 0 0 0 else data
    let len := field rcpt.toNat 32 9
    let s1 := s.at_ k
    let value : DWord := dw (Config.unstated (2 * s.fresh))
    if reason = 2 then s1.convAnswer k 0 fun x => x.setS d (receipt 4 0 0 0)
    else if reason ≠ 0 ∧ reason ≠ 7 then s.convRefuse k reason 0
    else if discard || reason == 7 || len % 16 != 0 then s1.received k d rcpt (if len = 8 then value else 0)
    else
      match s1.payloadAt loc len with
      | none => s1.trapHere (s1.payloadTrap loc) true
      | some off =>
        (s1.setTeam { s1.team with part := s1.team.part.engineWrite off (bytesOf len (Config.unstated (2 * s.fresh + 1))) }).received
          k d rcpt 0
  | _ => s

/-- A request that another device sends to a home here is held as a party of its own: its length says how many bytes of
payload come with it, of which the model has no place for the values (0 an immediate, n a payload of 16 (n - 1) bytes). A
delegation comes twice (R303): to the home of the passed role, with no value, and to the carrier's home, with the new one. -/
def State.convArrive (s : State) (op len : Nat) (role : DWord) (kind : Nat) (sec : Bool) (value : DWord) : State :=
  let k := remoteParty + s.fresh
  let payload := if op = 4 ∨ len = 0 then bytesOf 8 value.toNat else bytesOf (16 * (len - 1)) (Config.unstated s.fresh)
  if op = 6 then s.setCrewAt k { cvrole := fset 0 [] 0 role, block := some (.cvrecv 0 0 (if sec then 1 else 0) true), order := s.fresh }
  else
    s.setCrewAt k { block := some (.conv
      { op := op, role := role, kind := kind, sec := sec, imm := op == 4 || len == 0, payload := payload
        passed := if op = 4 ∧ value = 0 then role else 0, moved := if op = 4 then value else 0 }) }

end Sys2Proof.Machine
end

