-- ==== Sys2Proof/Machine/Perform.lean ====
section
/-! DEFINITION. The performance of an issued access (R311, R313, R322 to R327): its request is sent, its bytes are read or written, an
atomic takes its step (R72 to R76, R243) or a lane of KVAPP appends (R260); and the end of a parked access (R46). -/
namespace Sys2Proof.Machine

/-- A parked access whose replies are all there and whose parts here are performed (R46, R244, R245): D is written in the recorded lanes, zero in the refused
ones, and the crew goes on or takes code 0x0C after the completion; a crew whose team is being saved and whose fellows
all stand is saved ready there (R411). -/
def State.finishParked (s0 : State) (k : Nat) (p : Parked) : State :=
  let s := s0.at_ k
  let refused (l : Nat) : Bool := p.refused.any fun r => r.1 == l
  let ls := lanesOf 32 p.lanes
  let v (l : Nat) : Res :=
    if refused l then { code := 0 }
    else if p.load then loadElem p.fmt ((lookup p.data l).getD 0).toNat
    else { code := ((lookup p.data l).getD 0).toNat }
  let c := s.crew
  let c1 := if p.pair then c.setPairs p.d ls (fun l => dw (v l).code) else c.setVs p.d ls (fun l => w32 (v l).code)
  let s1 := (s.setCrew c1).orFpsr (ls.foldl (fun f l => f ||| (v l).fl) 0)
  match ls.filter refused with
  | [] =>
    let s2 := s1.unblock 2
    if s.teamSaves (slotOf k) ∧ !c.inHandler ∧ s.othersStop (slotOf k) (some k) then s2.setCrew { s2.crew with stop := .replied }
    else s2
  | l :: more =>
    let (reason, addr) := ((p.refused.find? fun r => r.1 == l).map (·.2)).getD (0, 0)
    let t : Trap := { code := 0x0C, lanes := maskOf (l :: more), addr := addr, info := reason, async := true }
    if s1.crew.run.isSome then s1.trapHere t false
    else s1.takeTrap t p.at_ p.next 0

/-- A parked crew goes on once nothing of its access is outstanding. -/
def State.goParked (s : State) (k : Nat) (p : Parked) : State :=
  if p.wait.isEmpty && p.left == 0 then s.finishParked k p
  else s.setCrewAt k { s.crewAt k with block := some (.parked p) }

/-- The bits of a part in its lane's element. -/
def Acc.placed (a : Acc) (old : DWord) (v : Nat) : DWord := old ||| dw (v * 2 ^ (8 * a.off))

/-- A load of the list receives the bytes of a part. -/
def Crew.receive (c : Crew) (a : Acc) (v : Nat) : Crew :=
  { c with loads := c.loads.map fun x =>
      if x.seq == a.seq && decide (0 < x.left) then
        { x with left := x.left - 1, data := x.data.map fun d => if d.1 == a.lane then (d.1, a.placed d.2 v) else d }
      else x }

/-- A part that was read reaches its instruction: the parked access of its issue, or the load. -/
def State.receive (s : State) (k : Nat) (a : Acc) (v : Nat) : State :=
  match (s.crewAt k).block with
  | some (.parked p) =>
    if p.seq = a.seq then
      s.goParked k { p with left := p.left - 1, data := insert p.data a.lane (a.placed ((lookup p.data a.lane).getD 0) v) }
    else s.setCrewAt k ((s.crewAt k).receive a v)
  | _ => s.setCrewAt k ((s.crewAt k).receive a v)

/-- What an atomic's step leaves in place of the old value; none for a CAS that finds another (R243). -/
def Acc.new (a : Acc) (old : Nat) : Option Nat :=
  match a.op with
  | .atom aop fmt => some (atomNew aop fmt old a.data)
  | .cas b => if old = b then some a.data else none
  | _ => none

/-- An atomic's step (R72): the old value is read and the new one written in one step, and a marker stays (R243, R418). -/
def State.stepAcc (s : State) (k : Nat) (a : Acc) : State :=
  let old := s.loadPhys a.pa a.n
  let s1 := match a.new old with
    | some v => s.storePhys a.pa (bytesOf a.n v)
    | none => s
  let s2 := s1.setCrewAt k ((s1.crewAt k).performed a)
  if a.rd then s2.receive k a old else s2

/-- A lane of KVAPP appends, as crew k. -/
def State.appendAcc (s : State) (k : Nat) (a : Acc) (d : KvDesc) (x : KvPlan) : State :=
  let s1 := ((s.at_ k).kvAppDo d x).at_ s.cur
  s1.setCrewAt k ((s1.crewAt k).performed a)

/-- The effect of an access of crew k that nothing holds back; none while an atomic that goes near waits for the lease it has asked for
(R74). -/
def State.doAcc (s : State) (k : Nat) (a : Acc) : Option State :=
  match a.send, a.op with
  | some r, _ =>
    let r1 := { r with plane := s.planeOf r.va.toNat r.dev }
    let c := s.crewAt k
    some (({ s with fabric := insert s.fabric (a.req.getD 0) r1 } : State).setCrewAt k { c with
      pend := c.pend.map fun p => if p == .acc a then .acc { a with send := none } else p })
  | none, .plain =>
    if a.wr then some (s.land k a)
    else
      let s1 := s.recallRun a.pa a.n
      some ((s1.setCrewAt k ((s1.crewAt k).performed a)).receive k a (s.loadPhys a.pa a.n))
  | none, .kv d x => some (s.appendAcc k a d x)
  | none, _ =>
    match s.atomicLease (clusterOf (slotOf k)) (a.pa / 64) a.n a.asked with
    | (s1, true) => some (s1.stepAcc k a)
    | (s1, false) =>
      if a.asked then none
      else
        let c := s1.crewAt k
        some (s1.setCrewAt k { c with pend := c.pend.map fun p => if p == .acc a then .acc { a with asked := true } else p })

/-- Crew k performs an access that passes the entries before it, now the list l: the late stores that it must find, or come after, are
performed first (R321, R322). -/
def State.performAcc (s : State) (k j : Nat) (a : Acc) (l : List Pend) : Option State :=
  let c := s.crewAt k
  let s1 := s.setCrewAt k { c with pend := l ++ c.pend.drop j }
  let want (e : Nat) (x : Acc) : Bool := x.meets a && (a.wr || inScope e x.late (slotOf k) (some k))
  let s2 := s1.commit fun e x => e != k && want e x
  let s3 := (lateFor l (want k)).foldl (fun t x => t.land k x) s2
  s3.doAcc k a

/-- The performance of entry j of a crew's list. -/
def State.perform1Acc (s : State) (k j : Nat) : Out :=
  match (s.crewAt k).pass j with
  | some (a, l) =>
    match s.performAcc k j a l with
    | some t => .next t
    | none => .refused (.notEnabled "PERFORM")
  | none => .refused (.notEnabled "PERFORM")

/-- The writes of a crew that is taken away, performed in program order; its requests that return nothing are sent. -/
def State.flushPend (s : State) (k : Nat) : State :=
  (s.crewAt k).pend.foldl (fun s p => match p with
    | .acc a =>
      match a.send, a.op with
      | some _, _ => if a.rd then s else (s.doAcc k a).getD s
      | none, .plain => if a.wr && !a.far then s.land k a else s
      | none, .kv d x => s.appendAcc k a d x
      | none, _ => if a.far then s else (s.recallRun a.pa a.n).stepAcc k { a with rd := false }
    | .fence _ _ _ => s) s

end Sys2Proof.Machine
end

