-- ==== Sys2Proof/Machine/Remote.lean ====
section
/-! DEFINITION. The fabric (spec/10 R244, R245, spec/16 R362 to R366, spec/25 R422, R423, spec/26 R429): replies,
acknowledgements, requests that arrive as a target, and lost requests. -/
namespace Sys2Proof.Machine

/-! The issuing side. -/

/-- A reply to a request of a parked crew: its data, or the reason of its refusal. -/
def State.replied (s : State) (req : Nat) (r : FabReq) (refusal : Nat) (data : DWord) : State :=
  let s1 := { s with fabric := erase s.fabric req }
  match (s1.crewAt r.crew).block with
  | some (.parked p) =>
    if !p.wait.contains (r.lane, req) then s1
    else
      let s1 := s1.sample (dieOf (slotOf r.crew)) 1 (clusterOf (slotOf r.crew) % 12) (s.clock - p.since)
      let old := ((lookup p.data r.lane).getD 0).toNat
      let p1 : Parked := { p with
        wait := p.wait.erase (r.lane, req)
        data := insert p.data r.lane (dw (old ||| (data.toNat % 2 ^ (8 * r.size)) * 2 ^ (8 * r.part)))
        refused := if refusal = 0 then p.refused else p.refused ++ [(r.lane, (refusal, r.va - dw r.part))] }
      (s1.setCrewAt r.crew ((s1.crewAt r.crew).acked req)).goParked r.crew p1
  | _ => s1

/-- A request that expects data (R244). -/
def FabReq.returns (r : FabReq) : Bool := [3, 4, 5, 7, 8].contains r.kind

/-- The data of an engine's read at another device from the 64 bits that a reply gives, or of one that comes poisoned (R366). -/
def State.farData (s : State) (r : FabReq) (low : Nat) : Nat :=
  low % 2 ^ 64 + Config.remoteData s.fresh r.va.toNat % 2 ^ 64 * 2 ^ 64

/-- A request to this very device, which its own endpoint serves (R362). -/
def State.toSelf (s : State) (r : FabReq) : Bool := r.dev == s.devnum && r.kind != 7

/-- The plane of a request is down: it has been lost, and no response of it comes any more (R429). -/
def State.planeDown (s : State) (r : FabReq) : Bool := (s.reg 0 0x6020).getLsbD r.plane

/-- REMOTE_REPLY (R46, R245): the reply of a LD, ATOM or CAS request, or of an engine's read, to another device; refusal is 0, or the code of the check that
failed at the target; for a conversation's message the reason of Table 12.9. -/
def execRemoteReply (req refusal : Nat) (data : BitVec 64) (s : State) : Out :=
  match lookup s.fabric req with
  | some r =>
    if s.planeDown r then .refused (.notEnabled "REMOTE_REPLY")
    else if r.kind = 7 then
      if refusal ≤ 6 then .next (({ s with fabric := erase s.fabric req }).convReply r.crew refusal data)
      else .refused (.notEnabled "REMOTE_REPLY")
    else if r.returns && !s.toSelf r && [0, 3, 4, 5, 6].contains refusal then
      .next (if r.kind = 8 then s.fetched req r refusal (s.farData r data.toNat) else s.replied req r refusal data)
    else .refused (.notEnabled "REMOTE_REPLY")
  | none => .refused (.notEnabled "REMOTE_REPLY")

/-- A posted request is over: what waits for it goes on (R244, R247). -/
def State.acked (s : State) (req : Nat) (r : FabReq) : State :=
  let c := s.crewAt r.crew
  let s1 := { s with fabric := erase s.fabric req }
  if c.posted.contains req then s1.setCrewAt r.crew (c.acked req) else s1

/-- REMOTE_ACKNOWLEDGEMENT (R244, R364). -/
def execRemoteAcknowledgement (req : Nat) (s : State) : Out :=
  match lookup s.fabric req with
  | some r => if r.returns || s.toSelf r || s.planeDown r then .refused (.notEnabled "REMOTE_ACKNOWLEDGEMENT") else .next (s.acked req r)
  | none => .refused (.notEnabled "REMOTE_ACKNOWLEDGEMENT")

/-! The remote-fault log (Table 25.5, R423). -/

/-- An entry of a refused or lost write. -/
def State.rflWrite (s : State) (cause kind src rctx : Nat) (va : DWord) (size : Nat) (aop fmt : Nat) (data : Nat) : State :=
  let red := kind == 1
  let rec_ := rctx % 4096 * 2 ^ 20 + src % 512 * 2 ^ 11 + 2 ^ 32 + kind % 4 * 2 ^ 35 + size % 32 * 2 ^ 37 +
    (if red then fmt % 16 * 2 ^ 42 + aop % 32 * 2 ^ 46 else 0) + cause % 256 * 2 ^ 56 + va.toNat * 2 ^ 64 +
    data % 2 ^ (8 * size) * 2 ^ 384
  (s.ringWrite 0x6000 1024 rec_).raiseShared 2

/-- REQUEST_LOST (R429): a request is completed as lost; whether its target performed it is not known here. -/
def execRequestLost (req : Nat) (s : State) : Out :=
  match lookup s.fabric req with
  | some r =>
    let s1 := s.setReg 0 0x6028 (dw (((s.reg 0 0x6028).toNat + 1) % 2 ^ 32))
    if r.kind = 7 then .next (({ s1 with fabric := erase s1.fabric req }).convReply r.crew 7 0)
    else if r.kind = 8 then .next (s1.fetched req r 0x0C 0)
    else if r.returns then .next (s1.replied req r 0x0C 0)
    else
      .next ((s1.acked req r).rflWrite 0x0C (min r.kind 2) s.devnum r.rctx r.va (if r.kind = 6 then 16 else r.size) r.aop.toNat r.fmt.toNat
        (r.data.toNat + r.data2.toNat * 2 ^ 64))
  | none => .refused (.notEnabled "REQUEST_LOST")

/-! Ordered accumulation at a granule (R286). -/

/-- A granule plus a contribution, by element (R286). -/
def accGranule (fmt old src : Nat) : Nat :=
  let z := if fmt = 0 then 64 else if fmt = 2 ∨ fmt = 3 then 16 else 32
  (List.range (128 / z)).foldl (fun v k =>
    let a := field old (z * k) z
    let b := field src (z * k) z
    v + (if fmt = 13 then (a + b) % 2 ^ 32 else (fAdd fmt .rne a b).code) * 2 ^ (z * k)) 0

/-- The key of a granule's expected index: the place (0 device memory, otherwise a part) and the granule. -/
def expectKey (place g : Nat) : Nat := place * 2 ^ 36 + g

/-- The index that a granule expects next. -/
def State.expected (s : State) (place g : Nat) : Nat := fget 0 s.expect (expectKey place g)

/-- A granule has taken index idx of n. -/
def State.took (s : State) (place g idx nm1 : Nat) : State :=
  { s with expect := fset 0 s.expect (expectKey place g) (if idx = nm1 then 0 else idx + 1) }

/-! The target side (R365). -/

/-- What a request needs of its page, by its kind. -/
def needOf (kind : Nat) : Need :=
  match kind with
  | 0 | 2 => { w := true }
  | 3 | 8 => { r := true }
  | _ => { r := true, w := true }

/-- A refused request (R245, R423): a write is logged and acknowledged; a read's reply carries the reason. -/
def State.refuseRemote (s : State) (code kind src tag : Nat) (va : DWord) (size : Nat) (aop fmt : Nat) (data : Nat) : State :=
  if kind ≤ 2 ∨ kind = 6 then s.rflWrite code (min kind 2) src tag va size aop fmt data
  else { s with hostRead := BitVec.ofNat 2112 (code * 2 ^ 64) }

/-- Perform a checked request at the target: the reply's data. A write comes after the late stores that it meets. Data of an engine that carry the marker leave it behind (R418). -/
def State.serveRemote (s : State) (ps : List Piece) (kind size aop fmt : Nat) (data data2 : Nat) (marked : Bool) : State :=
  let late := if kind = 3 ∨ kind = 8 then s else
    ps.foldl (fun s p => if pteRemote p.page.pte then s else s.commitRange p.page.pa p.n) s
  let s1 := late.recallAll ps
  match kind with
  | 0 => s1.writePieces ps data
  | 2 =>
    let s2 := s1.writePieces ps data
    if marked then { s2 with poison := setFlags s2.poison (ps.flatMap fun p => if p.page.pa < memTop then granules p.page.pa p.n else []) true } else s2
  | 8 => { s1 with hostRead := BitVec.ofNat 2112 (s1.readPieces ps) }
  | 1 => (s1.atomStep ps fun old => some (atomNew aop fmt old data)).1
  | 3 => { s1 with hostRead := BitVec.ofNat 2112 (s1.readPieces ps) }
  | 4 =>
    let (s2, old) := s1.atomStep ps fun old => some (atomNew aop fmt old data)
    { s2 with hostRead := BitVec.ofNat 2112 old }
  | 5 =>
    let (s2, old) := s1.atomStep ps fun old => if old = data then some data2 else none
    { s2 with hostRead := BitVec.ofNat 2112 old }
  | _ =>
    match ps with
    | [p] =>
      let g := p.page.pa / 16
      let old := s1.readNat p.page.pa 16
      let bad := marked || fget false s1.poison g
      let s2 := s1.writeNat p.page.pa 16 (accGranule fmt old (data + data2 * 2 ^ 64))
      ({ s2 with poison := fset false s2.poison g bad }).took 0 g (size % 65536) (size / 65536)
    | _ => s1

/-- What becomes of a request at its target. -/
inductive Served where
  | refused (code : Nat)
  /-- It waits: for a copy-on-write path or for its turn in an ordered accumulation. -/
  | later (s : State)
  | done (s : State)

/-- A request meets its target (R365, R70, R286): the checks, a path that it must wait for, and its effect. -/
def State.meet (s : State) (tag : Nat) (sec : Bool) (kind va size aop fmt data data2 : Nat) (marked : Bool) : Served :=
  match s.targetSpan tag sec (needOf kind) va (if kind = 6 then 16 else size) with
  | .error r => .refused (codeOfRank r)
  | .ok ps =>
    let pa := (ps.head?.map (·.page.pa)).getD 0
    let ctx := (s.tagCtx tag).getD 0
    if (kind == 3 || kind == 4 || kind == 5 || kind == 8) && s.piecesPoisoned ps then .refused 0x06
    else
      match (if kind = 3 ∨ kind = 8 then none else cowAt ps) with
      | some cva =>
        if s.cowHold.any (·.ctx == ctx) || !s.frameSettled ctx cva then .later s
        else
          match s.cowPath (stackOf pa) ctx cva with
          | .failed r => .refused (codeOfRank r)
          | .noFrame s1 => .later { s1 with
              cowHold := s1.cowHold ++ [{ ctx := ctx, page := cva / 4096, die := stackOf pa, remote := true }] }
          | .done s1 => .later s1
      | none =>
        if kind = 6 ∧ s.expected 0 (pa / 16) ≠ size % 65536 then .later s
        else .done (s.serveRemote ps kind size aop fmt data data2 marked)

/-- REMOTE_REQUEST_ARRIVE (R365, R366): kind 0 ST, 1 RED, 2 engine granule write, 3 a read, 4 ATOM, 5 CAS, 6 a CPYACC
contribution of one granule, whose size field holds its index and, above bit 16, the last index, 7 a conversation
message, whose size field holds its operation and, from bit 3 on, its length. Bit 0 of AOP says of kinds 2 and 6 that the data carry
the poison marker (R418; log entry 113). -/
def execRemoteRequestArrive (src tag : Nat) (sec : Bool) (kind : Nat) (va : BitVec 64) (size : Nat) (aop : BitVec 5)
    (fmt : BitVec 4) (data data2 : BitVec 64) (s : State) : Out :=
  let n := if kind = 6 then 16 else size
  let d := data.toNat + (if kind = 2 then data2.toNat * 2 ^ 64 else 0)
  let whole := if kind = 6 then d + data2.toNat * 2 ^ 64 else d
  if kind = 7 ∧ !s.halted then
    if 1 ≤ size % 8 ∧ size % 8 ≤ 6 ∧ size / 8 ≤ 17 then .next (s.convArrive (size % 8) (size / 8) va aop.toNat sec data)
    else .refused (.notEnabled "REMOTE_REQUEST_ARRIVE")
  else if s.halted ∨ 6 < kind ∨ n = 0 ∨ 16 < n ∨ 4096 ≤ tag then .refused (.notEnabled "REMOTE_REQUEST_ARRIVE")
  else
    match s.meet tag sec kind va.toNat size aop.toNat fmt.toNat d (if kind = 2 then 0 else data2.toNat) (aop.getLsbD 0) with
    | .refused code => .next (s.refuseRemote code kind src tag va n aop.toNat fmt.toNat whole)
    | .later s1 => .next { s1 with inputs := s1.inputs ++ [some (.remoteRequestArrive src tag sec kind va size aop fmt data data2)] }
    | .done s1 => .next s1

/-- The 64-byte lines of a request. -/
def FabReq.lines (r : FabReq) : Nat × Nat := (r.va.toNat / 64, (r.va.toNat + (if r.kind = 6 then 16 else r.size) - 1) / 64)

/-- The 64-byte lines of this device's memory that a request through a page of the device itself reaches; none where it is refused. -/
def State.selfLines (s : State) (r : FabReq) : Option (Nat × Nat) :=
  let n := if r.kind = 6 then 16 else r.size
  match s.targetSpan r.rctx r.sec {} r.va.toNat n with
  | .ok [p] => some (p.page.pa / 64, (p.page.pa + n - 1) / 64)
  | _ => none

/-- Two ranges of lines have a common one. -/
def commonLine (a b : Nat × Nat) : Bool := decide (a.1 ≤ b.2) && decide (b.1 ≤ a.2)

/-- No earlier request to this device for one of the same lines is on its way: all of them take one path (R362). -/
def State.nextOnPath (s : State) (req : Nat) (r : FabReq) : Bool :=
  s.fabric.all fun e => decide (req ≤ e.1) || !s.toSelf e.2 || !(commonLine e.2.lines r.lines || (match s.selfLines e.2, s.selfLines r with
    | some a, some b => commonLine a b
    | _, _ => false))

/-- The part of a request that is served in one step (R325): the whole, or byte i of a misaligned access. -/
def FabReq.byte (r : FabReq) (i : Nat) : FabReq :=
  if r.bytes.isEmpty then r else { r with va := r.va + dw i, size := 1, data := dw (r.data.toNat / 2 ^ (8 * i) % 256) }

/-- A request through a REMOTE page of this very device is served by its own endpoint, as a remote access (R362): as the target
would, and with the reply or the acknowledgement. A misaligned one is checked whole and served byte by byte, in any order (R325). -/
def execSelfServe (req i : Nat) (s : State) : Out :=
  match lookup s.fabric req with
  | some r =>
    let b := r.byte i
    if !s.toSelf r || !s.nextOnPath req r || !(r.bytes.isEmpty || r.bytes.contains i) then .refused (.notEnabled "SELF_SERVE")
    else
      let d (r : FabReq) : Nat := r.data.toNat + (if r.kind = 2 then r.data2.toNat * 2 ^ 64 else 0)
      let n := if r.kind = 6 then 16 else r.size
      let meet (r : FabReq) : Served :=
        s.meet r.rctx r.sec r.kind r.va.toNat r.size r.aop.toNat r.fmt.toNat (d r) (if r.kind = 2 then 0 else r.data2.toNat) r.bad
      let refused? : Option Nat := match meet r with
        | .refused code => some code
        | _ => none
      match refused? with
      | some code =>
        if r.kind = 8 then .next (s.fetched req r code (s.farData r (Config.remoteData s.fresh r.va.toNat)))
        else if r.returns then .next (s.replied req r code 0)
        else .next ((s.acked req r).rflWrite code (min r.kind 2) s.devnum r.rctx r.va n r.aop.toNat r.fmt.toNat
          (if r.kind = 6 then d r + r.data2.toNat * 2 ^ 64 else d r))
      | none =>
        match meet b with
        | .refused _ => .refused (.notEnabled "SELF_SERVE")
        | .later s1 => .next s1
        | .done s1 =>
          let s2 : State := { s1 with hostRead := s.hostRead }
          let got := dw (r.data2.toNat ||| s1.hostRead.toNat % 256 * 2 ^ (8 * i))
          let left := r.bytes.erase i
          if !left.isEmpty then
            .next { s2 with fabric := insert s2.fabric req { r with bytes := left, data2 := if r.kind = 3 then got else r.data2 } }
          else
            let v := if r.bytes.isEmpty then s1.hostRead.setWidth 64 else got
            .next (if r.kind = 8 then s2.fetched req r 0 (s1.hostRead.toNat % 2 ^ 128)
              else if r.returns then s2.replied req r 0 v else s2.acked req r)
  | none => .refused (.notEnabled "SELF_SERVE")

end Sys2Proof.Machine
end

