-- ==== Sys2Proof/Machine/Copy.lean ====
section
/-! DEFINITION. The copy commands (spec/11 R268, R282, R284 to R287): CPY, GATHER, MCAST, CPYACC and CPYDD, from issue
to the effect of the command. -/
namespace Sys2Proof.Machine

/-- How a command's run ends: held by a copy-on-write page, over with its status word, a page further, in need of granules of another
device, or not ready to run. -/
inductive CmdEnd where
  | cow (va : Nat)
  | ended (s : State) (status : DWord)
  /-- The state with the writes of a page or a row, the command as it goes on, and the granules of which more is to come. -/
  | more (s : State) (c : Cmd) (opened : List Nat)
  | fetch (cause : Nat)
  | wait

/-- Who a command's requests are for. -/
def Cmd.asks (c : Cmd) (q : Nat) : From := { crew := c.crew, q := q, part := c.issue }

/-- A run ends with a failing check's cause and BYTES, or for a read of another device. -/
def endFault (s : State) (cause bytes : Nat) : CmdEnd := if isFetch cause then .fetch cause else .ended s (stFault cause bytes)

/-! Sides of a copy (R268). -/

inductive Side where
  | mem (va : Nat)
  | part (slot level off : Nat)
deriving DecidableEq, Repr

/-- The side that a location word names, for n bytes (Table 11.5). -/
def State.locWord (s : State) (x : Eng) (level w n : Nat) : Except Nat Side :=
  let die := field w 40 3
  let clus := field w 36 4
  let core := field w 32 3
  let off := field w 0 32
  let slot :=
    if field w 43 20 ≠ 0 ∨ field w 35 1 ≠ 0 ∨ 12 ≤ clus then none
    else if field w 63 1 = 1 then (if die ≠ 0 ∨ clus ≠ 0 ∨ core ≠ 0 then none else s.ownSlot x level)
    else if (level = 2 ∧ clus ≠ 0) ∨ (1 ≤ level ∧ core ≠ 0) then none
    else s.namedSlot x.launch level die clus core
  match slot with
  | none => .error 0x04
  | some k => if off % 16 ≠ 0 ∨ (s.partAt k level).size < off + n then .error 0x05 else .ok (.part k level off)

/-- A source or destination operand with its location code. -/
def State.side (s : State) (x : Eng) (loc w n : Nat) : Except Nat Side :=
  if loc = 3 then .ok (.mem w) else if n % 16 ≠ 0 then .error 0x05 else s.locWord x loc w n

/-- The length of the piece of a copy of n bytes that begins at byte i: it ends with the page of a side. -/
def pieceLen (ds : List Side) (i n : Nat) : Nat :=
  ds.foldl (fun m d => match d with
    | .mem va => min m (4096 - (va + i) % 4096)
    | .part _ _ _ => m) (n - i)

/-- Where the pages of a side cut a run of n bytes. -/
def Side.cuts (d : Side) (n : Nat) : List Nat :=
  match d with
  | .mem va => ((List.range (n / 4096 + 1)).map fun j => 4096 * (j + 1) - va % 4096).filter (· < n)
  | .part _ _ _ => []

/-- The pieces of a copy of n bytes between sides: offset and length, cut at every page. -/
def cutsOf (ds : List Side) (n : Nat) : List (Nat × Nat) :=
  let starts := ((ds.flatMap fun d => d.cuts n).foldl (fun m c => insert m c ()) [(0, ())]).map (·.1)
  starts.zip ((starts.drop 1 ++ [n]).zip starts |>.map fun p => p.1 - p.2)

/-- Check bytes i to i + k - 1 of a side. -/
def State.sideCheck (s : State) (x : Eng) (need : Need) (d : Side) (i k : Nat) : Except Nat (List Piece) :=
  match d with
  | .mem va => if need.w then s.engCheck x need ((va + i) % 2 ^ 64) k else s.engReadable x ((va + i) % 2 ^ 64) k
  | .part _ _ _ => .ok []

/-- The bytes of a checked piece of a side as a number, and its poisoned ranges. -/
def State.sideRead (s : State) (x : Eng) (d : Side) (i k : Nat) (ps : List Piece) : Nat × List (Nat × Nat) :=
  match d with
  | .mem _ => (s.engRead x ps, s.engPoison x ps)
  | .part slot level off =>
    ((s.engPart x slot level (off + i) k).1, ((byGranule (off + i) k).filter fun g => (s.engPart x slot level g.1 g.2).2).map fun g =>
      (g.1 - (off + i), g.1 - (off + i) + g.2))

/-- A checked piece of a copy: offset, length, the source's parts and each destination's. -/
structure CopyCut where
  i : Nat
  k : Nat
  src : List Piece
  dst : List (List Piece)

/-- The pieces that pass their checks in order, and the cause of the first that fails (R282). -/
def State.copyChecks (s : State) (x : Eng) (src : Side) (dsts : List Side) : List (Nat × Nat) → List CopyCut × Option Nat
  | [] => ([], none)
  | (i, k) :: more =>
    match s.sideCheck x { r := true } src i k, dsts.mapM fun d => s.sideCheck x { w := true } d i k with
    | .ok ps, .ok qs =>
      let (cs, c) := s.copyChecks x src dsts more
      ({ i := i, k := k, src := ps, dst := qs } :: cs, c)
    | .error c, _ => ([], some c)
    | _, .error c => ([], some c)

/-- A finished copy: the state, the bytes written, the cause that ended it, the first poisoned byte, or the page that
holds it. -/
structure Copied where
  s : State
  done : Nat
  cause : Option Nat
  bad : Option Nat
  cow : Option Nat

/-- Write bytes i to i + k - 1 of a copy into a destination: the data, the full bits, and the poison of its bad bytes, which are ranges
within the piece. -/
def State.copyInto (s : State) (x : Eng) (w : From) (d : Side) (ps : List Piece) (i k v : Nat) (bad : List (Nat × Nat)) : State :=
  match d with
  | .part slot level off =>
    let p := (s.partAt slot level).engineWrite (off + i) (bytesOf k v)
    let hurt := bad.flatMap fun r => granules (off + i + r.1) (r.2 - r.1)
    ((s.setPartAt slot level { p with poison := setFlags p.poison hurt true }).wroteAt (1 + s.partId slot level) (off + i) k
      (2 ^ (8 * k) - 1)).hurtAt (1 + s.partId slot level) hurt
  | .mem _ => (s.engWrite x w ps v bad).poisonPieces ps bad

/-- Copy n bytes from a source as it stands to a destination, or nothing unless every page passes (R284). -/
def State.copyRow (s : State) (x : Eng) (w : From) (src dst : Side) (n : Nat) : Copied :=
  match s.copyChecks x src [dst] (cutsOf [src, dst] n) with
  | (_, some cause) => { s := s, done := 0, cause := some cause, bad := none, cow := none }
  | (cs, none) =>
    let reads := cs.map fun c => (c, s.sideRead x src c.i c.k c.src)
    let s0 := (s.engKeep x (cs.flatMap (·.src))).recallAll (cs.flatMap (·.src))
    { s := reads.foldl (fun s r => s.copyInto x w dst (r.1.dst.headD []) r.1.i r.1.k r.2.1 r.2.2) s0, done := n, cause := none
      bad := ((reads.flatMap fun r => r.2.2.map fun b => r.1.i + b.1).min?), cow := none }

/-- The status of a copy (R265, R418). -/
def copyStatus (done : Nat) (cause bad : Option Nat) : DWord :=
  match cause, bad with
  | some c, _ => stFault c done
  | none, some b => stPartial b
  | none, none => stDone done

/-! Operands of the issued command. -/

def Cmd.op (c : Cmd) (k : Nat) : Nat := (c.ops.getD k 0).toNat
/-- Q, SLOC, DLOC and T of E (Table 11.4). -/
def cmdSloc (c : Cmd) : Nat := field c.e.toNat 5 2
def cmdDloc (c : Cmd) : Nat := field c.e.toNat 3 2
def cmdT (c : Cmd) : Bool := field c.e.toNat 7 1 == 1

/-- The status register is an S register, and SCOPE and ORD are legal (R266, R290). -/
def engineOk (d : BitVec 7) (scope : BitVec 3) (uniforms : List (BitVec 8)) : Bool :=
  dS d && scopeOk scope && uniforms.all isUniform

/-- Issue a command into one queue. -/
def State.toQueue (s : State) (ws : List Word) (d : BitVec 7) (scope : BitVec 3) (ord : BitVec 2) (q : BitVec 3) (ops tcs : List DWord) :
    Effect := s.issueCmd scope ord [q.toNat] (s.command ws d ops tcs)

/-! Pages in progress (R421). -/

/-- The check of the next k bytes of a side: a page in progress keeps the translation with which it was checked (R421), and what its entry
allows is asked anew for each use. -/
def State.pageCheck (s : State) (x : Eng) (c : Cmd) (need : Need) (d : Side) (k : Nat) : Except Nat (List Piece) :=
  match d with
  | .part _ _ _ => .ok []
  | .mem va0 =>
    let va := (va0 + c.progress) % 2 ^ 64
    let checked : Except Nat (List Piece) := match lookup c.pages (va / 4096) with
      | some (pte, pa, _) =>
        if !pteRemote pte && (need.r && !pteR pte || need.w && !(pteW pte || pteCow pte)) then .error 0x02
        else .ok [{ page := { pte := pte, pa := pa + va % 4096, level := 5 }, n := k, off := 0, va := va }]
      | none => s.engCheck x need va k
    match checked with
    | .error e => .error e
    | .ok ps =>
      if need.w then .ok ps
      else
        match engLost x ps with
        | some e => .error e
        | none => .ok ps

/-- The pages in progress of a command of n bytes once k more of them are done: those in which its next bytes lie. -/
def keptPages (stamp : Nat) (c : Cmd) (sides : List Side) (ps : List Piece) (k n : Nat) : List (Nat × (Nat × Nat × Nat)) :=
  let next := c.progress + k
  let on (j : Nat) : Bool := sides.any fun d => match d with
    | .mem va => (va + next) % 2 ^ 64 / 4096 == j
    | .part _ _ _ => false
  if n ≤ next then []
  else
    (ps.foldl (fun m p => if (lookup m (p.va / 4096)).isSome then m
      else insert m (p.va / 4096) (p.page.pte, p.page.pa - p.va % 4096, stamp)) c.pages).filter fun e => on e.1

/-- Granules on other devices that a copy of n bytes writes with its next k bytes and reads later: they are read first (R282), and what
is read of them is kept. -/
def overlapped (c : Cmd) (src : Side) (qs : List Piece) (k n : Nat) : List Piece :=
  match src with
  | .part _ _ _ => []
  | .mem va => qs.filter fun p => pteRemote p.page.pte && decide (va + c.progress + k < p.va + p.n) && decide (p.va < va + n)

/-- What has been read of the bytes of a source from byte i on. -/
def Side.ahead (d : Side) (i n : Nat) (y : Nat × (Nat × Nat)) : Bool :=
  match d with
  | .part _ _ _ => false
  | .mem va => decide (va + i < 16 * y.1 + 16) && decide (16 * y.1 < va + n)

/-- The granule of a destination of which a copy that has done its next k bytes leaves the rest to its next page. -/
def State.openKey (s : State) (d : Side) (ps : List Piece) (i k : Nat) : List Nat :=
  match d with
  | .part slot level off => if (off + i + k) % 16 = 0 then [] else [(1 + s.partId slot level) * 2 ^ 64 + (off + i + k) / 16]
  | .mem _ => ps.filterMap fun p => if (p.va + p.n) % 16 = 0 ∨ pteRemote p.page.pte then none else some ((p.page.pa + p.n) / 16)

/-- The next piece of a copy of n bytes to every destination (R282): the pages of the piece are checked, then its bytes are read and
its writes formed. -/
def State.copyNext (s : State) (x : Eng) (q : Nat) (c : Cmd) (src : Side) (dsts : List Side) (n : Nat) : CmdEnd :=
  let i := c.progress
  let k := pieceLen (src :: dsts) i n
  match s.pageCheck x c { r := true } src k, dsts.mapM fun d => s.pageCheck x c { w := true } d k with
  | .error e, _ => endFault s e i
  | _, .error e => endFault s e i
  | .ok ps, .ok qs =>
    let again := overlapped c src qs.flatten k n
    match qs.findSome? cowAt, (engLost x again).filter isFetch with
    | some va, _ => .cow va
    | none, some e => .fetch e
    | none, none =>
      let (v, bad) := s.sideRead x src i k ps
      let s1 := (dsts.zip qs).foldl (fun s d => s.copyInto x (c.asks q) d.1 d.2 i k v bad) ((s.engKeep x ps).recallAll ps)
      let first := c.poisonAt.or (((bad.map (·.1)).min?).map (· + i))
      let c1 := { c with progress := i + k, poisonAt := first, got := c.got.filter (src.ahead (i + k) n), pages := keptPages s.fresh c (src :: dsts) (ps ++ qs.flatten) k n }
      if n ≤ i + k then .more s1 { c1 with run := .ended (copyStatus (i + k) none first) } []
      else .more s1 c1 ((dsts.zip qs).flatMap fun d => s.openKey d.1 d.2 i k)

/-! CPY with T = 0 (R282). -/

/-- CPY. -/
def execCpy (d : BitVec 7) (a b c : BitVec 8) (strm : BitVec 4) (scope : BitVec 3) (ord : BitVec 2) (q : BitVec 3) (sloc dloc : BitVec 2)
    (s : State) : Out :=
  perform { srcs := [a, b, c], ends := true, ok := engineOk d scope [a, b, c] } s fun s =>
    s.toQueue (encode (.cpy d a b c strm scope ord q sloc dloc)) d scope ord q [s.uni a, s.uni b, s.uni c] []

/-- The run of a CPY with T = 0. -/
def State.runCpy (s : State) (x : Eng) (q : Nat) (c : Cmd) : CmdEnd :=
  let n := c.op 2
  if 2 ^ 32 ≤ n then .ended s (stFault 0x05 0)
  else if n = 0 then .ended s (stDone 0)
  else
    match s.side x (cmdSloc c) (c.op 0) n, s.side x (cmdDloc c) (c.op 1) n with
    | .error e, _ => .ended s (stFault e c.progress)
    | _, .error e => .ended s (stFault e c.progress)
    | .ok src, .ok dst => s.copyNext x q c src [dst] n

/-! GATHER (R284). -/

/-- GATHER: S(k) to S(k + 3) are captured. -/
def execGather (d : BitVec 7) (a : BitVec 8) (strm : BitVec 4) (scope : BitVec 3) (ord : BitVec 2) (q : BitVec 3) (sloc dloc : BitVec 2)
    (s : State) : Out :=
  let reg (k : Nat) : DWord := s.crew.getS (a.toNat - 0x60 + k)
  let rowb := field (reg 3).toNat 0 24
  perform { srcs := [a], ends := true
            ok := engineOk d scope [] && isS a && decide (a.toNat ≤ 0x60 + 28) && dloc != 3#2 && decide (1 ≤ rowb ∧ rowb ≤ 2 ^ 20) &&
              field (reg 3).toNat 48 16 == 0 } s fun s =>
    s.toQueue (encode (.gather d a strm scope ord q sloc dloc)) d scope ord q [reg 0, reg 1, reg 2, reg 3] []

/-- The source of row idx of a gather. -/
def State.rowSource (s : State) (base : Side) (at_ : Int) (rowb : Nat) : Except Nat Side :=
  match base with
  | .mem va => .ok (.mem (wrapInt 64 ((va : Int) + at_)))
  | .part k level off =>
    let o := (off : Int) + at_
    if o < 0 ∨ o % 16 ≠ 0 ∨ ((s.partAt k level).size : Int) < o + rowb then .error 0x05 else .ok (.part k level o.toNat)

/-- The next row of a gather (R284): its index is read now, its pages are checked, and its writes are formed. What the command's rows
before it are still to write stands in what it sees. -/
def State.gatherRow (s : State) (x : Eng) (q : Nat) (c : Cmd) (src : Side) (slot level doff list rowb count me : Nat) : CmdEnd :=
  let i := c.progress / rowb
  let (ix, bad) := s.engPart x me 0 (list + 8 * i) 8
  if bad then .ended s (stFault 0x03 c.progress)
  else if (s.partAt slot level).size < doff + (i + 1) * rowb then .ended s (stFault 0x05 c.progress)
  else
    match s.rowSource src (signExt 64 ix * signExt 64 (c.op 1)) rowb with
    | .error e => .ended s (stFault e c.progress)
    | .ok row =>
      let r := s.copyRow x (c.asks q) row (.part slot level (doff + i * rowb)) rowb
      match r.cause with
      | some e => endFault s e c.progress
      | none =>
        let first := c.poisonAt.or (r.bad.map (· + c.progress))
        let c1 := { c with progress := c.progress + rowb, poisonAt := first, got := [] }
        .more r.s (if count ≤ i + 1 then { c1 with run := .ended (copyStatus c1.progress none first) } else c1) []

/-- The run of a GATHER. -/
def State.runGather (s : State) (x : Eng) (q : Nat) (c : Cmd) : CmdEnd :=
  let rowb := field (c.op 3) 0 24
  let count := field (c.op 3) 24 24
  let doff := field (c.op 2) 0 32
  let list := field (c.op 2) 32 32
  let fault (e : Nat) : CmdEnd := .ended s (stFault e 0)
  if count = 0 then .ended s (stDone 0)
  else
    match s.ownSlot x 0 with
    | none => fault 0x04
    | some me =>
      if rowb % 16 ≠ 0 ∨ list % 8 ≠ 0 ∨ (s.partAt me 0).size < list + 8 * count then fault 0x05
      else
        match s.locWord x (cmdDloc c) (2 ^ 63 + doff) 0, s.side x (cmdSloc c) (c.op 0) 0 with
        | .ok (.part slot level _), .ok src =>
          s.gatherRow x q c src slot level doff list rowb count me
        | .error e, _ => fault e
        | _, .error e => fault e
        | _, _ => fault 0x04

/-! MCAST (R285). -/

/-- MCAST. -/
def execMcast (d : BitVec 7) (a b c : BitVec 8) (strm : BitVec 4) (scope : BitVec 3) (ord : BitVec 2) (q : BitVec 3) (sloc dlev : BitVec 2)
    (s : State) : Out :=
  perform { srcs := [a, b, c], ends := true, ok := engineOk d scope [a, b, c] && dlev != 3#2 } s fun s =>
    s.toQueue (encode (.mcast d a b c strm scope ord q sloc dlev)) d scope ord q [s.uni a, s.uni b, s.uni c] []

/-- The slots from which the destination parts of a mask word are reached, or cause 0x04. -/
def State.castSlots (s : State) (x : Eng) (level m : Nat) : Except Nat (List Nat) :=
  let rowm := field m 0 2
  let colm := field m 2 4
  let clm := field m 6 12
  let corem := field m 18 8
  if field m 26 6 ≠ 0 ∨ (1 ≤ level ∧ corem ≠ 0) ∨ (level = 2 ∧ clm ≠ 0) then .error 0x04
  else
    let dies := (List.range 8).filter fun d => rowm.testBit (d / 4) && colm.testBit (d % 4)
    let named : List (Option Nat) := dies.flatMap fun d =>
      if level = 2 then [s.namedSlot x.launch 2 d 0 0]
      else ((List.range 12).filter fun k => clm.testBit k).flatMap fun k =>
        if level = 1 then [s.namedSlot x.launch 1 d k 0]
        else ((List.range 8).filter fun j => corem.testBit j).map fun j => s.namedSlot x.launch 0 d k j
    match named.mapM id with
    | some ks => .ok ks
    | none => .error 0x04

/-- The run of an MCAST with T = 0. -/
def State.runMcast (s : State) (x : Eng) (q : Nat) (c : Cmd) : CmdEnd :=
  let n := c.op 2
  let level := cmdDloc c
  let off := field (c.op 1) 32 32
  let fault (e : Nat) : CmdEnd := .ended s (stFault e 0)
  if 2 ^ 32 ≤ n ∨ n % 16 ≠ 0 then fault 0x05
  else
    match s.castSlots x level (c.op 1) with
    | .error e => fault e
    | .ok ks =>
      if ks.isEmpty ∨ n = 0 then .ended s (stDone 0)
      else if off % 16 ≠ 0 ∨ ks.any (fun k => decide ((s.partAt k level).size < off + n)) then fault 0x05
      else
        match s.side x (cmdSloc c) (c.op 0) n with
        | .error e => fault e
        | .ok src => s.copyNext x q c src (ks.map fun k => .part k level off) n

/-! CPYACC (R286). -/

/-- A format of ordered accumulation. -/
def accumFmt (f : Nat) : Bool := decide (f ≤ 3) || f == 13

/-- CPYACC. -/
def execCpyacc (d : BitVec 7) (a b c : BitVec 8) (strm fmt : BitVec 4) (scope : BitVec 3) (ord : BitVec 2) (q : BitVec 3)
    (sloc dloc : BitVec 2) (s : State) : Out :=
  perform { srcs := [a, b, c], ends := true, ok := engineOk d scope [a, b, c] && accumFmt fmt.toNat } s fun s =>
    s.toQueue (encode (.cpyacc d a b c strm fmt scope ord q sloc dloc)) d scope ord q [s.uni a, s.uni b, s.uni c] []

/-- The sides of a CPYACC after its checks. -/
def State.accSides (s : State) (x : Eng) (c : Cmd) : Except Nat (Side × Side) :=
  let n := field (c.op 2) 0 32
  let idx := field (c.op 2) 32 16
  let nm1 := field (c.op 2) 48 16
  if nm1 < idx then .error 0x04
  else if n % 16 ≠ 0 then .error 0x05
  else if (cmdSloc c = 3 ∧ c.op 0 % 16 ≠ 0) ∨ (cmdDloc c = 3 ∧ c.op 1 % 16 ≠ 0) then .error 0x06
  else do
    let src ← s.side x (cmdSloc c) (c.op 0) n
    let dst ← s.side x (cmdDloc c) (c.op 1) n
    return (src, dst)

/-- The number of a part among the places of R286; 0 is device memory. -/
def State.accPlace (s : State) (d : Side) : Nat :=
  match d with
  | .mem _ => 0
  | .part k level _ => 1 + s.partId k level

/-- The next granule of a CPYACC: its data with its poison, and the granule it goes to. -/
inductive AccNext where
  | fault (cause : Nat)
  | finished
  | cow (va : Nat)
  /-- The two sides, the source's data and marker, and the parts of both. -/
  | granule (from_ dst : Side) (data : Nat) (bad : Bool) (src ps : List Piece)

def State.accNext (s : State) (x : Eng) (c : Cmd) : AccNext :=
  match s.accSides x c with
  | .error e => .fault e
  | .ok (src, dst) =>
    if field (c.op 2) 0 32 ≤ c.progress then .finished
    else
      match s.pageCheck x c { r := true } src 16, s.pageCheck x c { r := true, w := true } dst 16 with
      | .error e, _ => .fault e
      | _, .error e => .fault e
      | .ok ps, .ok qs =>
        match cowAt qs with
        | some va => .cow va
        | none =>
          let (v, bad) := s.sideRead x src c.progress 16 ps
          .granule src dst v (!bad.isEmpty) ps qs

/-- A granule receives a contribution (R286, R418): the marker stays, and a poisoned source sets it. -/
def State.accInto (s : State) (x : Eng) (crew q : Nat) (fmt idx nm1 : Nat) (at_ : Nat) (dst : Side) (data : Nat) (bad : Bool)
    (src ps : List Piece) : Option (State × Bool) :=
  let s := (s.engKeep x (src ++ ps)).recallAll src
  match dst with
  | .part k level off =>
    let g := (off + at_) / 16
    if s.expected (s.accPlace dst) g ≠ idx then none
    else
      let p := s.partAt k level
      let old := natOf (p.read (16 * g) 16)
      let bad1 := bad || fget false p.poison g
      let p1 := p.engineWrite (16 * g) (bytesOf 16 (accGranule fmt old data))
      some ((s.setPartAt k level { p1 with poison := fset false p1.poison g bad1 }).took (s.accPlace dst) g idx nm1, bad1)
  | .mem _ =>
    match ps with
    | [p] =>
      if pteRemote p.page.pte then
        let r : FabReq :=
          { kind := 6, dev := pteDev p.page.pte, rctx := pteRctx p.page.pte, sec := x.sec, va := dw p.va
            size := idx + nm1 * 65536, aop := 0, fmt := BitVec.ofNat 4 fmt, data := dw data, data2 := dw (data / 2 ^ 64)
            crew := crew, lane := q, plane := s.planeOf p.va (pteDev p.page.pte), bad := bad }
        some ((s.send [r]).1, bad)
      else
        let g := p.page.pa / 16
        if s.expected 0 g ≠ idx then none
        else
          let old := s.loadPhys p.page.pa 16
          let bad1 := bad || fget false s.poison g
          let s1 := (s.recallAll ps).storePhys p.page.pa (bytesOf 16 (accGranule fmt old data))
          some (({ s1 with poison := if p.page.pa < memTop then fset false s1.poison g bad1 else s1.poison }).took 0 g idx nm1, bad1)
    | _ => none

/-- The party of a started command, with what it has read ahead and from other devices. -/
def State.cmdEng (s : State) (slot : Nat) (c : Cmd) : Eng := { s.engOf slot c.bad with seen := c.seen, got := c.got }

/-- A command that goes on waiting reads its entries at other devices anew; none where it has read nothing there. -/
def State.forgetReads (s : State) (slot q : Nat) (c : Cmd) : Option State :=
  if c.got.isEmpty then none else some (s.setHead slot q { c with got := [] })

/-- CPYACC_CONTRIBUTION (R286): the next granule of a CPYACC enters the reorder buffer of its destination and is added. -/
def execCpyaccContribution (team q : Nat) (s : State) : Out :=
  match (s.teamAt team).queue q with
  | c :: _ =>
    if opOf c.w ≠ 0xE1 ∨ c.run ≠ .started ∨ c.cow.isSome then .refused (.notEnabled "CPYACC_CONTRIBUTION")
    else
      let x := s.cmdEng team c
      match s.accNext x c with
      | .granule from_ dst v bad src ps =>
        match s.accInto x c.crew q (field c.e.toNat 16 4) (field (c.op 2) 32 16) (field (c.op 2) 48 16) c.progress dst v bad src ps with
        | some (s1, b) =>
          .next (s1.setHead team q { c with
            progress := c.progress + 16, pages := keptPages s.fresh c [from_, dst] (src ++ ps) 16 (field (c.op 2) 0 32), got := []
            poisonAt := c.poisonAt.or (if b then some c.progress else none) })
        | none => .refused (.notEnabled "CPYACC_CONTRIBUTION")
      | _ => .refused (.notEnabled "CPYACC_CONTRIBUTION")
  | [] => .refused (.notEnabled "CPYACC_CONTRIBUTION")

/-- The end of a CPYACC. -/
def State.runCpyacc (s : State) (x : Eng) (c : Cmd) : CmdEnd :=
  match s.accNext x c with
  | .fault e => endFault s e c.progress
  | .finished => .ended s (copyStatus c.progress none c.poisonAt)
  | .cow va => .cow va
  | .granule _ _ _ _ _ _ => .wait

/-! CPYDD (R287, R385 to R387). -/

/-- CPYDD. -/
def execCpydd (d : BitVec 7) (a b c : BitVec 8) (strm : BitVec 4) (scope : BitVec 3) (ord : BitVec 2) (q : BitVec 3) (sloc : BitVec 2)
    (s : State) : Out :=
  perform { srcs := [a, b, c], ends := true, ok := engineOk d scope [a, b, c] } s fun s =>
    s.toQueue (encode (.cpydd d a b c strm scope ord q sloc)) d scope ord q [s.uni a, s.uni b, s.uni c] []

/-- What the next page of a CPYDD meets. -/
inductive DdNext where
  | fault (cause : Nat)
  | finished
  | cow (va : Nat)
  /-- The source with its parts, the destination's page and address, its table entry's address, and what the lookup found. -/
  | page (src : Side) (ps : List Piece) (p : Page) (va ptepa : Nat)

def State.ddNext (s : State) (x : Eng) (c : Cmd) : DdNext :=
  let n := 4096 * c.op 2
  if s.ctxTtbase x.ctx % 65536 ≠ 0 ∨ c.op 1 % 4096 ≠ 0 then .fault 0x06
  else
    match s.side x (cmdSloc c) (c.op 0) n with
    | .error e => .fault e
    | .ok src =>
      if n ≤ c.progress then .finished
      else
        let va := (c.op 1 + c.progress) % 2 ^ 64
        match s.sideCheck x { r := true } src c.progress 4096, s.engCheck x { w := true } va 4096 with
        | .error e, _ => .fault e
        | _, .error e => .fault e
        | .ok ps, .ok qs =>
          match qs with
          | [p] =>
            if p.page.level ≠ 5 ∨ pteCont p.page.pte ∨ pteRemote p.page.pte ∨ !pteW p.page.pte then .fault 0x02
            else if pteCow p.page.pte then .cow va
            else
              match s.pteAddr x.ctx va with
              | some ptepa => if s.poisoned ptepa 8 then .fault 0x03 else .page src ps p.page va ptepa
              | none => .fault 0x01
          | _ => .fault 0x01

/-- The granules that a page written whole with its poison owes (R311). -/
def ddOwed (stamp : Nat) (p : Page) (v : Nat) (bad : List (Nat × Nat)) : List Owed :=
  (List.range 256).map fun g =>
    { key := p.pa / 16 + g, mask := 2 ^ 128 - 1, data := field v (128 * g) 128, stamp := stamp
      mark := bad.any fun r => decide (r.1 < 16 * g + 16) && decide (16 * g < r.2) }

/-- One page step (R287): the state, the writes of the page, which are still to be performed, and the first poisoned byte of the source
page; or the cause with which the dedup table refuses it, or 0 while a frame that the page is to be compared with is still being
written. -/
def State.ddStep (s : State) (x : Eng) (die : Nat) (src : Side) (at_ : Nat) (ps : List Piece) (p : Page) (va ptepa : Nat) :
    Except Nat (State × List Owed × Option Nat) :=
  let (v, bad) := s.sideRead x src at_ 4096 ps
  let bytes := bytesOf 4096 v
  let f := fprint bytes
  match s.ddLookup x.ctx x.sec f with
  | .error r => .error (causeOfRank r)
  | .ok found =>
    let s := ((s.recallLines found.lines).recallAll ps).recallFrames (found.hits.map fun i => ddPfn (s.ddGet x.ctx x.sec i))
    let shared (s : State) (pfn : Nat) : State :=
      (s.setPte ptepa (pteWith p.pte pfn true false)).dropTlb x.ctx (va / 4096) 1
    let hit := found.hits.find? fun i =>
      let fr := ddPfn (s.ddGet x.ctx x.sec i) * 4096
      s.frameBytes fr == bytes && !s.poisoned fr 4096
    if found.hits.any fun i => s.owedTo (ddPfn (s.ddGet x.ctx x.sec i) * 4096) 4096 then .error 0
    else if !bad.isEmpty then .ok (s, ddOwed s.fresh p v bad, (bad.map (·.1)).min?)
    else
      match hit, found.free with
      | some i, _ =>
        let e := s.ddGet x.ctx x.sec i
        .ok (((shared s (ddPfn e)).ddSet x.ctx x.sec i (ddEntry (ddRef e + 1) 1 (ddPfn e) (ddPrint e))).poolPush (poolKey die x.sec) (ptePfn p.pte / 4096), [], none)
      | none, some i =>
        let pfn := ptePfn p.pte / 4096
        .ok ((shared s pfn).ddSet x.ctx x.sec i (ddEntry 1 1 pfn f), ddOwed s.fresh p v [], none)
      | none, none => .ok (s, ddOwed s.fresh p v [], none)

/-- CPYDD_PAGE_STEP (R287): the serialiser handles the next page of a CPYDD. -/
def execCpyddPageStep (team q : Nat) (s : State) : Out :=
  match (s.teamAt team).queue q with
  | c :: _ =>
    if opOf c.w ≠ 0xE2 ∨ c.run ≠ .started ∨ c.cow.isSome then .refused (.notEnabled "CPYDD_PAGE_STEP")
    else
      let x := s.cmdEng team c
      match s.ddNext x c with
      | .page src ps p va ptepa =>
        if !s.frameSettled x.ctx va || s.cowHold.any (·.ctx == x.ctx) then .refused (.notEnabled "CPYDD_PAGE_STEP")
        else
        match ((s.engKeep x ps).keepSpan x.cl x.ctx x.sec va 4096).ddStep x (dieOf team) src c.progress ps p va ptepa with
        | .ok (s1, owed, b) =>
          .next (s1.setHead team q { c with
            progress := c.progress + 4096, owed := c.owed ++ owed, got := [], poisonAt := c.poisonAt.or (b.map (· + c.progress)) })
        | .error _ => .refused (.notEnabled "CPYDD_PAGE_STEP")
      | _ => .refused (.notEnabled "CPYDD_PAGE_STEP")
  | [] => .refused (.notEnabled "CPYDD_PAGE_STEP")

/-- The end of a CPYDD. -/
def State.runCpydd (s : State) (x : Eng) (die : Nat) (c : Cmd) : CmdEnd :=
  match s.ddNext x c with
  | .fault e => endFault s e c.progress
  | .finished => .ended s (copyStatus c.progress none c.poisonAt)
  | .cow va => .cow va
  | .page src ps p va ptepa =>
    match s.ddStep x die src c.progress ps p va ptepa with
    | .error e => if e = 0 then .wait else .ended s (stFault e c.progress)
    | .ok _ => .wait

end Sys2Proof.Machine
end

