-- ==== Sys2Proof/Machine/Events.lean ====
section
/-! DEFINITION. The event unit (R31, R32, R254, R360): reading a context's vector and one change of it, with the
launches that become eligible, the EVWAITs released and the interrupts raised at that change. -/
namespace Sys2Proof.Machine

/-- The event vector of a context by its RCB's address: the unit's, or EVEC in memory (R31, R360). -/
def State.vector (s : State) (ctx : Nat) : BitVec 256 :=
  match lookup s.vectors ctx with
  | some v => v
  | none => BitVec.ofNat 256 (s.readNat (ctx + 96) 32)

/-- WAITMASK and SETMASK of a launch record (Table 2.1). -/
def Launch.waitMask (l : Launch) : BitVec 256 := l.record.extractLsb' 256 256
def Launch.setMask (l : Launch) : BitVec 256 := l.record.extractLsb' 512 256

/-- Window w of a vector (R31). -/
def windowOf (v : BitVec 256) (w : Nat) : DWord := v.extractLsb' (64 * w) 64

/-- A vector with window w replaced. -/
def setWindow (v : BitVec 256) (w : Nat) (x : DWord) : BitVec 256 :=
  BitVec.ofNat 256 (v.toNat - (windowOf v w).toNat * 2 ^ (64 * w) + x.toNat * 2 ^ (64 * w))

/-- The condition of an EVWAIT (R253). -/
def evMet (x mask : DWord) (any : Bool) : Bool := if any then x &&& mask != 0 else x &&& mask == mask

/-- The launches of the context whose condition a change satisfies become eligible (R32). -/
def State.eligibleNow (s : State) (ctx : Nat) (v : BitVec 256) : State :=
  { s with launches := s.launches.map fun e =>
      let l := e.2
      if l.ctx == ctx && l.read && !l.ended && !l.eligible && (v &&& l.waitMask == l.waitMask) then
        (e.1, { l with eligible := true })
      else e }

/-- The crews whose EVWAIT a change satisfies become ready (R254). -/
def State.wakeEvents (s : State) (ctx : Nat) (v : BitVec 256) : State :=
  s.crews.foldl (fun s e =>
    match e.2.block with
    | some (.evwait w mask any) =>
      if (s.teamAt (slotOf e.1)).ctx == ctx && evMet (windowOf v w) mask any then
        ((s.at_ e.1).unblock 2).at_ s.cur
      else s
    | _ => s) s

/-- MSI-X vector 0 of every function whose EVCTX names the context and whose mask names a bit that rose (R360). -/
def State.raiseEvents (s : State) (ctx : Nat) (old v : BitVec 256) : State :=
  [0, 1].foldl (fun s fn =>
    let rose := v &&& ~~~old
    if (s.reg fn 0x2000).toNat == ctx &&
        (List.range 4).any (fun w => windowOf rose w &&& s.reg fn (0x2030 + 8 * w) != 0) then s.raiseIn fn 0
    else s) s

/-- One change of an event vector (R32). -/
def State.changeVector (s : State) (ctx : Nat) (f : BitVec 256 → BitVec 256) : State :=
  let old := s.vector ctx
  let v := f old
  ((({ s with vectors := insert s.vectors ctx v }).eligibleNow ctx v).wakeEvents ctx v).raiseEvents ctx old v

end Sys2Proof.Machine
end

