-- ==== Sys2Proof/Machine/Special.lean ====
section
/-! DEFINITION. Special registers and tile control registers (spec/07 R171, R172, spec/09 R215 to R219). -/
namespace Sys2Proof.Machine

/-- A special register exists (Table 7.11). -/
def specialExists (n : Nat) : Bool := decide (n ≤ 0x1F) && n != 0x19

/-- A special register accepts MTS (Table 7.11). -/
def specialWritable (n : Nat) : Bool :=
  n == 0 || (decide (8 ≤ n) && decide (n ≤ 0x0D)) || (decide (0x12 ≤ n) && decide (n ≤ 0x17)) ||
    (decide (0x1A ≤ n) && decide (n ≤ 0x1D))

/-- The value MFS reads (R171, R217), with CLOCK at c. -/
def State.readSpecial (s : State) (n : Nat) (c : Nat) : DWord :=
  let w := s.crew
  let t := s.team
  match n with
  | 0x00 => s.actMask.setWidth 64
  | 0x01 => dw s.width
  | 0x02 => dw s.crewid
  | 0x03 => dw t.teamid
  | 0x04 => dw t.nteams
  | 0x05 => dw s.coreid
  | 0x06 => dw (clusterOf (slotOf s.cur) % 12)
  | 0x07 => dw (dieOf (slotOf s.cur))
  | 0x08 => w.fpcr
  | 0x09 => w.fpsr
  | 0x0A => w.psel
  | 0x0B => w.rxf
  | 0x0C => match s.active with
    | [] => 0
    | l :: _ => (fget 0 w.seed l).setWidth 64
  | 0x0D => w.strmdef
  | 0x0E => w.trapcause
  | 0x0F => w.trappc
  | 0x10 => w.traplanes
  | 0x11 => w.trapaddr
  | 0x12 => w.traprep
  | 0x13 => w.resumepc
  | 0x14 => fget 0 w.cvrole 0
  | 0x15 => fget 0 w.cvrole 1
  | 0x16 => fget 0 w.cvrole 2
  | 0x17 => fget 0 w.cvrole 3
  | 0x18 => t.tokhold.setWidth 64
  | 0x1A => windowOf (s.vector t.ctx) 0
  | 0x1B => windowOf (s.vector t.ctx) 1
  | 0x1C => windowOf (s.vector t.ctx) 2
  | 0x1D => windowOf (s.vector t.ctx) 3
  | 0x1E => dw c
  | 0x1F => if t.compat then 1 else 0
  | _ => 0

/-- The event unit takes the context's vector when it is first evaluated (R31). -/
def State.holdVector (s : State) (ctx : Nat) : State := { s with vectors := insert s.vectors ctx (s.vector ctx) }

/-- CLOCK is looked at: time has passed since it was last looked at (R217; log entry 6). -/
def State.lookClock (s : State) : State := { s with clock := s.clock + Config.elapsed s.fresh }

/-- MFS (R215). -/
def execMfs (nw : Bool) (d : BitVec 7) (imm : BitVec 16) (s : State) : Out :=
  let n := imm.toNat
  perform { up := 1, words := 1, ok := dS d && specialExists n } s fun s =>
    let s := if n = 0x1E then s.lookClock
      else if 0x1A ≤ n ∧ n ≤ 0x1D then s.holdVector s.team.ctx else s
    .done (s.putS nw d (s.readSpecial n s.clock))

/-- The checks of Table 9.4 on the value v. -/
def State.mtsOk (s : State) (n : Nat) (v : DWord) : Bool :=
  match n with
  | 0x08 => v &&& ~~~7#64 == 0
  | 0x09 => v &&& ~~~0x1F#64 == 0
  | 0x0A => v &&& ~~~0x3F#64 == 0
  | 0x0B => v &&& ~~~1#64 == 0
  | 0x0D => v &&& ~~~0xF#64 == 0
  | 0x12 => v &&& ~~~0x9F3F#64 == 0
  | 0x13 => v &&& 3#64 == 0 && decide (v.toNat < s.team.textsize)
  | 0x14 => v &&& 0xF8E00000#64 == 0
  | 0x15 => v &&& 0xF8E00000#64 == 0
  | 0x16 => v &&& 0xF8E00000#64 == 0
  | 0x17 => v &&& 0xF8E00000#64 == 0
  | _ => true

/-- The effect of MTS (Table 9.4). -/
def State.writeSpecial (s : State) (n : Nat) (v : DWord) : State :=
  let c := s.crew
  match n with
  | 0x00 => s.setCrew { c with exm := v.setWidth 32 &&& s.liveMask }
  | 0x08 => s.setCrew { c with fpcr := v }
  | 0x09 => s.setCrew { c with fpsr := v }
  | 0x0A => s.setCrew { c with psel := v }
  | 0x0B => s.setCrew { c with rxf := v }
  | 0x0C => s.setCrew { c with seed := (List.range s.width).foldl (fun m l => fset 0 m l (seedMix (v.setWidth 32) l)) c.seed }
  | 0x0D => s.setCrew { c with strmdef := v }
  | 0x12 => s.setCrew { c with traprep := v }
  | 0x13 => s.setCrew { c with resumepc := v }
  | 0x14 => s.setCrew { c with cvrole := fset 0 c.cvrole 0 v }
  | 0x15 => s.setCrew { c with cvrole := fset 0 c.cvrole 1 v }
  | 0x16 => s.setCrew { c with cvrole := fset 0 c.cvrole 2 v }
  | 0x17 => s.setCrew { c with cvrole := fset 0 c.cvrole 3 v }
  | 0x1A => s.changeVector s.team.ctx fun x => setWindow x 0 v
  | 0x1B => s.changeVector s.team.ctx fun x => setWindow x 1 v
  | 0x1C => s.changeVector s.team.ctx fun x => setWindow x 2 v
  | 0x1D => s.changeVector s.team.ctx fun x => setWindow x 3 v
  | _ => s

/-- MTS (R215, R216): D holds the source's code. -/
def execMts (d : BitVec 7) (imm : BitVec 16) (s : State) : Out :=
  let n := imm.toNat
  let v := s.crew.getS (sNum d)
  perform { ends := true, words := 1, ok := dS d && specialWritable n && s.mtsOk n v } s fun s =>
    .done (s.writeSpecial n v)

/-- The reserved bits of a TC register (Table 9.5). -/
def tcReserved : DWord := 0xFFFFFFFFFFF0C0F0#64

/-- The TC register of tile n. -/
def Team.tcOf (t : Team) (n : Nat) : DWord := fget 0 t.tc n

/-- MVTC TCn, A (R219). -/
def execMvtcTo (d : BitVec 7) (a : BitVec 8) (s : State) : Out :=
  perform { srcs := [a], ends := true
            ok := s.tileOk d.toNat && isUniform a && s.uni a &&& tcReserved == 0 } s fun s =>
    .done (s.setTeam { s.team with tc := fset 0 s.team.tc d.toNat (s.uni a) })

/-- MVTC D, TCn (R219). -/
def execMvtcFrom (nw : Bool) (d : BitVec 7) (a : BitVec 8) (s : State) : Out :=
  perform { up := 1, ends := true, ok := dS d && s.tileOk a.toNat } s fun s =>
    .done (s.putS nw d (s.team.tcOf a.toNat))

end Sys2Proof.Machine
end

