-- ==== Sys2Proof/Machine/Matrix.lean ====
section
/-! DEFINITION. Tiles and the matrix engine (spec/05 R117 to R119, spec/11 R272 to R277). -/
namespace Sys2Proof.Machine

/-! Tile data (R218). -/

/-- n bytes of tile t from byte a on. -/
def Team.tileBytes (t : Team) (n a len : Nat) : List Byte := fgetRun 0 t.tiles (16384 * n + a) len
def Team.setTileBytes (t : Team) (n a : Nat) (bs : List Byte) : Team := { t with tiles := fsetRun 0 t.tiles (16384 * n + a) bs }

/-- The code of element c of row r of tile n in a format. -/
def Team.tileElem (t : Team) (n fmt r c : Nat) : Nat :=
  let z := zOf fmt
  let bit := z * c
  natOf (t.tileBytes n (256 * r + bit / 8) ((z + 7) / 8)) / 2 ^ (bit % 8) % 2 ^ z

/-- Write that element. -/
def Team.setTileElem (t : Team) (n fmt r c v : Nat) : Team :=
  let z := zOf fmt
  let bit := z * c
  let len := (z + 7) / 8
  let old := natOf (t.tileBytes n (256 * r + bit / 8) len)
  let new := old - old / 2 ^ (bit % 8) % 2 ^ z * 2 ^ (bit % 8) + v % 2 ^ z * 2 ^ (bit % 8)
  t.setTileBytes n (256 * r + bit / 8) (bytesOf len new)

/-- Columns of a row (R218). -/
def tcCols (tc : DWord) : Nat := tcRowBytes tc * 8 / zOf (tcFmt tc)

/-- All of a tile is zero. -/
def Team.zeroTile (t : Team) (n : Nat) : Team :=
  { t with tiles := t.tiles.filter fun e => decide (e.1 < 16384 * n) || decide (16384 * (n + 1) ≤ e.1) }

/-! Accumulators (R53). -/

def Team.accWord (t : Team) (n w : Nat) : Word := fget 0 t.acc (4096 * n + w)
def Team.setAccWord (t : Team) (n w : Nat) (x : Word) : Team := { t with acc := fset 0 t.acc (4096 * n + w) x }
def Team.zeroAcc (t : Team) (n : Nat) : Team :=
  { t with acc := t.acc.filter fun e => decide (e.1 < 4096 * n) || decide (4096 * (n + 1) ≤ e.1) }

/-- Element (r, c) of an accumulator, or of the F64 pair from an even tile: columns 0 to 31 stand in the even one. -/
def Team.accElem (t : Team) (f64 : Bool) (n r c : Nat) : Nat :=
  if f64 then
    let k := n + c / 32
    let w := 64 * r + 2 * (c % 32)
    (t.accWord k w).toNat + (t.accWord k (w + 1)).toNat * 2 ^ 32
  else (t.accWord n (64 * r + c)).toNat
def Team.setAccElem (t : Team) (f64 : Bool) (n r c v : Nat) : Team :=
  if f64 then
    let k := n + c / 32
    let w := 64 * r + 2 * (c % 32)
    (t.setAccWord k w (w32 v)).setAccWord k (w + 1) (w32 (v / 2 ^ 32))
  else t.setAccWord n (64 * r + c) (w32 v)

/-! Matrix summation. -/

/-- A matrix format (Table 11.6). -/
def matrixFmt (f : Nat) : Bool := decide (f ≤ 9)

/-- Elements per step (Table 11.6). -/
def stepElems (f : Nat) : Nat :=
  match f with
  | 0 => 1
  | 1 => 8
  | 2 | 3 => 16
  | 9 => 64
  | _ => 32

/-- The accumulator's format (R117). -/
def accFmt (f : Nat) : Nat := if f = 0 then 0 else if f = 8 ∨ f = 9 then 13 else 1

/-- Table 5.4: the significand of T[f], 23 bits below the point. -/
def l6Table (f : Nat) : Nat :=
  match f with
  | 0 => 0x800000
  | 1 => 0x9837F0
  | 2 => 0xB504F3
  | _ => 0xD744FD

/-- The product of two L6 codes in the matrix engine (R105). -/
def l6Product (a b : Nat) : Val :=
  let la := a % 32
  let lb := b % 32
  if a % 64 = 32 ∨ b % 64 = 32 then .nan false
  else if la = 0 ∨ lb = 0 then .num false {}
  else .num (a / 32 % 2 != b / 32 % 2) { a := l6Table ((la + lb) % 4), e := ((la + lb) / 4 : Nat) - 8 - 23 }

/-- The product of two codes in the matrix engine. -/
def matProduct (fa fb a b : Nat) : Exact :=
  if fa = 7 ∧ fb = 7 then { v := l6Product a b } else vMul (valOf fa a) (valOf fb b)

/-- The exact sum of the products of two lists of codes (R118). -/
def dotExact (fa fb : Nat) (xs : List (Nat × Nat)) : Val := (vSum .rne (xs.map fun p => matProduct fa fb p.1 p.2)).v

/-- A value times a power of two. -/
def Val.scale (v : Val) (k : Int) : Val :=
  match v with
  | .num n x => .num n (x.scale k)
  | v => v

/-- An accumulator code plus a chunk (R117): integers wrap; floats round once. -/
def accAdd (f acc : Nat) (xs : List (Nat × Nat)) (fa fb : Nat) (scale : Option (Nat × Nat)) : Nat :=
  if f = 13 then wrapInt 32 (xs.foldl (fun s p => s + signExt (zOf fa) p.1 * signExt (zOf fb) p.2) (signExt 32 acc))
  else
    let s := dotExact fa fb xs
    let s := match scale with
      | none => s
      | some (ea, eb) => if ea = 0xFF ∨ eb = 0xFF then Val.nan false else s.scale ((ea : Int) + eb - 254)
    (finish f .rne (vAdd .rne (valOf f acc) s)).code

/-- −∞ as MMAM writes it (R276). -/
def minusInf (f : Nat) : Nat := if f = 0 then 0xFFF0000000000000 else if f = 13 then 0x80000000 else 0xFF800000

/-- A matrix operation's shapes: M, N and K (R273). -/
def mmaM (tcs : List DWord) : Nat := tcRows (tcs.headD 0)
def mmaN (tcs : List DWord) : Nat := tcRows (tcs.getD 1 0)
def mmaK (tcs : List DWord) : Nat := tcCols (tcs.headD 0)

/-- The steps of an operation. -/
def MatOp.steps (m : MatOp) : Nat :=
  if opOf m.w = 0xD2 then 1
  else
    let st := stepElems (tcFmt (m.tcs.headD 0))
    (mmaK m.tcs + st - 1) / st

/-- One element's step (R274 to R276). -/
def Team.mmaElem (t : Team) (m : MatOp) (r c : Nat) : Nat :=
  let fa := tcFmt (m.tcs.headD 0)
  let fb := tcFmt (m.tcs.getD 1 0)
  let af := accFmt fa
  let st := stepElems fa
  let ta := fieldA m.w
  let tb := fieldB m.w
  let ks := (List.range st).filterMap fun i =>
    let k := m.step * st + i
    if k < mmaK m.tcs then some (t.tileElem ta fa r k, t.tileElem tb fb c k) else none
  let old := t.accElem (af == 0) (fieldD m.w) r c
  match opOf m.w with
  | 0xD4 =>
    let ea := natOf (t.tileBytes (field m.e.toNat 0 4) (256 * r + m.step) 1)
    let eb := natOf (t.tileBytes (field m.e.toNat 4 4) (256 * c + m.step) 1)
    accAdd af old ks fa fb (some (ea, eb))
  | 0xD5 =>
    let mask := natOf (t.tileBytes (field m.e.toNat 0 4) (256 * r) 8)
    if mask / 2 ^ c % 2 = 1 then accAdd af old ks fa fb none else minusInf af
  | _ => accAdd af old ks fa fb none

/-- One step of an operation on a team's tiles and accumulators. -/
def Team.matStep (t : Team) (m : MatOp) : Team :=
  if opOf m.w = 0xD2 then
    if field m.e.toNat 0 1 = 1 then t.zeroAcc (fieldD m.w) else t.zeroTile (fieldD m.w)
  else
    let f64 := accFmt (tcFmt (m.tcs.headD 0)) == 0
    (List.range (mmaM m.tcs)).foldl (fun t' r =>
      (List.range (mmaN m.tcs)).foldl (fun t'' c => t''.setAccElem f64 (fieldD m.w) r c (t.mmaElem m r c)) t') t

/-- The operation whose step the matrix unit may perform for the team of a slot: the first issued, once nothing issued
before it stands in its way (R262). -/
def Team.nextMat (t : Team) : Option MatOp :=
  match t.matrix with
  | m :: _ => if t.clear m.issue m.foot then some m else none
  | [] => none

/-- The matrix unit's step for the team of a slot (R274): none when it has none. -/
def State.matrixStep (s : State) (slot : Nat) : Option State :=
  let t := s.teamAt slot
  match t.nextMat with
  | none => none
  | some m =>
    let t1 := t.matStep m
    let m1 := { m with step := m.step + 1 }
    if m1.step < m.steps then some (s.setTeamAt slot { t1 with matrix := m1 :: t1.matrix.drop 1 })
    else some ((s.setTeamAt slot { t1 with matrix := t1.matrix.drop 1 }).wakeTeam slot)

/-! The instructions. -/

/-- The matrix list holds 32 operations (Table 24.2). -/
def Team.matrixFull (t : Team) : Bool := decide (32 ≤ t.matrix.length)

/-- Issue a matrix operation. -/
def State.issueMat (s : State) (ws : List Word) (tcs : List DWord) : Effect :=
  let t := s.team
  if t.matrixFull then .unready
  else .done (s.setTeam { t with matrix := t.matrix ++ [{ w := ws.headD 0, e := (ws.drop 1).headD 0, tcs := tcs, issue := t.issues, step := 0 }]
                                 issues := t.issues + 1 })

/-- TZERO (R272): an accumulator whose token the crews hold is cleared at once. -/
def execTzero (d : BitVec 7) (kind : BitVec 1) (s : State) : Out :=
  let acc := kind == 1#1
  perform { ends := true, ok := if acc then s.accOk d.toNat else s.tileOk d.toNat } s fun s =>
    if acc && !s.team.unitHolds d.toNat then .done (s.setTeam (s.team.zeroAcc d.toNat))
    else s.issueMat (encode (.tzero d kind)) [1]

/-- The operands of MMA and its variants (R273). -/
def State.mmaOk (s : State) (d : BitVec 7) (a b : BitVec 8) : Bool :=
  let ta := s.team.tcOf a.toNat
  let tb := s.team.tcOf b.toNat
  let fa := tcFmt ta
  let fb := tcFmt tb
  s.tileOk a.toNat && s.tileOk b.toNat && s.accOk d.toNat && matrixFmt fa &&
    (fa == fb || ((fa == 4 || fa == 5) && (fb == 4 || fb == 5))) && tcRowBytes ta == tcRowBytes tb &&
    (fa != 0 || (d.toNat % 2 == 0 && s.accOk (d.toNat + 1)))

/-- The matrix unit holds the tokens of an operation's accumulators (Table 11.1). -/
def State.mmaTokens (s : State) (d : BitVec 7) (a : BitVec 8) : Bool :=
  s.team.unitHolds d.toNat && (tcFmt (s.team.tcOf a.toNat) != 0 || s.team.unitHolds (d.toNat + 1))

/-- Issue MMA or a variant: the tokens, then the matrix list. -/
def State.issueMma (s : State) (ws : List Word) (d : BitVec 7) (a b : BitVec 8) : Effect :=
  if !s.mmaTokens d a then .trap s.tokenTrap else s.issueMat ws [s.team.tcOf a.toNat, s.team.tcOf b.toNat]

/-- MMA. -/
def execMma (d : BitVec 7) (a b : BitVec 8) (s : State) : Out :=
  perform { ends := true, ok := s.mmaOk d a b } s fun s => s.issueMma (encode (.mma d a b)) d a b

/-- A scale tile: E8M0, a byte per block of 32 elements, and enough rows (R275). -/
def State.scaleOk (s : State) (n k rows : Nat) : Bool :=
  let tc := s.team.tcOf n
  s.tileOk n && tcFmt tc == 14 && decide ((k + 31) / 32 ≤ tcRowBytes tc) && decide (rows ≤ tcRows tc)

/-- MMAS. -/
def execMmas (d : BitVec 7) (a b : BitVec 8) (sb sa : BitVec 4) (s : State) : Out :=
  let ta := s.team.tcOf a.toNat
  let tb := s.team.tcOf b.toNat
  perform { ends := true
            ok := s.mmaOk d a b && decide (4 ≤ tcFmt ta) && decide (tcFmt ta ≤ 7) && s.scaleOk sa.toNat (tcCols ta) (tcRows ta) &&
              s.scaleOk sb.toNat (tcCols ta) (tcRows tb) } s fun s =>
    s.issueMma (encode (.mmas d a b sb sa)) d a b

/-- MMAM. -/
def execMmam (d : BitVec 7) (a b : BitVec 8) (tm : BitVec 4) (s : State) : Out :=
  let tc := s.team.tcOf tm.toNat
  perform { ends := true
            ok := s.mmaOk d a b && s.tileOk tm.toNat && tcFmt tc == 15 && decide (tcRows (s.team.tcOf a.toNat) ≤ tcRows tc) } s fun s =>
    s.issueMma (encode (.mmam d a b tm)) d a b

/-- Words of a row that a lane handles (R277). -/
def State.rowQ (s : State) : Nat := 64 / s.width

/-- The row of ACCRD and ACCWR. -/
def State.accRow (s : State) (a : BitVec 8) (row : BitVec 6) : Nat := (s.uni a).toNat + row.toNat

/-- A V base for ACCRD and ACCWR: a multiple of q with q registers. -/
def State.accV (s : State) (v : Nat) : Bool := v % s.rowQ == 0 && decide (v < 96) && s.vBlockOk v s.rowQ

/-- ACCRD. -/
def execAccrd (d : BitVec 7) (a b : BitVec 8) (row : BitVec 6) (s : State) : Out :=
  perform { srcs := [a], ends := true
            ok := isUniform a && s.accOk b.toNat && s.accV d.toNat && decide (s.accRow a row < 64) } s fun s =>
    if s.team.unitHolds b.toNat then .trap s.tokenTrap
    else
      let q := s.rowQ
      let base := 64 * s.accRow a row
      .done (s.setCrew ((List.range q).foldl (fun c k =>
        c.setVs (d.toNat + k) s.active fun l => s.team.accWord b.toNat (base + q * l + k)) s.crew))

/-- ACCWR. -/
def execAccwr (a b c : BitVec 8) (row : BitVec 6) (s : State) : Out :=
  perform { srcs := [a, c], ends := true
            ok := isUniform a && s.accOk b.toNat && s.accV c.toNat && decide (s.accRow a row < 64) } s fun s =>
    if s.team.unitHolds b.toNat then .trap s.tokenTrap
    else
      let q := s.rowQ
      let base := 64 * s.accRow a row
      .done (s.setTeam (s.active.foldl (fun t l => (List.range q).foldl (fun t k =>
        t.setAccWord b.toNat (base + q * l + k) (s.crew.getV (c.toNat + k) l)) t) s.team))

end Sys2Proof.Machine
end

