-- ==== Sys2Proof/Machine/TensorMove.lean ====
section
/-! DEFINITION. Moves that follow the layout (R99): TLD and TST (R270, R271), CPY and MCAST with T = 1 (R283, R285), and
TDESC (R280), from issue to the effect of the command. -/
namespace Sys2Proof.Machine

/-! Elements of a handle. -/

/-- The checks of a handle use by an engine, on the entry as its start read it: the entry, its owner, and no lane registers
(R80, R82, R84, R271). -/
def useEntry (x : Eng) (held : Nat × BitVec 4096) : Except Nat Nat :=
  let e := held.2.toNat
  if held.1 ≠ 0 then .error held.1
  else if !entryOk e 0 0 0 || eRes e == 0 || !eOwned x e then .error 0x04 else .ok e

/-- Entry i of those that a command holds. -/
def Cmd.entry (c : Cmd) (i : Nat) : Nat × BitVec 4096 := c.ents.getD i (0, 0)

/-- RAW matches only RAW (R271). -/
def rawMatch (f g : Nat) : Bool := (f == 15) == (g == 15)

/-- Cvt between formats of equal or different codes, without flags (R107, R271); a NaN gives the default NaN also where
the formats match (R111). From or to RAW the 8-bit pattern is copied (R111); of a wider source, the low eight bits (the model's
choice, log entry 82). -/
def convert (src dst code : Nat) : Nat := if src = 15 ∨ dst = 15 then code % 256 else (cvtCode src dst .rne code).code

/-- What an element gives in a destination's format: zero for a hole (R99), whatever the source's format, and 0 for one that is
poisoned. -/
def supplied (src dst : Nat) (o : Option (Nat × Bool × List Piece)) : Nat :=
  match o with
  | none => if dst = 15 then 0 else convert 1 dst 0
  | some (v, bad, _) => if bad then 0 else convert src dst v

/-- The place of an element with its checked parts; none for a hole. -/
def State.elemAt (s : State) (x : Eng) (need : Need) (e : Nat) (xs : List Nat) : Except Nat (Option (Place × List Piece)) :=
  match s.elemPlace x e xs with
  | .error c => .error c
  | .ok none => .ok none
  | .ok (some p) => (s.placeCheck x need e p).map fun ps => some (p, ps)

/-- Coordinate d of an origin in up to three register values (R270). -/
def originAt (os : List DWord) (d : Nat) : Nat := field (os.getD (d / 2) 0).toNat (32 * (d % 2)) 32

/-- All coordinates below extents, dimension 0 fastest. -/
def coordsOf : List Nat → List (List Nat)
  | [] => [[]]
  | n :: ns => (coordsOf ns).flatMap fun t => (List.range n).map (· :: t)

def eExtents (e : Nat) : List Nat := (List.range (eRank e)).map (eExt e)

/-- The bytes of a number of elements of a format's width. -/
def bitBytes (n bits : Nat) : Nat := (n * bits + 7) / 8

/-! TLD and TST. -/

/-- The registers of an origin from S(k) on that exist. -/
def State.originRegs (s : State) (a : BitVec 8) : List DWord :=
  ((List.range 3).filter fun i => decide (a.toNat + i < 0x80)).map fun i => s.crew.getS (a.toNat - 0x60 + i)

/-- TLD. -/
def execTld (d : BitVec 7) (a b c : BitVec 8) (strm : BitVec 4) (scope : BitVec 3) (ord : BitVec 2) (q dr dc : BitVec 3) (s : State) : Out :=
  perform { srcs := [a, c], ends := true, ok := engineOk d scope [c] && isS a && s.tileOk b.toNat } s fun s =>
    s.toQueue (encode (.tld d a b c strm scope ord q dr dc)) d scope ord q (s.uni c :: s.originRegs a) [s.team.tcOf b.toNat]

/-- TST. -/
def execTst (d : BitVec 7) (a b c : BitVec 8) (strm : BitVec 4) (scope : BitVec 3) (ord : BitVec 2) (q dr dc : BitVec 3) (s : State) : Out :=
  perform { srcs := [a, c], ends := true, ok := engineOk d scope [c] && isS a && s.tileOk b.toNat } s fun s =>
    s.toQueue (encode (.tst d a b c strm scope ord q dr dc)) d scope ord q (s.uni c :: s.originRegs a) [s.team.tcOf b.toNat]

/-- DR and DC of a window are legal for a rank, and its origin registers lie within S0 to S31 (R270, R290). -/
def windowOk (c : Cmd) (rank : Nat) : Bool :=
  let dr := field c.e.toNat 3 3
  let dc := field c.e.toNat 0 3
  decide (dc < rank) && (dr == 7 || (decide (dr < rank) && dr != dc)) && decide (fieldA c.w - 0x60 + (rank + 1) / 2 ≤ 32)

/-- The coordinates of tile element (r, k) (R270). -/
def windowCoords (c : Cmd) (rank nc r k : Nat) : List Nat :=
  let dr := field c.e.toNat 3 3
  let dc := field c.e.toNat 0 3
  (List.range rank).map fun d =>
    originAt (c.ops.drop 1) d +
      (if dr = 7 then (if d = dc then r * nc + k else 0) else if d = dr then r else if d = dc then k else 0)

/-- The tile elements of a window in row order, with the places of their tensor elements (R271). -/
def State.windowPlaces (s : State) (x : Eng) (need : Need) (c : Cmd) (e : Nat) : Except Nat (List (Nat × Nat × List Nat × Option (Place × List Piece))) :=
  let tc := c.tcs.headD 0
  let nc := tcCols tc
  ((List.range (tcRows tc)).flatMap fun r => (List.range nc).map fun k => (r, k)).mapM fun p =>
    let xs := windowCoords c (eRank e) nc p.1 p.2
    (s.elemAt x need e xs).map fun o => (p.1, p.2, xs, o)

/-- BYTES of a window. -/
def windowBytes (c : Cmd) : Nat := tcRows (c.tcs.headD 0) * tcRowBytes (c.tcs.headD 0)

/-- The checks that TLD and TST share before their pages. -/
def windowEntry (x : Eng) (c : Cmd) : Except Nat Nat :=
  match useEntry x (c.entry 0) with
  | .error e => .error e
  | .ok e => if !windowOk c (eRank e) || !rawMatch (eFmt e) (tcFmt (c.tcs.headD 0)) then .error 0x04 else .ok e

/-- The run of a TLD. -/
def State.runTld (s : State) (x : Eng) (slot : Nat) (c : Cmd) : CmdEnd :=
  match windowEntry x c with
  | .error e => .ended s (stFault e 0)
  | .ok e =>
    match s.windowPlaces x { r := true } c e with
    | .error f => endFault s f 0
    | .ok ws =>
      let tc := c.tcs.headD 0
      let n := fieldB c.w
      let vals := ws.map fun w =>
        match w.2.2.2 with
        | none => (w.1, w.2.1, supplied 15 (tcFmt tc) none, false)
        | some (p, ps) =>
          let (v, bad) := s.readElem x e p ps
          (w.1, w.2.1, if bad then 0 else convert (eFmt e) (tcFmt tc) v, bad)
      let t := vals.foldl (fun t v => t.setTileElem n (tcFmt tc) v.1 v.2.1 v.2.2.1) (s.teamAt slot)
      let kept := ws.flatMap fun w => (w.2.2.2.map (·.2)).getD []
      let s1 := ((s.engKeep x kept).recallAll kept).setTeamAt slot t
      .ended s1 (match vals.find? fun v => v.2.2.2 with
        | some v => stPartial (v.1 * tcRowBytes tc + v.2.1 * zOf (tcFmt tc) / 8)
        | none => stDone (windowBytes c))

/-- The order in which elements of one command are written: outer coordinates, then index (R85, R99). -/
def writeOrder (e : Nat) (xs : List Nat) : Nat :=
  ((List.range (eNout e)).map fun k => xs.getD (eInner e + k) 0 * 2 ^ (48 + 32 * k)).sum + (eIndex e xs).getD 0

/-- The run of a TST. -/
def State.runTst (s : State) (x : Eng) (slot q : Nat) (c : Cmd) : CmdEnd :=
  match windowEntry x c with
  | .error e => .ended s (stFault e 0)
  | .ok e =>
    match s.windowPlaces x { w := true } c e with
    | .error f => endFault s f 0
    | .ok ws =>
      let tc := c.tcs.headD 0
      let t := s.teamAt slot
      let sorted := ws.foldl (fun m w =>
        match w.2.2.2 with
        | none => m
        | some (p, ps) =>
          insert m (writeOrder e w.2.2.1) { place := p, ps := ps, bad := false, code := convert (tcFmt tc) (eFmt e) (t.tileElem (fieldB c.w) (tcFmt tc) w.1 w.2.1) })
        ([] : List (Nat × ElemWrite))
      let writes := sorted.map (·.2)
      match writes.findSome? fun w => cowAt w.ps, farNeeds x e writes with
      | some va, _ => .cow va
      | none, some f => endFault s f 0
      | none, none => .ended (s.writeElems x (c.asks q) e writes) (stDone (windowBytes c))

/-! CPY with T = 1 (R283). -/

/-- A and B packed in one word, as the four captured operands of Table 24.2 hold them. -/
def packHandles (a b : DWord) : DWord := dw (a.toNat % 1024 + b.toNat % 1024 * 2 ^ 32)

/-- CPY_TENSOR: C is ZERO or the first register of an origin. -/
def execCpyTensor (d : BitVec 7) (a b c : BitVec 8) (strm : BitVec 4) (scope : BitVec 3) (ord : BitVec 2) (q : BitVec 3) (s : State) : Out :=
  perform { srcs := [a, b, c], ends := true, ok := engineOk d scope [a, b] && (c == 0x88#8 || isS c) } s fun s =>
    s.toQueue (encode (.cpyTensor d a b c strm scope ord q)) d scope ord q
      (packHandles (s.uni a) (s.uni b) :: (if isS c then s.originRegs c else [0, 0, 0])) []

/-- C of a command's E word. -/
def cmdC (c : Cmd) : Nat := field c.e.toNat 24 8

/-- The elements of a move: each destination place with its source's code, poison and parts. -/
structure Moved where
  dst : Place
  dps : List Piece
  code : Nat
  bad : Bool
  sps : List Piece

/-- The element at a source coordinate: its code, its marker and its parts; none for a hole. -/
def State.supply (s : State) (x : Eng) (e : Nat) (xs : List Nat) : Except Nat (Option (Nat × Bool × List Piece)) :=
  match s.elemAt x { r := true } e xs with
  | .error c => .error c
  | .ok none => .ok none
  | .ok (some (p, ps)) =>
    let (v, bad) := s.readElem x e p ps
    .ok (some (v, bad, ps))

/-- One element of a move: what its source supplies, and its destination place; none for a hole. -/
def State.oneMove (s : State) (x : Eng) (ea eb : Nat) (from_ : List Nat) (to_ : Except Nat (Option (Place × List Piece))) :
    Except Nat (Option Moved) :=
  match s.supply x ea from_, to_ with
  | .error c, _ => .error c
  | _, .error c => .error c
  | .ok _, .ok none => .ok none
  | .ok o, .ok (some (p, qs)) =>
    .ok (some { dst := p, dps := qs, code := supplied (eFmt ea) (eFmt eb) o, bad := o.any (·.2.1), sps := (o.map (·.2.2)).getD [] })

/-- The elements that a CPY with T = 1 moves, in order. -/
def State.tensorMoves (s : State) (x : Eng) (ea eb : Nat) (origin : Nat → Nat) : Except Nat (List Moved) :=
  ((coordsOf (eExtents eb)).mapM fun xs =>
    s.oneMove x ea eb ((List.range (eRank eb)).map fun d => xs.getD d 0 + origin d) (s.elemAt x { w := true } eb xs)).map
    fun (ms : List (Option Moved)) => ms.filterMap id

/-- The status of a move of elements: the bytes of the destination, or those before the first poisoned one. -/
def movedStatus (bits : Nat) (ms : List Moved) : DWord :=
  match ms.findIdx? (·.bad) with
  | some k => stPartial (k * bits / 8)
  | none => stDone (bitBytes ms.length bits)

/-- The writes of a move. -/
def movedWrites (ms : List Moved) : List ElemWrite := ms.map fun m => { place := m.dst, ps := m.dps, code := m.code, bad := m.bad }

/-- Write the elements of a move. -/
def State.writeMoved (s : State) (x : Eng) (w : From) (eb : Nat) (ms : List Moved) : State :=
  let kept := ms.flatMap (·.sps)
  ((s.engKeep x kept).recallAll kept).writeElems x w eb (movedWrites ms)

/-- The run of a CPY with T = 1. -/
def State.runCpyTensor (s : State) (x : Eng) (q : Nat) (c : Cmd) : CmdEnd :=
  match useEntry x (c.entry 0), useEntry x (c.entry 1) with
  | .error e, _ => .ended s (stFault e 0)
  | _, .error e => .ended s (stFault e 0)
  | .ok ea, .ok eb =>
    let past := cmdC c ≠ 0x88 ∧ 32 < cmdC c - 0x60 + (eRank ea + 1) / 2
    if eRank ea ≠ eRank eb ∨ past then .ended s (stFault 0x04 0)
    else
      match s.tensorMoves x ea eb (originAt (c.ops.drop 1)) with
      | .error e => endFault s e 0
      | .ok ms =>
        match ms.findSome? fun m => cowAt m.dps, farNeeds x eb (movedWrites ms) with
        | some va, _ => .cow va
        | none, some f => endFault s f 0
        | none, none => .ended (s.writeMoved x (c.asks q) eb ms) (movedStatus (eBits eb) ms)

/-! MCAST with T = 1 (R285). -/

/-- MCAST_TENSOR. -/
def execMcastTensor (d : BitVec 7) (a b c : BitVec 8) (strm : BitVec 4) (scope : BitVec 3) (ord : BitVec 2) (q : BitVec 3) (dlev : BitVec 2)
    (s : State) : Out :=
  perform { srcs := [a, b, c], ends := true, ok := engineOk d scope [a, b, c] && dlev != 3#2 } s fun s =>
    s.toQueue (encode (.mcastTensor d a b c strm scope ord q dlev)) d scope ord q [packHandles (s.uni a) (s.uni c), s.uni b] []

/-- The place of an element of a scratchpad tensor in the part that a slot reaches. -/
def State.placeIn (s : State) (e slot : Nat) (xs : List Nat) : Except Nat (Option Place) :=
  if !outerOk e xs then .error 0x04
  else
    match eIndex e xs with
    | none => .ok none
    | some i =>
      let (off, bit) := addrOffset e (fieldOf e (applyRows (eRows e) i) 7)
      let at_ := (eBase e + outerOffset e xs + off) % 2 ^ 64
      if (s.partAt slot (eSplv e)).size < at_ + eSpan e ∨ at_ % eSpan e ≠ 0 then .error 0x05
      else .ok (some (.part slot (eSplv e) at_ bit))

/-- The elements of the source in order, each with its place in one destination part. -/
def State.castMoves (s : State) (x : Eng) (ea ec slot : Nat) : Except Nat (List Moved) :=
  ((coordsOf (eExtents ea)).mapM fun xs =>
    s.oneMove x ea ec xs ((s.placeIn ec slot xs).map fun o => o.map fun p => (p, []))).map
    fun (ms : List (Option Moved)) => ms.filterMap id

/-- The run of an MCAST with T = 1: BYTES counts source bytes. -/
def State.runMcastTensor (s : State) (x : Eng) (q : Nat) (c : Cmd) : CmdEnd :=
  let level := cmdDloc c
  let fault (e : Nat) : CmdEnd := .ended s (stFault e 0)
  if field (c.op 1) 32 32 ≠ 0 then fault 0x04
  else
    match useEntry x (c.entry 0), useEntry x (c.entry 1), s.castSlots x level (c.op 1) with
    | .error e, _, _ => fault e
    | _, .error e, _ => fault e
    | _, _, .error e => fault e
    | .ok ea, .ok ec, .ok ks =>
      if eRank ea ≠ eRank ec ∨ eRes ec ≠ 1 ∨ eSplv ec ≠ level ∨ eDistributed ec then fault 0x04
      else if ks.isEmpty then .ended s (stDone 0)
      else
        match ks.mapM (s.castMoves x ea ec) with
        | .error e => endFault s e 0
        | .ok mss =>
          let s1 := mss.foldl (fun s ms => s.writeMoved x (c.asks q) ec ms) s
          .ended s1 (movedStatus (eBits ea) (mss.headD []))

/-! TDESC (R280). -/

/-- TDESC. -/
def execTdesc (d : BitVec 7) (a c : BitVec 8) (strm : BitVec 4) (scope : BitVec 3) (ord : BitVec 2) (q : BitVec 3) (s : State) : Out :=
  perform { srcs := [a, c], ends := true, ok := engineOk d scope [a, c] } s fun s =>
    s.toQueue (encode (.tdesc d a c strm scope ord q)) d scope ord q [s.uni a, s.uni c] []

/-- A number with n bits from lo on replaced. -/
def setBits (v lo n x : Nat) : Nat := v - field v lo n * 2 ^ lo + x % 2 ^ n * 2 ^ lo

/-- The entry that TDESC writes from an image (step 4): OWNT where the residency is a core's, OWNL for registers and parts, and
both 0 for memory; what the rule does not set stays as the image has it. -/
def described (x : Eng) (e : Nat) : Nat :=
  let e1 := setBits (setBits e 128 64 0) 832 64 0
  match eRes e with
  | 0 => setBits (setBits e1 960 24 x.teamid) 896 64 x.lrec.toNat
  | 1 => setBits (if eSplv e = 0 ∧ !eDistributed e then setBits e1 960 24 x.teamid else e1) 896 64 x.lrec.toNat
  | 2 => setBits (setBits e1 960 24 0) 896 64 0
  | _ => e1

/-- The run of a TDESC. -/
def State.runTdesc (s : State) (x : Eng) (slot : Nat) (c : Cmd) : CmdEnd :=
  let a := c.op 0
  let h := c.op 1 % 1024
  let t := s.teamAt slot
  let fault (e : Nat) : CmdEnd := .ended s (stFault e 0)
  if a % 64 ≠ 0 then fault 0x06
  else
    match s.engReadable x a 512 with
    | .error e => endFault s e 0
    | .ok ps =>
      let e := s.engRead x ps
      if !(s.engPoison x ps).isEmpty then fault 0x03
      else if eValid e && !(entryOk e t.nvreg t.ncrew (if t.compat then 16 else 32) && (inverse (eNbits e) (eRows e)).isSome) then fault 0x04
      else
        match s.entryWritable x h with
        | .error r => fault (causeOfRank r)
        | .ok _ => .ended ((s.engKeep x ps).writeEntry x h 0 512 (described x e)) (stDone 512)

end Sys2Proof.Machine
end

