-- ==== Sys2Proof/Machine/Remap.lean ====
section
/-! DEFINITION. REMAP (spec/04 R86 to R98, spec/11 R281): the instruction, its start on an engine, and its passes. -/
namespace Sys2Proof.Machine

/-! Uses of a handle that have started (R92). -/

/-- The handles that a command names. -/
def Cmd.handles (c : Cmd) : List Nat :=
  match opOf c.w with
  | 0xD0 | 0xD1 => [c.op 0 % 1024]
  | 0xD9 | 0xDA => [c.op 1 % 1024]
  | 0xE0 | 0xE4 => if cmdT c then [field (c.op 0) 0 10, field (c.op 0) 32 10] else []
  | _ => []

/-- A command has started and is not complete: it runs, or writes of it are still to be performed (R264). -/
def Cmd.runs (c : Cmd) : Bool :=
  match c.run with
  | .started | .remap _ | .ended _ => true
  | _ => false

/-- The commands of the package that name a handle of a context and have started and are not complete: slot, queue and command. -/
def State.handleUses (s : State) (ctx h : Nat) : List (Nat × Nat × Cmd) :=
  (s.teams.filter fun e => e.2.ctx == ctx).flatMap fun e => e.2.queues.flatMap fun q =>
    match q.2 with
    | c :: _ => if c.runs && c.handles.contains h then [(e.1, q.1, c)] else []
    | [] => []

/-- HA, HB and HC of a tile task's record (Table 11.7). -/
def taskHandles (rec_ : BitVec 512) : List Nat := [field rec_.toNat 192 10, field rec_.toNat 202 10, field rec_.toNat 212 10]

/-- A tile task that runs uses a handle of its context. -/
def State.taskUses (s : State) (ctx h : Nat) : Bool :=
  s.clusters.any fun e => e.2.tasks.any fun t => t.core.isSome && t.ctx == ctx && (taskHandles t.record).contains h

/-- A crew's REMAP of a handle is under way. -/
def State.crewRemaps (s : State) (ctx h : Nat) : Bool :=
  s.crews.any fun e => match e.2.block with
    | some (.remap _ r) => e.2.bound && r.ctx == ctx && r.handle == h
    | _ => false

/-- A REMAP of a handle is under way, on an engine or in a crew. -/
def State.remapping (s : State) (ctx h : Nat) : Bool :=
  s.crewRemaps ctx h || (s.handleUses ctx h).any fun u => match u.2.2.run with
    | .remap _ => true
    | _ => false

/-- A TDESC of a handle has started (R280). -/
def State.describing (s : State) (ctx h : Nat) : Bool := (s.handleUses ctx h).any fun u => opOf u.2.2.w == 0xD9

/-- Some use of a handle other than the REMAP itself, named by its slot and queue, is still running. -/
def State.otherUses (s : State) (ctx h : Nat) (me : Option (Nat × Nat)) : Bool :=
  s.taskUses ctx h || (s.handleUses ctx h).any fun u => some (u.1, u.2.1) != me

/-! Steps 1 to 5 (R92, R93). -/

/-- Form a REMAP from its entry and target image: the run, or the cause and the first address at which its check fails. -/
def State.prepareRemap (s : State) (x : Eng) (nvreg ncrew width e h a : Nat) : Except (Nat × Nat) RemapRun :=
  let n := eNbits e
  if !entryOk e nvreg ncrew width || !eOwned x e then .error (0x04, h)
  else if a % 8 ≠ 0 then .error (0x06, a)
  else
    match s.engReadable x a (8 * n) with
    | .error c => .error (c, s.failAddr x { r := true } a (8 * n))
    | .ok ps =>
      if !(s.engPoison x ps).isEmpty then .error (0x03, s.failAddr x { r := true } a (8 * n))
      else
        match s.entryWritable x h with
        | .error r => .error (causeOfRank r, s.entryVa x.ctx h)
        | .ok _ =>
          let image := s.engRead x ps
          let new := (List.range n).map fun j => field image (64 * j) 64 % 2 ^ n
          match inverse n (eRows e), inverse n new with
          | some oldInv, some newInv =>
            .ok { ctx := x.ctx, handle := h, entry := dw (s.entryVa x.ctx h), target := dw a, old := eRows e, new := new
                  passes := passesOf (eWidths e) (matMul new oldInv) (matMul (eRows e) newInv)
                  done := if eSt e = 1 then ePidx e else 0, desc := BitVec.ofNat 4096 e }
          | _, _ => .error (0x04, h)

/-- The state word of a REMAP (Table 4.3). -/
def remapWord (st pidx npass : Nat) : Nat := st + pidx * 2 ^ 8 + npass * 2 ^ 16

/-- Step 5, or the continuation of a REMAP that stands at ST = 1 (R94, R97). -/
def State.beginRemap (s : State) (x : Eng) (e : Nat) (r : RemapRun) : State :=
  if eSt e = 1 then s
  else (s.writeEntry x r.handle 104 8 r.target.toNat).writeEntry x r.handle 16 8 (remapWord 1 0 r.passes.length)

/-- Trap of a register REMAP, by the cause of its status word (R93, Table 22.3). TRAPLANES is Active(EXM) for every cause: the
spec names no lanes in which a fault of a REMAP's image or entry arises (the model's choice, log entry 86). A read of the target image
that another device refuses or that is lost has no trap of its own in R93: the model takes the placement fault for those causes too, with
the first failing address (the model's choice; log entry 98). -/
def State.remapTrap (s : State) (cause addr : Nat) : Trap :=
  let code := match cause with
    | 0x01 => 0x04
    | 0x02 => 0x05
    | 0x03 => 0x06
    | 0x06 => 0x03
    | _ => 0x08
  { code := code, lanes := s.actMask, addr := dw addr }

/-- The current crew waits for granules of another device that its REMAP reads (R366), and then issues it again. -/
def State.crewFetch (s : State) (x : Eng) (cause : Nat) : State :=
  let s1 := s.askReads x { crew := s.cur, q := 16 } [] cause
  s1.setCrew { s1.crew with block := some .fetching, since := s.clock, order := s.fresh }

/-- REMAP (R281): in the crew for lane registers, otherwise as a command. The store that ends it is a release (R92): the crew's
earlier accesses are performed first. -/
def execRemap (d : BitVec 7) (a c : BitVec 8) (strm : BitVec 4) (scope : BitVec 3) (ord : BitVec 2) (q : BitVec 3) (s : State) : Out :=
  perform { srcs := [a, c], ends := true, ok := engineOk d scope [a, c] } s fun s =>
    let x := { s.engOf (slotOf s.cur) none with got := s.crew.got }
    let h := (s.uni c).toNat % 1024
    let img := (s.uni a).toNat
    let asCommand : Effect := s.toQueue (encode (.remap d a c strm scope ord q)) d scope ord q [s.uni a, s.uni c] []
    match s.readEntry x h with
    | .error f => if isFetch f then .final (s.crewFetch x f) else asCommand
    | .ok e =>
      if eRes e ≠ 0 then asCommand
      else if q ≠ 0 ∨ ord ≠ 0 then .trap s.illegalOperand
      else if eSt e ≠ 0 ∧ eTgt e ≠ img then .trap (s.remapTrap 0x04 h)
      else if s.crewRemaps x.ctx h || s.describing x.ctx h || s.someLate then .unready
      else
        match s.ordered 2#2 1#3 with
        | none => .unready
        | some s =>
          match s.prepareRemap x s.team.nvreg s.team.ncrew s.width e h img with
          | .error (cause, addr) => if isFetch cause then .final (s.crewFetch x cause) else .trap (s.remapTrap cause addr)
          | .ok r => .wait (((s.keepEntry x h).keepSpan x.cl x.ctx x.sec img (8 * eNbits e)).beginRemap x e r) (.remap (sNum d) r)

/-! Passes (R86, R90, R94). -/

/-- The layout reached after t passes. -/
def RemapRun.layout (r : RemapRun) (t : Nat) : List Nat := (r.passes.take t).foldl (fun L P => matMul P L) r.old

/-- Index i names an element: no coordinate is past its extent. -/
def isElement (e i : Nat) : Bool := (List.range (eInner e)).all fun d => decide (field i (eO e d) (eB e d) < eExt e d)

/-- The outer offsets of an entry, in order. -/
def outerOffsets (e : Nat) : List Nat :=
  (coordsOf ((List.range (eNout e)).map fun k => eExt e (eInner e + k))).map fun xs =>
    outerOffset e (List.replicate (eInner e) 0 ++ xs)

/-- Bytes of tensor places that one pass moves (R91). -/
def passBytes (e : Nat) : Nat := ((List.range (eNout e)).map fun k => eExt e (eInner e + k)).foldl (· * ·) 1 * bitBytes (2 ^ eNbits e) (eBits e)

/-- Pass t of a REMAP as moves of places: from, to, and whether an element stands there. -/
def RemapRun.moves (r : RemapRun) (e : Nat) : List (Nat × Nat × Bool) :=
  let P := r.passes.getD r.done []
  let inv := (inverse (eNbits e) (r.layout r.done)).getD []
  (List.range (2 ^ eNbits e)).map fun p => (p, applyRows P p, isElement e (applyRows inv p))

/-- A register place's bits (R84): the lane register itself, whatever a handler's banks put in its place (R378). An L6 element is
bits [5:0] of its byte. -/
def State.readReg (s : State) (k r l fmt bit : Nat) : Nat :=
  let v (j : Nat) : Nat := (fget 0 (s.crewAt k).v (32 * (r + j) + l)).toNat
  let z := zOf fmt
  if z = 64 then v 0 + v 1 * 2 ^ 32 else field (v 0) bit (if fmt = 7 then 6 else z)

/-- Change a register place's bits; bits [7:6] of an L6 element's byte become zero (R104). -/
def State.writeReg (s : State) (k r l fmt bit x : Nat) : State :=
  let c := s.crewAt k
  let z := zOf fmt
  let put (c : Crew) (j : Nat) (w : Word) : Crew := { c with v := fset 0 c.v (32 * (r + j) + l) w }
  s.setCrewAt k (if z = 64 then put (put c 0 (w32 x)) 1 (w32 (x / 2 ^ 32))
    else put c 0 (w32 (setBits (fget 0 c.v (32 * r + l)).toNat bit z x)))

/-- One pass over lane registers of the team of a slot. It reads and writes all its places in one step: of the fates that R96
gives a raw write during a pass only those before its read and after its write come about, and of the values that R95 gives a raw
read those of whole passes (the model's choice, log entry 49). -/
def State.regPass (s : State) (x : Eng) (slot e : Nat) (r : RemapRun) : State :=
  let at_ (p : Nat) : Option (Nat × Nat × Nat × Nat) :=
    match s.locate x e p 0 with
    | .ok (.reg crew lane reg bit) => some (16 * slot + crew, reg, lane, bit)
    | _ => none
  let vals := (r.moves e).map fun m =>
    (m.2.1, if m.2.2 then (match at_ m.1 with | some (k, reg, l, b) => s.readReg k reg l (eFmt e) b | none => 0) else 0)
  vals.foldl (fun s' v => match at_ v.1 with
    | some (k, reg, l, b) => s'.writeReg k reg l (eFmt e) b v.2
    | none => s') s

/-- The writes of one pass over parts or memory, or the cause of the first failing check. Where strides make places overlap, they
are written by outer coordinates and then by the place they come from: R85 orders a move through the handle by index, and does
not say how a pass, which works on places, orders them (the model's choice, log entry 87). -/
def State.passWrites (s : State) (x : Eng) (e : Nat) (r : RemapRun) : Except Nat (List ElemWrite × List Piece) :=
  let look (p u : Nat) : Except Nat (Place × List Piece) :=
    match s.locate x e p u with
    | .error c => .error c
    | .ok pl => (s.placeCheck x { r := true, w := true } e pl).map fun ps => (pl, ps)
  let one (u : Nat) (m : Nat × Nat × Bool) : Except Nat (ElemWrite × List Piece) :=
    match look m.1 u, look m.2.1 u with
    | .error c, _ => .error c
    | _, .error c => .error c
    | .ok (p1, ps1), .ok (p2, ps2) =>
      let (v, bad) := s.readElem x e p1 ps1
      .ok ({ place := p2, ps := ps2, code := if m.2.2 then v else 0, bad := m.2.2 && bad }, ps1)
  (((outerOffsets e).flatMap fun u => (r.moves e).map fun m => (u, m)).mapM fun p => one p.1 p.2).map
    fun (ws : List (ElemWrite × List Piece)) => (ws.map (·.1), ws.flatMap (·.2))

/-- Step 7's store of PIDX, and step 8. -/
def State.storePidx (s : State) (x : Eng) (r : RemapRun) : State :=
  s.writeEntry x r.handle 16 8 (remapWord 1 (r.done + 1) r.passes.length)
def State.endRemap (s : State) (x : Eng) (r : RemapRun) : State :=
  let rows := (List.range r.new.length).foldl (fun v j => v + r.new.getD j 0 * 2 ^ (64 * j)) 0
  (s.writeEntry x r.handle 128 (8 * r.new.length) rows).writeEntry x r.handle 16 8 0

/-- A register REMAP's next pass or its end. -/
def State.crewPass (s : State) (k d : Nat) (r : RemapRun) : Option State :=
  let slot := slotOf k
  let x := s.engOf slot none
  let e := r.desc.toNat
  let stop (s : State) (cause : Nat) : State := (s.at_ k).trapHere ((s.at_ k).remapTrap cause r.entry.toNat) (s.at_ k).inChain
  if r.done < r.passes.length then
    if s.otherUses x.ctx r.handle none then none
    else
      let s1 := s.regPass x slot e r
      match s1.entryWritable x r.handle with
      | .error f => some (stop s1 (causeOfRank f))
      | .ok _ =>
        let s2 := s1.storePidx x r
        some (s2.setCrewAt k { s2.crewAt k with block := some (.remap d { r with done := r.done + 1 }) })
  else
    match s.entryWritable x r.handle with
    | .error f => some (stop s (causeOfRank f))
    | .ok _ =>
      let s1 := (s.endRemap x r).at_ k
      some ((s1.setCrew (s1.crew.setS d (stDone (r.passes.length * passBytes e)))).unblock 2)

/-- What a command has computed in a step from s to s1, put off: memory and parts as they were, and the granules that it is to
write (R311). -/
def State.putOff (s s1 : State) : State × List Owed :=
  let masks := s1.wrote.foldl (fun (m : List (Nat × Nat)) w => insert m (w.1 * 2 ^ 64 + w.2.1) (fget 0 m (w.1 * 2 ^ 64 + w.2.1) ||| w.2.2)) []
  let owed := masks.map fun e =>
    let place := e.1 / 2 ^ 64
    let g := e.1 % 2 ^ 64
    ({ key := e.1, mask := e.2 % 2 ^ 128, mark := e.2.testBit 128
       data := if place = 0 then s1.readNat (16 * g) 16 else natOf ((s1.partOf (place - 1)).read (16 * g) 16)
       stamp := s.fresh } : Owed)
  ((owed.map (·.key / 2 ^ 64)).foldl (fun t place => if place = 0 then t else t.setPartOf (place - 1) (s.partOf (place - 1)))
    { s1 with mem := s.mem, poison := s.poison, wrote := [] }, owed)

/-- A granule that a command was still to write is written (R57, R418). One that a pass of a REMAP writes in a part is set full as
well: R57's list of the engines that set the bit does not name REMAP (the model's choice; log entry 97). -/
def State.payOwed (s : State) (o : Owed) : State :=
  let place := o.key / 2 ^ 64
  let g := o.key % 2 ^ 64
  let full := o.mask + 1 == 2 ^ 128
  if place = 0 then
    let s1 := (s.recallRun (16 * g) 16).storePhys (16 * g) (bytesOf 16 (mixBits o.mask o.data (s.readNat (16 * g) 16)))
    { s1 with poison := fset false s1.poison g (o.mark || (!full && fget false s.poison g)) }
  else
    let p := s.partOf (place - 1)
    let p1 := p.engineWrite (16 * g) (bytesOf 16 (mixBits o.mask o.data (natOf (p.read (16 * g) 16))))
    s.setPartOf (place - 1) { p1 with poison := fset false p1.poison g (o.mark || (!full && fget false p.poison g)) }

/-- A pass of an engine REMAP has been written whole: PIDX is stored (R92 step 7), or the REMAP stops (R93). -/
def State.passEnd (s : State) (x : Eng) (slot q : Nat) (c : Cmd) (r : RemapRun) : State :=
  let c1 := { c with progress := c.progress + passBytes r.desc.toNat }
  match s.entryWritable x r.handle with
  | .error f => s.setHead slot q { c1 with run := .ended (stFault (causeOfRank f) c1.progress) }
  | .ok _ => (s.storePidx x r).setHead slot q { c1 with run := .remap { r with done := r.done + 1, mid := false } }

/-- An engine REMAP's next pass, the end of the pass whose writes have been performed, or its end. -/
def State.queuePass (s : State) (slot q : Nat) (c : Cmd) (r : RemapRun) : Option State :=
  let x := s.cmdEng slot c
  let w := c.asks q
  let e := r.desc.toNat
  let finishWith (s : State) (st : DWord) : State := s.setHead slot q { c with run := .ended st }
  if r.mid then (if c.owed.isEmpty && !s.queueOutstanding slot q then some (s.passEnd x slot q c r) else none)
  else if r.done < r.passes.length then
    if s.otherUses x.ctx r.handle (some (slot, q)) then none
    else
      match s.passWrites x e r with
      | .error f => if isFetch f then s.askOnce x w f else some (finishWith s (stFault f c.progress))
      | .ok (ws, src) =>
        match ws.findSome? fun w => cowAt w.ps with
        | some va => some (s.setHead slot q { c with cow := some va })
        | none =>
          let (s1, owed) := s.putOff ((s.engKeep x src).writeElems x w e ws)
          let bad := c.poisonAt.or ((ws.findIdx? (·.bad)).map fun j => c.progress + j * eBits e / 8)
          some (s1.setHead slot q { c with poisonAt := bad, owed := owed, got := [], run := .remap { r with mid := true } })
  else
    match s.entryWritable x r.handle with
    | .error f => some (finishWith s (stFault (causeOfRank f) c.progress))
    | .ok _ => some (finishWith (s.endRemap x r) (copyStatus c.progress none c.poisonAt))

/-- REMAP_PASS (R92): the next pass of a REMAP in a crew, or of the one at the head of a team's queue, or the end of its pass; none
follows once a forced save stops the crew at the end of a pass, outside its handler and a chain (R97, R396), or a save the
team's engines (R411). -/
def execRemapPass (crew : Option Nat) (team q : Nat) (s : State) : Out :=
  let ended (o : Option State) : Out :=
    match o with
    | some s1 => .next s1
    | none => .refused (.notEnabled "REMAP_PASS")
  match crew with
  | some k =>
    match (s.crewAt k).block with
    | some (.remap d r) =>
      if (s.teamAt (slotOf k)).full && (s.at_ k).mayStop then .refused (.notEnabled "REMAP_PASS") else ended (s.crewPass k d r)
    | _ => .refused (.notEnabled "REMAP_PASS")
  | none =>
    match (s.teamAt team).queue q with
    | c :: _ =>
      match c.run with
      | .remap r => if c.cow.isSome || (!s.teamRuns team && !r.mid) then .refused (.notEnabled "REMAP_PASS") else ended (s.queuePass team q c r)
      | _ => .refused (.notEnabled "REMAP_PASS")
    | [] => .refused (.notEnabled "REMAP_PASS")

/-- An engine REMAP reaches the head of its queue (R92, R93): none while it waits in step 1. An entry with one of the reserved values 2
and 3 in ST is busy: a REMAP to its TGT forms its passes anew, one to another image waits, or traps in a crew, and every other use
waits (the model's choice; log entry 100). -/
def State.startRemap (s : State) (slot q : Nat) (c : Cmd) : Option State :=
  let x := s.cmdEng slot c
  let t := s.teamAt slot
  let h := c.op 1 % 1024
  let finishWith (st : DWord) : Option State := some (s.setHead slot q { c with run := .ended st })
  let stop (f : Nat) : Option State := if isFetch f then s.askOnce x (c.asks q) f else finishWith (stFault f 0)
  match s.readEntry x h with
  | .error f => stop f
  | .ok e =>
    if eRes e = 0 then finishWith (stFault 0x04 0)
    else if s.remapping x.ctx h || s.describing x.ctx h || (eSt e != 0 && eTgt e != c.op 0) then s.forgetReads slot q c
    else
      match s.prepareRemap x t.nvreg t.ncrew (if t.compat then 16 else 32) e h (c.op 0) with
      | .error (f, _) => stop f
      | .ok r => some ((((s.keepEntry x h).keepSpan x.cl x.ctx x.sec (c.op 0) (8 * eNbits e)).beginRemap x e r).setHead slot q { c with
          run := .remap r, got := [], progress := if eSt e = 1 then ePidx e * passBytes e else 0 })

end Sys2Proof.Machine
end

