-- ==== Sys2Proof/Machine/Tasks.lean ====
section
/-! DEFINITION. Tile tasks (spec/11 R278, R279, spec/14 R336): TTASK, the cluster task queue and the matrix engine's steps. -/
namespace Sys2Proof.Machine

/-! Records (Table 11.7). -/

def taskDep (r : BitVec 512) : Nat := field r.toNat 0 64
def taskDepVal (r : BitVec 512) : Nat := field r.toNat 64 64
def taskCmp (r : BitVec 512) : Nat := field r.toNat 128 64
def taskHa (r : BitVec 512) : Nat := field r.toNat 192 10
def taskHb (r : BitVec 512) : Nat := field r.toNat 202 10
def taskHc (r : BitVec 512) : Nat := field r.toNat 212 10
def taskAccum (r : BitVec 512) : Bool := field r.toNat 222 1 == 1
def taskTi (r : BitVec 512) : Nat := field r.toNat 256 32
def taskTj (r : BitVec 512) : Nat := field r.toNat 288 32
def taskK0 (r : BitVec 512) : Nat := field r.toNat 320 32
def taskK1 (r : BitVec 512) : Nat := field r.toNat 352 32

/-- A record keeps the limits of Table 11.7; ha is what a read of its entry A gives. -/
def recordOk (r : BitVec 512) (ha : Except Nat Nat) : Bool :=
  taskDep r % 8 == 0 && taskCmp r % 8 == 0 && decide (taskK0 r < taskK1 r) && (match ha with
    | .ok e => decide (taskK1 r ≤ eExt e 0)
    | .error _ => true)

/-- The cause of a read that failed because granules of another device are still to be read. -/
def fetchOf {α : Type} (r : Except Nat α) : Option Nat :=
  match r with
  | .error f => if isFetch f then some f else none
  | .ok _ => none

/-- TTASK. -/
def execTtask (d : BitVec 7) (a : BitVec 8) (strm : BitVec 4) (scope : BitVec 3) (ord : BitVec 2) (q : BitVec 3) (s : State) : Out :=
  perform { srcs := [a], ends := true, ok := engineOk d scope [a] } s fun s =>
    s.toQueue (encode (.ttask d a strm scope ord q)) d scope ord q [s.uni a] []

/-- The run of a TTASK: it waits while the cluster's task queue is full. -/
def State.runTtask (s : State) (x : Eng) (c : Cmd) : CmdEnd :=
  let a := c.op 0
  let fault (e : Nat) : CmdEnd := .ended s (stFault e 0)
  if a % 64 ≠ 0 then fault 0x06
  else
    match s.engReadable x a 64 with
    | .error e => endFault s e 0
    | .ok ps =>
      let r := BitVec.ofNat 512 (s.engRead x ps)
      let cl := s.clusterAt x.cl
      let ha := s.readEntry x (taskHa r)
      if !(s.engPoison x ps).isEmpty then fault 0x03
      else if (fetchOf ha).isSome then .fetch ((fetchOf ha).getD 0)
      else if !recordOk r ha then fault 0x09
      else if 256 ≤ cl.tasks.length then .wait
      else
        let t : Task := { record := r, addr := dw a, launch := x.launch, teamid := x.teamid, ctx := x.ctx, sec := x.sec, num := s.fresh }
        .ended ((s.engKeep x ps).setClusterAt x.cl { cl with tasks := cl.tasks ++ [t] }) (stDone 0)

/-! The tasks of a cluster. -/

def State.taskAt (s : State) (cl k : Nat) : Option Task := (s.clusterAt cl).tasks[k]?
def State.setTask (s : State) (cl k : Nat) (t : Task) : State :=
  let c := s.clusterAt cl
  s.setClusterAt cl { c with tasks := c.tasks.set k t }
def State.dropTask (s : State) (cl k : Nat) : State :=
  let c := s.clusterAt cl
  s.setClusterAt cl { c with tasks := c.tasks.eraseIdx k }

/-- The party of a task, with what it has read ahead and from other devices. -/
def State.taskEng (s : State) (cl : Nat) (t : Task) : Eng :=
  { cl := cl, launch := t.launch, lrec := (s.launchAt t.launch).lrec, teamid := t.teamid, ctx := t.ctx, sec := t.sec, bad := t.bad
    seen := t.seen, got := t.got }

/-- Who a task's requests are for. -/
def Task.asks (t : Task) (cl : Nat) : From := { crew := taskKey, q := 32 + cl, part := t.num }

/-- A write of a task to another device has not been acknowledged (R366). -/
def State.taskOutstanding (s : State) (cl : Nat) (t : Task) : Bool :=
  s.fabric.any fun r => r.2.kind == 2 && r.2.crew == taskKey && r.2.lane == 32 + cl && r.2.part == t.num

/-- Tile tasks of a team that have not ended (R48, R279). -/
def State.tasksOf (s : State) (launch teamid : Nat) : Nat :=
  (s.clusters.map fun e => (e.2.tasks.filter fun t => t.launch == launch && t.teamid == teamid).length).sum

/-- A waiting task's dependence word is read through checked parts. -/
def State.pollTask (s : State) (cl k : Nat) (t : Task) (ps : List Piece) : State :=
  let x := s.taskEng cl t
  let met := decide (taskDepVal t.record ≤ s.engRead x ps) && (s.engPoison x ps).isEmpty
  ((s.engKeep x ps).recallAll ps).setTask cl k { t with met := met, polled := s.clock, got := [] }

/-- The schedulers of a die read the dependence words of their waiting tasks again (R336). -/
def State.repoll (s : State) (die : Nat) : State :=
  ((s.clusters.map (·.1)).filter fun cl => cl / 12 == die).foldl (fun s cl =>
    (List.range (s.clusterAt cl).tasks.length).foldl (fun s k =>
      match s.taskAt cl k with
      | some t =>
        if t.core.isSome ∨ taskDep t.record = 0 then s
        else
          let x := { s.taskEng cl t with got := [] }
          match s.engReadable x (taskDep t.record) 8 with
          | .ok ps => s.pollTask cl k t ps
          | .error f => if isFetch f then (s.setTask cl k { t with got := [] }).askReads x (t.asks cl) [] f else s
      | none => s) s) s

/-- TASK_DEPENDENCE_POLL (R336): the scheduler reads the word at DEPADDR, or asks another device for it. -/
def execTaskDependencePoll (cluster task : Nat) (s : State) : Out :=
  match s.taskAt cluster task with
  | none => .refused (.notEnabled "TASK_DEPENDENCE_POLL")
  | some t =>
    if t.core.isSome ∨ taskDep t.record = 0 then .refused (.notEnabled "TASK_DEPENDENCE_POLL")
    else
      let x := s.taskEng cluster t
      match s.engReadable x (taskDep t.record) 8 with
      | .error f =>
        if isFetch f && !s.readsOut (t.asks cluster) then .next (s.askReads x (t.asks cluster) [] f)
        else .refused (.notEnabled "TASK_DEPENDENCE_POLL")
      | .ok ps =>
        .next (s.pollTask cluster task t ps)

/-- A task may start: its dependence is met, and no handle it names is being rewritten (R92, R279, R280). -/
def State.taskReady (s : State) (cl : Nat) (t : Task) : Bool :=
  t.core.isNone && (taskDep t.record == 0 || t.met) && (taskHandles t.record).all fun h =>
    !s.remapping t.ctx h && !s.describing t.ctx h && (match s.readEntry (s.taskEng cl t) h with
      | .ok e => eSt e == 0
      | .error _ => true)

/-- A core of a cluster is free for a task: it is not fenced (R22), none runs there and its own teams have no step waiting
(R279). -/
def State.coreFree (s : State) (cl core : Nat) : Bool :=
  !fget false s.fenced core && !(s.clusterAt cl).tasks.any (fun t => t.core == some core) &&
    [2 * core, 2 * core + 1].all fun k => (s.teamAt k).nextMat.isNone

/-- The read of another device that the entries of a task still need; those of handles whose entries have been read and are busy are
read anew. -/
def State.taskNeeds (s : State) (cl : Nat) (t : Task) : Option Nat :=
  (taskHandles t.record).findSome? fun h => fetchOf (s.readEntry (s.taskEng cl t) h)

/-- TILE_TASK_DISPATCH (R279): the oldest eligible task goes to the lowest-numbered free core, once its entries are read. -/
def execTileTaskDispatch (cluster task : Nat) (s : State) : Out :=
  let ts := (s.clusterAt cluster).tasks
  match ts[task]?, ((List.range 8).map (8 * cluster + ·)).find? (s.coreFree cluster) with
  | some t, some core =>
    let x := s.taskEng cluster t
    let hs := taskHandles t.record
    if s.taskReady cluster t && (ts.take task).all (fun u => !s.taskReady cluster u) then
      match s.taskNeeds cluster t with
      | some f =>
        match s.askOnce x (t.asks cluster) f with
        | some s1 => .next s1
        | none => .refused (.notEnabled "TILE_TASK_DISPATCH")
      | none =>
        .next ((hs.foldl (fun s h => s.keepEntry x h) s).setTask cluster task {
          t with core := some core, ents := hs.map (s.holdEntry x), got := [] })
    else if !s.taskReady cluster t && !t.got.isEmpty then .next (s.setTask cluster task { t with got := [] })
    else .refused (.notEnabled "TILE_TASK_DISPATCH")
  | _, _ => .refused (.notEnabled "TILE_TASK_DISPATCH")

/-! The work of a task (R279). -/

/-- The entries of A, B and C as the task's start read them (R80), checked as R273 and R279 ask. -/
def taskEntries (x : Eng) (t : Task) : Except Nat (Nat × Nat × Nat) :=
  match useEntry x (t.ents.getD 0 (0, 0)), useEntry x (t.ents.getD 1 (0, 0)), useEntry x (t.ents.getD 2 (0, 0)) with
  | .error e, _, _ => .error e
  | _, .error e, _ => .error e
  | _, _, .error e => .error e
  | .ok a, .ok b, .ok c =>
    let fa := eFmt a
    let fb := eFmt b
    if matrixFmt fa && (fa == fb || ((fa == 4 || fa == 5) && (fb == 4 || fb == 5))) && eRank a == 2 && eRank b == 2 && eRank c == 2
    then .ok (a, b, c) else .error 0x04

/-- Chunks of a task: K0 to K1 in steps of Table 11.6. -/
def taskChunks (a : Nat) (r : BitVec 512) : Nat := (taskK1 r - taskK0 r + stepElems (eFmt a) - 1) / stepElems (eFmt a)

/-- The 64 rows of a chunk's columns of a handle, from row base on: code and marker by row and element. -/
def State.taskRows (s : State) (x : Eng) (e base k0 n : Nat) : Except Nat (List (List (Nat × Bool)) × List Piece) :=
  ((List.range 64).mapM fun r => ((List.range n).mapM fun k => s.supply x e [k0 + k, base + r])).map
    fun (rows : List (List (Option (Nat × Bool × List Piece)))) =>
      (rows.map fun row => row.map fun o => ((o.map (·.1)).getD 0, o.any (·.2.1)),
        rows.flatMap fun row => row.flatMap fun o => (o.map (·.2.2)).getD [])

/-- The elements of C, widened to the accumulator's format, which of them are poisoned, and the parts read. -/
def State.taskC (s : State) (x : Eng) (c af : Nat) (rec_ : BitVec 512) :
    Except Nat (List (Nat × DWord) × List (Nat × Bool) × List Piece) :=
  (((List.range 64).flatMap fun r => (List.range 64).map fun k => (r, k)).mapM fun p =>
    (s.supply x c [64 * taskTj rec_ + p.2, 64 * taskTi rec_ + p.1]).map fun o => (64 * p.1 + p.2, o)).map
    fun (vs : List (Nat × Option (Nat × Bool × List Piece))) =>
      (vs.foldl (fun m v => fset 0 m v.1 (dw (supplied (eFmt c) af v.2))) [],
        vs.foldl (fun m v => fset false m v.1 (v.2.any (·.2.1))) [], vs.flatMap fun v => (v.2.map (·.2.2)).getD [])

/-- The next chunk of a task's product: the task after it, or the cause that ends it. -/
def State.taskChunk (s : State) (x : Eng) (t : Task) : Except Nat (Task × List Piece) :=
  match taskEntries x t with
  | .error e => .error e
  | .ok (a, b, c) =>
    let af := accFmt (eFmt a)
    let st := stepElems (eFmt a)
    let k0 := taskK0 t.record + t.chunk * st
    let n := min st (taskK1 t.record - k0)
    let start := if t.chunk = 0 then (if taskAccum t.record then s.taskC x c af t.record else .ok ([], [], [])) else .ok (t.acc, t.hurt, [])
    match start, s.taskRows x a (64 * taskTi t.record) k0 n, s.taskRows x b (64 * taskTj t.record) k0 n with
    | .error e, _, _ => .error e
    | _, .error e, _ => .error e
    | _, _, .error e => .error e
    | .ok (acc0, hurt0, pc), .ok (ra, pa), .ok (rb, pb) =>
      let hurt := (List.range 64).foldl (fun m r => (List.range 64).foldl (fun m k =>
        if (ra.getD r []).any (·.2) || (rb.getD k []).any (·.2) then fset false m (64 * r + k) true else m) m) hurt0
      let acc := (List.range 64).foldl (fun m r => (List.range 64).foldl (fun m k =>
        let xs := (ra.getD r []).zip (rb.getD k []) |>.map fun p => (p.1.1, p.2.1)
        fset 0 m (64 * r + k) (dw (accAdd af (fget 0 acc0 (64 * r + k)).toNat xs (eFmt a) (eFmt b) none))) m) acc0
      .ok ({ t with acc := acc, hurt := hurt, chunk := t.chunk + 1 }, pa ++ pb ++ pc)

/-- A task has done all its chunks. -/
def taskDone (x : Eng) (t : Task) : Bool :=
  match taskEntries x t with
  | .ok (a, _, _) => decide (taskChunks a t.record ≤ t.chunk)
  | .error _ => false

/-- The step of the task on a core (R279, R336). -/
def State.taskStep (s : State) (core : Nat) : Option State :=
  let cl := core / 8
  match (s.clusterAt cl).tasks.findIdx? fun t => t.core == some core with
  | none => none
  | some k =>
    match s.taskAt cl k with
    | none => none
    | some t =>
      let x := s.taskEng cl t
      if t.cow.isSome || t.stage ≠ 0 || taskDone x t then none
      else
        match s.taskChunk x t with
        | .ok (t1, ps) => some (((s.engKeep x ps).recallAll ps).setTask cl k { t1 with got := [] })
        | .error f => if isFetch f then s.askOnce x (t.asks cl) f else none

/-- MATRIX_STEP (R274, R336): a core's matrix engine takes a step for team slot 0 or 1 of the core, or for its task. -/
def execMatrixStep (core party : Nat) (s : State) : Out :=
  match (if party < 2 then s.matrixStep (2 * core + party) else s.taskStep core) with
  | some s1 => .next s1
  | none => .refused (.notEnabled "MATRIX_STEP")

/-! The end of a task. -/

/-- How a task that has done its chunks, or cannot go on, ends. -/
inductive TaskEnd where
  | fault (cause : Nat)
  | cow (va : Nat)
  | writes (ec : Nat) (ws : List ElemWrite)
  | fetch (cause : Nat)
  | wait

/-- The writes of C, after the checks of every page that the task touches. -/
def State.taskEnd (s : State) (x : Eng) (t : Task) : TaskEnd :=
  match taskEntries x t with
  | .error e => .fault e
  | .ok (a, _, c) =>
    if t.chunk < taskChunks a t.record then
      match s.taskChunk x t with
      | .error e => if isFetch e then .wait else .fault e
      | .ok _ => .wait
    else
      let places := ((List.range 64).flatMap fun r => (List.range 64).map fun k => (r, k)).mapM fun p =>
        (s.elemAt x { w := true } c [64 * taskTj t.record + p.2, 64 * taskTi t.record + p.1]).map fun o => (p, o)
      let counter := if taskCmp t.record = 0 then .ok [] else s.engCheck x { r := true, w := true } (taskCmp t.record) 8
      match places, counter, s.engCheck x { w := true } (t.addr.toNat + 56) 8 with
      | .error e, _, _ => .fault e
      | _, .error e, _ => .fault e
      | _, _, .error e => .fault e
      | .ok ps, .ok cs, .ok ts =>
        let ws := ps.filterMap fun q => q.2.map fun pl =>
          let hurt := fget false t.hurt (64 * q.1.1 + q.1.2)
          ({ place := pl.1, ps := pl.2, bad := hurt
             code := if hurt then 0 else convert (accFmt (eFmt a)) (eFmt c) (fget 0 t.acc (64 * q.1.1 + q.1.2)).toNat } : ElemWrite)
        match cowAt ((ws.flatMap (·.ps)) ++ cs ++ ts), farNeeds x c ws with
        | some va, _ => .cow va
        | none, some e => if isFetch e then .fetch e else .fault e
        | none, none => .writes c ws

/-- The copy-on-write page that the device's write of 8 bytes for a task meets (R70). -/
def State.wordCow (s : State) (x : Eng) (va : Nat) : Option Nat :=
  match s.engCheck x { w := true } va 8 with
  | .ok ps => cowAt ps
  | .error _ => none

/-- Write TSTAT, where its page takes the store. -/
def State.writeTstat (s : State) (x : Eng) (cl : Nat) (t : Task) (st : DWord) : State :=
  match s.engCheck x { w := true } (t.addr.toNat + 56) 8 with
  | .ok ps => { s.engWrite x (t.asks cl) ps st.toNat [] with wrote := [] }
  | .error _ => s

/-- The completion counter rises by 1. -/
def State.bumpCounter (s : State) (x : Eng) (cl : Nat) (t : Task) : State :=
  if taskCmp t.record = 0 then s
  else
    match s.engCheck x { r := true, w := true } (taskCmp t.record) 8 with
    | .error _ => s
    | .ok ps =>
      let s1 := (s.engKeep x ps).recallAll ps
      if anyRemote ps then
        (s1.send (ps.map fun p =>
          { kind := 1, dev := pteDev p.page.pte, rctx := pteRctx p.page.pte, sec := x.sec, va := dw p.va, size := 8, aop := 16, fmt := 13
            data := 1, data2 := 0, crew := taskKey, lane := 32 + cl, plane := s.planeOf p.va (pteDev p.page.pte), part := t.num })).1
      else s1.writePieces ps ((s.readPieces ps + 1) % 2 ^ 64)

/-- After the increment of a task's counter the schedulers of its die read again: that of the cluster, and that of the word's home
slice (R336). -/
def State.repollAfter (s : State) (cl : Nat) (x : Eng) (t : Task) : State :=
  if taskCmp t.record = 0 then s
  else
    match s.engCheck x { r := true, w := true } (taskCmp t.record) 8 with
    | .ok (p :: _) => if stackOf p.page.pa = cl / 12 then s.repoll (cl / 12) else (s.repoll (cl / 12)).repoll (stackOf p.page.pa)
    | _ => s

/-- The last two steps of a task: TSTAT, once every write of C is performed, then the counter, once TSTAT is (R279). -/
def State.taskTail (s : State) (cl k : Nat) (t : Task) : Option State :=
  let x := s.taskEng cl t
  let at_ := if t.stage = 1 then t.addr.toNat + 56 else taskCmp t.record
  if !t.owed.isEmpty || s.taskOutstanding cl t then none
  else
    match (if t.stage = 2 ∧ at_ = 0 then none else s.wordCow x at_) with
    | some va => some (s.setTask cl k { t with cow := some va })
    | none =>
      if t.stage = 1 then some ((s.writeTstat x cl t t.status).setTask cl k { t with stage := 2 })
      else some (((s.bumpCounter x cl t).dropTask cl k).repollAfter cl x t)

/-- TILE_TASK_COMPLETE (R279): the writes of C are formed, then TSTAT is written, then the counter; a failure writes TSTAT alone. A
write that meets copy-on-write holds the task. -/
def execTileTaskComplete (cluster task : Nat) (s : State) : Out :=
  match s.taskAt cluster task with
  | none => .refused (.notEnabled "TILE_TASK_COMPLETE")
  | some t =>
    let x := s.taskEng cluster t
    let goes (o : Option State) : Out := match o with
      | some s1 => .next s1
      | none => .refused (.notEnabled "TILE_TASK_COMPLETE")
    if t.core.isNone ∨ t.cow.isSome then .refused (.notEnabled "TILE_TASK_COMPLETE")
    else if t.stage ≠ 0 then goes (s.taskTail cluster task t)
    else
      match s.taskEnd x t with
      | .wait => .refused (.notEnabled "TILE_TASK_COMPLETE")
      | .fetch f => goes (s.askOnce x (t.asks cluster) f)
      | .cow va => .next (s.setTask cluster task { t with cow := some va })
      | .fault e =>
        match s.wordCow x (t.addr.toNat + 56) with
        | some va => .next (s.setTask cluster task { t with cow := some va })
        | none => .next ((s.writeTstat x cluster t (stFault e 0)).dropTask cluster task)
      | .writes ec ws =>
        let st := match ws.findIdx? (·.bad) with
          | some k => stPartial (k * eBits ec / 8)
          | none => stDone (bitBytes ws.length (eBits ec))
        let (s1, owed) := s.putOff (s.writeElems x (t.asks cluster) ec ws)
        .next (s1.setTask cluster task { t with owed := owed, got := [], stage := 1, status := st })

end Sys2Proof.Machine
end

