-- ==== Sys2Proof/Machine/Slots.lean ====
section
/-! DEFINITION. Launch records (R26), kernel images as dispatch reads and checks them (R145 to R148, R165, R166, R332),
the claims of a team (R35), what a team's going frees (R48, R55, R61), BIND (R36, R331), retirement (R48) and the end of
a fault domain (R395). -/
namespace Sys2Proof.Machine

/-! Launch records (Table 2.1). -/

def Launch.f (l : Launch) (lo n : Nat) : Nat := field l.record.toNat lo n
def Launch.imageVa (l : Launch) : Nat := l.f 0 64
/-- Crews of a team, counting logical groups in compatibility mode (R50). -/
def Launch.ncrew (l : Launch) : Nat := l.f 64 4 + 1
def Launch.nvreg (l : Launch) : Nat := l.f 72 7
def Launch.ntile (l : Launch) : Nat := l.f 80 5
def Launch.nacc (l : Launch) : Nat := l.f 88 4
def Launch.cspb (l : Launch) : Nat := l.f 96 32
def Launch.nteams (l : Launch) : Nat := l.f 128 32
def Launch.lspb (l : Launch) : Nat := l.f 160 32
def Launch.dspb (l : Launch) : Nat := l.f 192 32
def Launch.coresident (l : Launch) : Bool := l.record.getLsbD 224
def Launch.ttf (l : Launch) : Bool := l.record.getLsbD 225
def Launch.lastlanes (l : Launch) : Nat := l.f 232 5
def Launch.arg (l : Launch) : DWord := l.record.extractLsb' 832 64

/-! Kernel images (Tables 6.6 and 6.7), read from memory. -/

/-- The reason of R332 for a failing check of a page. -/
def imageReason (rank : Nat) : Nat := if rank = 3 ∨ rank = 4 then 4 else if rank = 5 then 5 else 3

/-- Bytes of an image, with execute or read rights: their number, or the reason of R332. -/
def State.imageSpan (s : State) (cl ctx : Nat) (text : Bool) (va n : Nat) : Except Nat Nat :=
  match s.checkSpan cl ctx (s.ctxSec ctx) { r := !text, x := text } va n with
  | .error r => .error (imageReason r)
  | .ok ps =>
    if anyRemote ps then .error 4
    else if ps.any (fun p => ptePor p.page.pte) || s.piecesPoisoned ps then .error 5
    else .ok (s.readPieces ps)

/-- Fields of a header given as a number (Tables 6.6 and 6.7). -/
def hCompat (h : Nat) : Bool := field h 64 1 == 1
def hHndl (h : Nat) : Bool := field h 66 1 == 1
def hMacwin (h : Nat) : Nat := field h 72 4
def hMinacc (h : Nat) : Nat := field h 76 4
def hMintile (h : Nat) : Nat := field h 80 5
def hMinvreg (h : Nat) : Nat := field h 88 7
def hEntry (h : Nat) : Nat := field h 128 32
def hHandler (h : Nat) : Nat := field h 160 32
def hTextoff (h : Nat) : Nat := field h 192 32
def hTextsize (h : Nat) : Nat := field h 224 32
def hMacoff (h : Nat) : Nat := field h 256 32
def hMaccnt (h : Nat) : Nat := field h 288 8
def hQueoff (h : Nat) : Nat := field h 320 32
def hQuecnt (h : Nat) : Nat := field h 352 8
def hCkpoff (h : Nat) : Nat := field h 384 32
def hCkpcnt (h : Nat) : Nat := field h 416 32
def hTencnt (h : Nat) : Nat := field h 480 16

/-- The header passes reason 1 of R332: MAGIC, VERSION and the reserved bits. -/
def headerOk (h : Nat) : Bool :=
  field h 0 32 == 0x4B4C4F4D && field h 32 16 == 1 &&
    [(48, 16), (67, 5), (85, 3), (95, 33), (296, 24), (360, 24), (496, 16), (616, 24), (640, 1408)].all fun r => field h r.1 r.2 == 0

/-- The header passes reason 2 of R332: its limits. -/
def headerLimits (h : Nat) : Bool :=
  let pcOk (pc : Nat) : Bool := pc % 4 == 0 && decide (pc < hTextsize h)
  hTextsize h != 0 && hTextsize h % 4 == 0 && decide (hTextsize h ≤ 2 ^ 20) && pcOk (hEntry h) && (!hHndl h || pcOk (hHandler h)) &&
    decide (hMaccnt h ≤ 128) && decide (hQuecnt h ≤ 32) && decide (hTencnt h ≤ 1024)

/-- The words of a number, lowest first. -/
def wordsOf (n v : Nat) : List Word := (List.range n).map fun k => w32 (v / 2 ^ (32 * k))

/-- The window's entries of a macro section with their marks (R147, R165). -/
def windowEntries (h macro_ : Nat) : List (Nat × (List Word × List Byte)) :=
  (List.range 8).filterMap fun j =>
    let e := 8 * hMacwin h + j
    if e < hMaccnt h then
      some (e, (wordsOf 32 (macro_ / 2 ^ (1024 * e)), bytesOf 32 (macro_ / 2 ^ (1024 * hMaccnt h + 256 * e))))
    else none

/-- An image that a cluster can take beside those resident, or the reason of R332 (reasons 1 to 6). -/
def State.loadImage (s : State) (cl ctx va : Nat) : Except Nat Image :=
  match s.imageSpan cl ctx false va 256 with
  | .error r => .error r
  | .ok h =>
    if !headerOk h then .error 1
    else if !headerLimits h then .error 2
    else
      match s.imageSpan cl ctx true (va + hTextoff h) (hTextsize h),
          (if hMaccnt h = 0 then .ok 0 else s.imageSpan cl ctx false (va + hMacoff h) (160 * hMaccnt h)) with
      | .error a, .error b => .error (min a b)
      | .error a, .ok _ => .error a
      | .ok _, .error b => .error b
      | .ok t, .ok m =>
        let images := (s.clusterAt cl).images
        let entries := windowEntries h m
        let holds := entries.any fun e => e.2.1.headD 0 != 0xFFFFFFFF#32
        let used := (images.map fun i => 4 * i.text.length).sum
        if 2 ^ 20 < used + hTextsize h || (holds && images.any fun i => i.window == some (hMacwin h)) then .error 6
        else .ok { ctx := ctx, va := dw va, text := wordsOf (hTextsize h / 4) t, hdr := BitVec.ofNat 2048 h
                   window := if holds then some (hMacwin h) else none, macros := if holds then entries else [] }

/-- The image of a launch in a cluster: resident already (R61), or taken now. -/
def State.imageFor (s : State) (cl : Nat) (l : Launch) : Except Nat Image :=
  match (s.clusterAt cl).images.find? fun i => i.ctx == l.ctx && i.va == dw l.imageVa with
  | some i => .ok i
  | none => s.loadImage cl l.ctx l.imageVa

/-- Records of n bytes of a section (R148); none where the section cannot be read. -/
def State.sectionRecords (s : State) (ctx va off cnt n : Nat) : List Nat :=
  match s.imageSpan noCluster ctx false (va + off) (n * cnt) with
  | .ok v => (List.range cnt).map fun k => field v (8 * n * k) (8 * n)
  | .error _ => []

/-- Fields of a queue record (Table 6.8). -/
def qNumber (r : Nat) : Nat := field r 0 5
def qLevel (r : Nat) : Nat := field r 8 1
/-- The capacity 2^LOG2CAP as the record gives it, also where LOG2CAP lies outside 1 to 8: no check of R27 or R332 names such a
record (the model's choice, log entry 91). -/
def qCap (r : Nat) : Nat := 2 ^ field r 12 4
def qOffset (r : Nat) : Nat := field r 32 32

/-- The queue records of a launch's image. -/
def State.queueRecords (s : State) (l : Launch) (h : Nat) : List Nat :=
  s.sectionRecords l.ctx l.imageVa (hQueoff h) (hQuecnt h) 8

/-! Claims (Table 2.3). -/

structure Claim where
  crews : Nat
  rows : Nat
  csp : Nat
  tiles : Nat
  accs : Nat
deriving DecidableEq, Repr

/-- The claim of a geometry: in compatibility mode a hardware crew hosts two groups and counts as two (R50). -/
def claimOf (ncrew nvreg cspb ntile nacc : Nat) (compat : Bool) : Claim :=
  let hw := if compat then (ncrew + 1) / 2 else ncrew
  { crews := if compat then 2 * hw else hw, rows := hw * nvreg / 8, csp := cspb / 1024, tiles := ntile, accs := nacc }

def Launch.claim (l : Launch) (compat : Bool) : Claim := claimOf l.ncrew l.nvreg l.cspb l.ntile l.nacc compat
def Team.claim (t : Team) : Claim := claimOf t.ncrew t.nvreg t.part.size t.ntile t.nacc t.compat

/-- The other team slot of a core. -/
def otherSlot (slot : Nat) : Nat := if slot % 2 = 0 then slot + 1 else slot - 1

/-- A range lies within a total and clear of another. -/
def rangeOk (total b n b2 n2 : Nat) : Bool :=
  decide (b + n ≤ total) && (n == 0 || n2 == 0 || decide (b + n ≤ b2) || decide (b2 + n2 ≤ b))

/-- The claims of an entry lie within the core and clear of the other slot's (Table 14.2). -/
def State.claimsOk (s : State) (slot : Nat) (e : Slot) (c : Claim) : Bool :=
  let (f, d) := match lookup s.teams (otherSlot slot) with
    | some t => (s.slotAt (otherSlot slot), t.claim)
    | none => ({}, { crews := 0, rows := 0, csp := 0, tiles := 0, accs := 0 })
  rangeOk 16 e.crewbase c.crews f.crewbase d.crews && rangeOk 192 e.vrbase c.rows f.vrbase d.rows &&
    rangeOk 384 e.cspoff c.csp f.cspoff d.csp && rangeOk 16 e.tilebase c.tiles f.tilebase d.tiles &&
    rangeOk 8 e.accbase c.accs f.accbase d.accs

/-! Slot-table entries (R330). -/

/-- The address of entry e of a die's slot table in the management core's map. -/
def slotEntryAddr (e : Nat) : Nat := 0x40000000 + 64 * e

/-- The 512 bits of an entry (Table 14.1); OP is write-only and its reserved bits read 0. -/
def Slot.bits (e : Slot) : BitVec 512 :=
  BitVec.ofNat 512 (e.st % 8 * 2 ^ 16 + (if e.hold then 2 ^ 19 else 0) + e.prio % 16 * 2 ^ 24 + e.seq % 2 ^ 32 * 2 ^ 32 + e.qmap.toNat * 2 ^ 64 +
    e.crewbase % 16 * 2 ^ 260 + e.accbase % 8 * 2 ^ 264 + e.tilebase % 16 * 2 ^ 267 + e.cspoff % 512 * 2 ^ 271 + e.vrbase % 256 * 2 ^ 280 +
    e.teamid % 2 ^ 24 * 2 ^ 296 + e.rcb.toNat * 2 ^ 320 + e.lrec.toNat * 2 ^ 384 + e.saveaddr.toNat * 2 ^ 448)

/-- The word that the management core of a die reads at an address of its slot table. -/
def State.slotWord (s : State) (die addr : Nat) : DWord :=
  let o := addr - 0x40000000
  dw (field (s.slotAt (192 * die + o / 64)).bits.toNat (64 * (o % 64 / 8)) 64)

/-- A write of word 0 of an entry: with OP 0 it changes HOLD and PRIO alone (R333), else it is a command (R331). -/
def Slot.writeCommand (e : Slot) (v : DWord) : Slot :=
  let e1 := { e with hold := v.getLsbD 19, prio := field v.toNat 24 4 }
  if field v.toNat 0 3 = 0 then e1 else { e1 with op := field v.toNat 0 3, seq := field v.toNat 32 32 }

/-- A write of word w of an entry, 0 to 7. -/
def Slot.writeWord (e : Slot) (w : Nat) (v : DWord) : Slot :=
  let x := v.toNat
  match w with
  | 0 => e.writeCommand v
  | 1 => { e with qmap := BitVec.ofNat 160 (e.qmap.toNat / 2 ^ 64 * 2 ^ 64 + x) }
  | 2 => { e with qmap := BitVec.ofNat 160 (e.qmap.toNat / 2 ^ 128 * 2 ^ 128 + x * 2 ^ 64 + e.qmap.toNat % 2 ^ 64) }
  | 3 => { e with qmap := BitVec.ofNat 160 (x % 2 ^ 32 * 2 ^ 128 + e.qmap.toNat % 2 ^ 128) }
  | 4 => { e with crewbase := field x 4 4, accbase := field x 8 3, tilebase := field x 11 4, cspoff := field x 15 9, vrbase := field x 24 8
                  teamid := field x 40 24 }
  | 5 => { e with rcb := v }
  | 6 => { e with lrec := v }
  | _ => { e with saveaddr := v }

/-- An entry changes state, and its notice is written (R331). -/
def State.slotTo (s : State) (slot st code reason : Nat) : State :=
  (s.setSlotAt slot { s.slotAt slot with st := st, op := 0 }).notice slot code reason

/-- A command is refused: code 4, or code 5 with the reason of R332, and ST reads REFUSED; a fenced entry goes on reading FENCED. A
team that stands in the slot goes on, and so does its save (R331; log entry 89). -/
def State.slotRefuse (s : State) (slot code reason : Nat) : State :=
  s.slotTo slot (if (s.slotAt slot).st = 5 then 5 else 4) code reason

/-- The checks of BIND and RESTORE: the launch that the entry names and its image, or the notice's code and reason. -/
def State.bindCheck (s : State) (slot : Nat) : Except (Nat × Nat) (Launch × Image) :=
  let e := s.slotAt slot
  let l := s.launchAt e.launch
  if (lookup s.launches e.launch).isNone ∨ l.lrec ≠ e.lrec ∨ l.region ≠ e.rcb ∨ l.ended ∨ l.nteams ≤ e.teamid ∨ !([0, 3, 4].contains e.st) ∨ (lookup s.teams slot).isSome then
    .error (4, 0)
  else
    match s.imageFor (clusterOf slot) l with
    | .error r => .error (5, r)
    | .ok i => if s.claimsOk slot e (l.claim (hCompat i.hdr.toNat)) then .ok (l, i) else .error (4, 0)

/-- A BIND or RESTORE that failed its checks: the launch's domain ends for reasons 1 to 5 of R332. -/
def State.bindRefused (s : State) (slot code reason : Nat) : State :=
  let e := s.slotAt slot
  let l := s.launchAt e.launch
  let s1 := s.slotRefuse slot code reason
  if code = 5 ∧ reason ≠ 6 then
    { s1.setLaunchAt e.launch { l with ended := true } with
      ends := s1.ends ++ [{ ctx := l.ctx, fdom := l.fdom, crew := none, driver := false, reason := reason, launch := some e.launch }] }
  else if (lookup s.launches e.launch).isSome && e.op == 1 then s1.setLaunchAt e.launch { l with again := l.again ++ [e.teamid] }
  else s1

/-! Queues and parts of a team that comes (R44, R55). -/

/-- Map the queues of an image's records by QMAP. -/
def State.mapQueues (s : State) (slot : Nat) (e : Slot) (rs : List Nat) : State :=
  rs.foldl (fun s r =>
    let hw := field e.qmap.toNat (5 * qNumber r) 5
    let c := s.clusterAt (clusterOf slot)
    let t := s.teamAt slot
    let fresh : HwQueue := { launch := e.launch, owner := if qLevel r = 0 then some slot else none, level := qLevel r
                             offset := qOffset r, cap := qCap r }
    let hwq := match lookup c.hwq hw with
      | some old => if qLevel r = 1 ∧ old.level = 1 ∧ old.launch = e.launch then c.hwq else insert c.hwq hw fresh
      | none => insert c.hwq hw fresh
    (s.setClusterAt (clusterOf slot) { c with hwq := hwq }).setTeamAt slot { t with
      qmaps := t.qmaps ++ [{ logical := qNumber r, hw := hw }] }) s

/-- Allocate a part of a launch where it has none yet. -/
def State.givePart (s : State) (launch level place size : Nat) : State :=
  match lookup s.parts (partKey launch level place) with
  | some _ => s
  | none => { s with parts := insert s.parts (partKey launch level place) { size := size } }

/-- The ranges of an image that a cluster reads to copy it: header, text and macro section. -/
def Image.spans (i : Image) : List (Nat × Nat) :=
  let h := i.hdr.toNat
  let va := i.va.toNat
  [(va, 256), (va + hTextoff h, hTextsize h), (va + hMacoff h, 160 * hMaccnt h)]

/-- The image is resident in the cluster; the walks of the copy are kept (R66). -/
def State.giveImage (s : State) (cl : Nat) (i : Image) : State :=
  let c := s.clusterAt cl
  if c.images.contains i then s
  else
    i.spans.foldl (fun s r => s.keepSpan cl i.ctx (s.ctxSec i.ctx) r.1 r.2) (s.setClusterAt cl { c with images := c.images ++ [i] })

/-! BIND (Table 2.5). -/

/-- A crew at its team's first bind. -/
def firstCrew (l : Launch) (core teamid c : Nat) (compat : Bool) (entry : Nat) : Crew :=
  let width := if compat then 16 else 32
  let lanes := if c + 1 = l.ncrew ∧ l.lastlanes ≠ 0 then min l.lastlanes width else width
  let mask := BitVec.ofNat 32 (2 ^ lanes - 1)
  { bound := true, live := mask, exm := mask, pc := BitVec.ofNat 32 entry
    sr := fset 0 [] 0 l.arg
    seed := (List.range width).foldl (fun m i =>
      fset 0 m i (seedMix (w32 (core * 65536 + teamid % 4096 * 16 + c % 16)) i)) [] }

/-- The team of a bind or restore before its state is filled in. -/
def State.newTeam (s : State) (e : Slot) (l : Launch) (h : Nat) : Team :=
  { launch := e.launch, lrec := e.lrec, ctx := l.ctx, sec := s.ctxSec l.ctx, region := e.rcb, fdom := l.fdom
    teamid := e.teamid, nteams := l.nteams, ncrew := l.ncrew, nvreg := l.nvreg, ntile := l.ntile, nacc := l.nacc
    lspb := l.lspb, dspb := l.dspb, coresident := l.coresident, compat := hCompat h, hndl := hHndl h
    handler := hHandler h, textsize := hTextsize h, image := dw l.imageVa, macwin := hMacwin h, ttf := l.ttf
    part := { size := l.cspb }, boundAt := s.fresh }

/-- SLOT_BIND (R331, R332, R36): the entry's BIND command. -/
def execSlotBind (slot : Nat) (s : State) : Out :=
  let e := s.slotAt slot
  if e.op ≠ 1 then .refused (.notEnabled "SLOT_BIND")
  else
    match s.bindCheck slot with
    | .error (code, reason) => .next (s.bindRefused slot code reason)
    | .ok (l, i) =>
      let h := i.hdr.toNat
      let s1 := (((s.giveImage (clusterOf slot) i).setTeamAt slot (s.newTeam e l h)).givePart e.launch 1 (clusterOf slot) l.lspb).givePart
        e.launch 2 (dieOf slot) l.dspb
      let s2 := s1.mapQueues slot e (s.queueRecords l h)
      let s3 := (List.range l.ncrew).foldl (fun s c =>
        s.setCrewAt (16 * slot + c) (firstCrew l (coreOf slot) e.teamid c (hCompat h) (hEntry h))) s2
      .next (s3.slotTo slot 1 1 0)

/-! Going: what a team's retirement, save or end frees (R48, R55, R61, R166). -/

/-- Some team of a launch stands where a predicate on slots holds. -/
def State.launchAtSlots (s : State) (launch : Nat) (p : Nat → Bool) : Bool :=
  s.teams.any fun e => e.2.launch == launch && p e.1

/-- A team's slot is vacated: its crews and core resources, the hardware queues, parts and image that no other team
needs; requests under way no longer answer to its crews. -/
def State.leave (s : State) (slot : Nat) : State :=
  let t := s.teamAt slot
  let cl := clusterOf slot
  let s1 : State := { s with
    teams := erase s.teams slot
    crews := s.crews.filter fun e => slotOf e.1 != slot
    fabric := s.fabric.map fun r => if slotOf r.2.crew == slot then (r.1, { r.2 with crew := goneKey }) else r
    convs := s.convs.map fun c => (c.1, { c.2 with
      queue := c.2.queue.filter fun k => slotOf k != slot
      closing := c.2.closing.map fun k => if slotOf k == slot then goneKey else k }) }
  let here := s1.launchAtSlots t.launch fun k => clusterOf k == cl
  let die := s1.launchAtSlots t.launch fun k => dieOf k == dieOf slot
  let c := s1.clusterAt cl
  let s2 := s1.setClusterAt cl { c with
    hwq := c.hwq.filter fun q => q.2.owner != some slot && (here || q.2.launch != t.launch || q.2.level != 1)
    images := c.images.filter fun i => s1.teams.any fun e => clusterOf e.1 == cl && e.2.ctx == i.ctx && e.2.image == i.va }
  let p1 := if here then s2.parts else erase s2.parts (partKey t.launch 1 cl)
  { s2 with
    parts := if die then p1 else erase p1 (partKey t.launch 2 (dieOf slot))
    expect := s2.expect.filter fun e =>
      let place := e.1 / 2 ^ 36
      place != 1 + s.partId slot 0 && (here || place != 1 + s.partId slot 1) && (die || place != 1 + s.partId slot 2) }

/-! Retirement. -/

/-- Every crew of a team has retired and nothing that it issued is under way (R48). -/
def State.teamDone (s : State) (slot : Nat) : Bool :=
  let t := s.teamAt slot
  (lookup s.teams slot).isSome && t.matrix.isEmpty && t.queues.isEmpty && decide (s.tasksOf t.launch t.teamid = 0) &&
    (List.range t.ncrew).all fun c =>
      (s.at_ (16 * slot + c)).liveMask == 0#32 && (s.crewAt (16 * slot + c)).pend.isEmpty &&
        (s.crewAt (16 * slot + c)).loads.isEmpty

/-- TEAM_RETIRE (R48): the slot becomes FREE with the notice RETIRED; the last team retires the launch, whose SETMASK is
ORed into the event vector (R33). -/
def execTeamRetire (slot : Nat) (s : State) : Out :=
  if !(s.teamDone slot && (s.teamRuns slot || s.teamSaves slot)) then .refused (.notEnabled "TEAM_RETIRE")
  else
    let t := s.teamAt slot
    let l := s.launchAt t.launch
    let last := l.retired + 1 == t.nteams
    let s1 := (s.leave slot).slotTo slot 0 2 0
    let s2 := s1.setLaunchAt t.launch { l with
      retired := l.retired + 1, ended := l.ended || last
      phases := l.phases.filter fun p => !(p.scope == 1 && p.inst == t.teamid) }
    .next (if last then s2.changeVector t.ctx fun v => v ||| l.setMask else s2)

/-- EVEC_WRITEBACK (R31): with no team of the context bound the event unit writes the vector to EVEC and releases it. -/
def execEvecWriteback (ctx : Nat) (s : State) : Out :=
  match lookup s.vectors ctx with
  | none => .refused (.notEnabled "EVEC_WRITEBACK")
  | some v =>
    if s.teams.any fun e => e.2.ctx == ctx then .refused (.notEnabled "EVEC_WRITEBACK")
    else .next ((({ s with vectors := erase s.vectors ctx }).recallRun (ctx + 96) 32).storePhys (ctx + 96) (bytesOf 32 v.toNat))

/-! Regions (Table 2.2). -/

/-- The first 64 bytes of an RCB; none where it cannot be read. -/
def State.rcb (s : State) (ctx va : Nat) : Option Nat :=
  match s.ownAccess ctx true false va 64 with
  | .ok pa => some (s.loadPhys pa 64)
  | .error _ => none

/-- The RCBs from a region up to its context; none where the chain does not reach one within that many levels (R29). -/
def State.chain (s : State) (ctx : Nat) : Nat → Nat → Option (List Nat)
  | 0, _ => none
  | n + 1, va =>
    match s.rcb ctx va with
    | none => none
    | some r => if field r 0 64 = 0 then some [r] else (s.chain ctx n (field r 0 64)).map (r :: ·)

/-- The addresses of that chain. -/
def State.chainVas (s : State) (ctx : Nat) : Nat → Nat → List Nat
  | 0, _ => []
  | n + 1, va =>
    match s.rcb ctx va with
    | none => []
    | some r => va :: (if field r 0 64 = 0 then [] else s.chainVas ctx n (field r 0 64))

/-- The effective value of a field under its bit of INHERIT (R29). -/
def effective (lo n bit : Nat) : List Nat → Nat
  | [] => 0
  | [r] => field r lo n
  | r :: rs => if field r (192 + bit) 1 = 1 then effective lo n bit rs else field r lo n

def effPrio (c : List Nat) : Nat := effective 160 4 7 c
def effFdom (c : List Nat) : Nat := effective 176 16 8 c
def effCores (c : List Nat) : Nat := min 768 (effective 320 16 0 c)

/-- The chains of a region and of each of its ancestors. -/
def tails : List Nat → List (List Nat)
  | [] => []
  | r :: rs => (r :: rs) :: tails rs

/-! The end of a fault domain (R395, R399). -/

/-- The team of a slot is in a domain. -/
def State.inDomain (s : State) (ctx fdom slot : Nat) : Bool := (s.teamAt slot).ctx == ctx && (s.teamAt slot).fdom == fdom

/-- The fault domain of a launch: as Almanac read it, or its region's now where it has not read it yet (R395). -/
def State.fdomOf (s : State) (l : Launch) : Option Nat :=
  if l.read then some l.fdom else (s.chain l.ctx 8 l.region.toNat).map effFdom

/-- The launches that end with a domain: those with a team that has been bound, the one that the cause names, and for
the driver's request every launch in the launch queues of its regions, read or not (R399). -/
def State.endedLaunches (s : State) (d : DomainEnd) : List Nat :=
  (s.launches.filter fun e => e.2.ctx == d.ctx && s.fdomOf e.2 == some d.fdom &&
    (some e.1 == d.launch || (!e.2.ended && (d.driver || decide (0 < e.2.bound))))).map (·.1)

/-- FAULT_DOMAIN_END (R395): the teams of the domain are stopped and their slots freed without a notice, their commands
and tile tasks discarded without status, their launches ended without SETMASK, and the end is reported (R441): word 2 of the record
holds the reason of R332, and 256 for the driver's request (R399; log entry 18 for the places); words 5 to 7 those of the first crew
that halted. -/
def execFaultDomainEnd (ctx fdom : Nat) (s : State) : Out :=
  match s.ends.find? fun d => d.ctx == ctx && d.fdom == fdom with
  | none => .refused (.notEnabled "FAULT_DOMAIN_END")
  | some d =>
    let driver := s.ends.any fun x => x.ctx == ctx && x.fdom == fdom && x.driver
    let ls := s.endedLaunches { d with driver := driver }
    let slots := (s.teams.map (·.1)).filter (s.inDomain ctx fdom)
    let halted := ((s.ends.filter fun x => x.ctx == ctx && x.fdom == fdom).findSome? (·.crew)).bind fun k =>
      if (s.crewAt k).halted && (s.crewAt k).bound && slots.contains (slotOf k) then some (k, s.crewAt k) else none
    let lrec := match halted, ls with
      | some e, _ => (s.teamAt (slotOf e.1)).lrec
      | none, l :: _ => (s.launchAt l).lrec
      | none, [] => 0
    let reg (f : Crew → DWord) : Nat := match halted with
      | some e => (f e.2).toNat
      | none => 0
    let s1 := slots.foldl (fun s k =>
      let s0 := (List.range (s.teamAt k).ncrew).foldl (fun s c => (s.flushPend (16 * k + c)).dropIrq (16 * k + c)) s
      (s0.leave k).setSlotAt k { s0.slotAt k with st := 0, op := 0, hold := false }) s
    let s2 : State := { s1 with
      slots := s1.slots.map fun e => if ls.contains e.2.launch && e.2.op != 0 then (e.1, { e.2 with op := 0 }) else e
      launches := s1.launches.map fun e => if ls.contains e.1 then (e.1, { e.2 with ended := true, phases := [], saved := [] }) else e
      clusters := s1.clusters.map fun e => (e.1, { e.2 with
        tasks := e.2.tasks.filter fun t => !ls.contains t.launch
        sessions := e.2.sessions.filter fun x => !ls.contains x.launch })
      ends := s1.ends.filter fun x => !(x.ctx == ctx && x.fdom == fdom) }
    let gone := s2.irqs.filter fun k => ls.any fun l => decide (savedKey l 0 0 ≤ k) && decide (k < savedKey (l + 1) 0 0)
    let s3 := (gone.foldl (fun s k => s.irqDone k true) s2).report 1 (Config.unstated s.fresh) (d.reason + (if driver then 256 else 0)) fdom lrec.toNat
      (reg Crew.trapcause) (reg Crew.trappc) (reg Crew.trapaddr)
    let s4 := s3.fireEquinox 2
    .next (if driver then s4.setReg 0 0x6318 (s4.reg 0 0x6318 &&& ~~~1#64) else s4)

end Sys2Proof.Machine
end

