-- ==== Sys2Proof/Machine/Scratch.lean ====
section
/-! DEFINITION. LDS and STS with the full-empty bits (spec/03 R56 to R60, spec/10 R240, R241). -/
namespace Sys2Proof.Machine

/-- A code that a 32-bit offset operand takes (R240). -/
def State.offsetOk (s : State) (code : BitVec 8) : Bool :=
  if isV code then s.vOk code.toNat else isS code || (latchOf code).isSome || code == 0x88#8

/-- The order of simultaneous requests: core number, then CREWID (R45, R59). Between the two team slots of a core the spec gives
no order of equal CREWIDs: slot 0 goes first (the model's choice; log entry 78). -/
def requestOrder (k : Nat) : Nat := coreOf (slotOf k) * 32 + k % 16 * 2 + slotOf k % 2

/-- The condition of a qualifier on a granule's bit (Table 3.3). -/
def feMet (load : Bool) (fe : Nat) (empty : Bool) : Bool :=
  if load then fe == 0 || !empty else fe != 2 || empty

/-- An access with a qualifier waits for the granule's bit: PEEK, TAKE and WFILL; the others go at once (Table 3.3). -/
def feWaits (load : Bool) (fe : Nat) : Bool := if load then fe != 0 else fe == 2

/-- Crew k may have a granule served now: its condition holds, and, where its qualifier waits, no crew before it in order waits
on it with a condition that holds (R59). -/
def State.mayServe (s : State) (k : Nat) (g : GranWait) (gr : Nat) : Bool :=
  let p := s.partAt (slotOf k) g.level
  let id := s.partId (slotOf k) g.level
  feMet g.load g.fe (p.isEmpty gr) && (!feWaits g.load g.fe ||
    s.crews.all fun e => e.1 == k || !decide (requestOrder e.1 < requestOrder k) || (match e.2.block with
      | some (.granules h) => !(e.2.bound && s.partId (slotOf e.1) h.level == id && h.wait.contains gr &&
          feMet h.load h.fe (p.isEmpty gr))
      | _ => true))

/-- The accesses of a granule. -/
def GranWait.at_ (g : GranWait) (gr : Nat) : List (Nat × Nat) := g.acc.filter fun a => a.2 / 16 == gr

/-- Serve a granule for crew k in one step (R58, R59). -/
def State.serveGranule (s : State) (k : Nat) (g : GranWait) (gr : Nat) : State × GranWait :=
  let n := (elemBytes g.fmt).getD 1
  let p := s.partAt (slotOf k) g.level
  let here := g.at_ gr
  if g.load then
    let data := here.foldl (fun m a => insert m a.1 (dw (natOf (p.read a.2 n)))) g.data
    (if g.fe = 2 then s.setPartAt (slotOf k) g.level (p.setEmpty [gr] true) else s,
      { g with data := data, wait := g.wait.erase gr })
  else
    let p1 := here.foldl (fun p a => p.write a.2 (bytesOf n ((lookup g.data a.1).getD 0).toNat)) p
    let covered := (List.range 16).all fun i => here.any fun a => decide (a.2 ≤ 16 * gr + i) && decide (16 * gr + i < a.2 + n)
    let p2 := if covered then { p1 with poison := fset false p1.poison gr false } else p1
    let p3 := if g.fe = 0 then p2 else p2.setEmpty [gr] false
    (s.setPartAt (slotOf k) g.level p3, { g with wait := g.wait.erase gr })

/-- Serve, in ascending order, the granules that can be served now. -/
def State.serveReady (s : State) (k : Nat) (g : GranWait) : State × GranWait :=
  g.wait.foldl (fun a gr => if a.1.mayServe k a.2 gr then a.1.serveGranule k a.2 gr else a) (s, g)

/-- The results of a served load: pending into D, with the flags of a converting load. -/
def State.endLds (s : State) (g : GranWait) : State :=
  if !g.load then s
  else
    let vs := g.acc.map fun a => (a.1, loadElem g.fmt ((lookup g.data a.1).getD 0).toNat)
    (s.pendLoad (BitVec.ofNat 7 g.d) (g.fmt == 0) (vs.map fun x => (x.1, dw x.2.code))).orFpsr
      (vs.foldl (fun f x => f ||| x.2.fl) 0)

/-- The distinct granules of accesses, ascending in order of first use. -/
def distinct (gs : List Nat) : List Nat := gs.foldl (fun m g => if m.contains g then m else m ++ [g]) []

/-- An LDS or STS among the crew's accesses: an access to an RC page of its stream (R67); PEEK and TAKE are acquires, FILL and
WFILL releases, at TEAM, CLUSTER or DIE by the level (Table 3.2, R60). -/
def State.scratchAcc (s : State) (load : Bool) (strm : BitVec 4) (level fe : BitVec 2) : Acc :=
  { seq := s.fresh, rd := load, wr := !load, strm := strm.toNat, acq := load && fe != 0#2, rel := !load && fe != 0#2
    scope := level.toNat + 1 }

/-- A TAKE that traps has taken nothing (R8): granules that it has emptied and that stand empty are full again, with the data that they
still hold (log entry 79). -/
def State.refill (s : State) (k level : Nat) (gs : List Nat) : State :=
  if gs.isEmpty then s else s.setPartAt (slotOf k) level ((s.partAt (slotOf k) level).setEmpty gs false)

/-- The granules that a waiting TAKE has taken. -/
def GranWait.taken (g : GranWait) : List Nat :=
  if g.load && g.fe == 2 then (g.acc.map (·.2 / 16)).filter fun gr => !g.wait.contains gr else []

/-- LDS and STS once their operands stand: the checks of stage 4, the granules that are ready served, and a wait for the
others (R59). Lanes served before a save are not served again (R414). -/
def scratchBody (load : Bool) (d : BitVec 7) (a : BitVec 8) (strm fmt : BitVec 4) (level fe : BitVec 2) (imm : BitVec 11)
    (v : Nat → Res) (s : State) : Effect :=
  let n := (elemBytes fmt.toNat).getD 1
  let p := s.partAt (slotOf s.cur) level.toNat
  let off (l : Nat) : Int := ((s.lane a l).toNat : Int) + imm.toInt
  let ls := s.active
  let served := if s.crew.reissue then s.crew.served else []
  let done (l : Nat) : Bool := served.any fun x => x.1 == l
  let fails := (ls.filter fun l => !done l).filterMap fun l =>
    let o := off l
    if o < 0 ∨ o % n ≠ 0 ∨ (p.size : Int) < o + n then some (l, wrapInt 64 o, 1)
    else if load ∧ p.poisoned o.toNat n then some (l, o.toNat, 5)
    else none
  match stage4 fails with
  | some t =>
    if load ∧ fe = 2#2 ∧ !served.isEmpty then
      .final ((s.refill s.cur level.toNat ((ls.filter done).map fun l => (off l).toNat / 16)).trapHere t (readsLatch [a]))
    else .trap t
  | none =>
    let acc := ls.map fun l => (l, (off l).toNat)
    let g : GranWait :=
      { level := level.toNat, load := load, fe := fe.toNat, d := d.toNat, fmt := fmt.toNat, acc := acc
        data := if load then served else ls.foldl (fun m l => insert m l (dw (v l).code)) []
        wait := distinct ((acc.filter fun x => !done x.1).map fun x => x.2 / 16) }
    match s.passing [s.scratchAcc load strm level fe] with
    | none => .unready
    | some s =>
      let s0 := if load then s else s.orFpsr (ls.foldl (fun f l => f ||| (v l).fl) 0)
      let (s1, g1) := s0.serveReady s.cur g
      if ls.isEmpty then .done s
      else if g1.wait.isEmpty then .done (s1.endLds g1)
      else .wait s1 (.granules g1)

/-- FMT and the codes of a scratchpad access (R240). -/
def scratchOk (fmt : BitVec 4) (level fe : BitVec 2) : Bool :=
  (elemBytes fmt.toNat).isSome && level != 3#2 && fe != 3#2

/-- LDS. -/
def execLds (d : BitVec 7) (a : BitVec 8) (strm fmt : BitVec 4) (level fe : BitVec 2) (imm : BitVec 11) (s : State) : Out :=
  perform { srcs := [a], ends := fe != 0#2
            ok := scratchOk fmt level fe && s.dstOk (fmt == 0#4) d && s.offsetOk a } s fun s =>
    scratchBody true d a strm fmt level fe imm (fun _ => { code := 0 }) s

/-- STS. -/
def execSts (a b : BitVec 8) (strm fmt : BitVec 4) (level fe : BitVec 2) (imm : BitVec 11) (s : State) : Out :=
  let wide := fmt == 0#4
  perform { srcs := [a, b], ends := true, ok := scratchOk fmt level fe && s.srcOk wide b && s.offsetOk a } s fun s =>
    scratchBody false 0 a strm fmt level fe imm (fun l => storeElem fmt.toNat s.crew.mode (s.laneW wide b l).toNat) s

/-- GRANULE_SERVICE (R59): a granule that a blocked crew waits on is served; the last one ends the wait. A load that
meets a poisoned granule takes the poisoned-read trap (R418). -/
def execGranuleService (crew granule : Nat) (s : State) : Out :=
  match (s.crewAt crew).block with
  | some (.granules g) =>
    if !(g.wait.contains granule && s.mayServe crew g granule) then .refused (.notEnabled "GRANULE_SERVICE")
    else
      let bad := g.load && (s.partAt (slotOf crew) g.level).poisoned (16 * granule) 16
      if bad then
        let s1 := (s.refill crew g.level g.taken).at_ crew
        match stage4 ((g.at_ granule).map fun a => (a.1, a.2, 5)) with
        | some t => .next (s1.trapHere t true)
        | none => .refused (.notEnabled "GRANULE_SERVICE")
      else
        let (s1, g1) := s.serveGranule crew g granule
        let s2 := s1.at_ crew
        if g1.wait.isEmpty then .next ((s2.endLds g1).unblock 2)
        else .next (s2.setCrew { s2.crew with block := some (.granules g1) })
  | _ => .refused (.notEnabled "GRANULE_SERVICE")

end Sys2Proof.Machine
end

