-- ==== Sys2Proof/Machine/Sync.lean ====
section
/-! DEFINITION. Fences (R246, R247), barriers (R42, R43, R249, R250), queues between crews (R44, R45, R251, R252) and
events (R253, R254). -/
namespace Sys2Proof.Machine

/-! Fences. -/

/-- FENCE. -/
def execFence (strm : BitVec 4) (scope : BitVec 3) (ord : BitVec 2) (s : State) : Out :=
  perform { ends := true, ok := scopeOk scope } s fun s => .done (s.fence (BitVec.ofNat 16 (2 ^ strm.toNat)) ord scope)

/-- SFENCE: a[63:16] must be zero; an empty mask orders nothing. -/
def execSfence (a : BitVec 8) (scope : BitVec 3) (ord : BitVec 2) (s : State) : Out :=
  perform { srcs := [a], ends := true
            ok := scopeOk scope && isUniform a && decide ((s.uni a).toNat < 65536) } s fun s =>
    .done (if s.uni a == 0 then s else s.fence ((s.uni a).setWidth 16) ord scope)

/-! Barriers. -/

/-- A crew as its launch's barriers know it: TEAMID and CREWID. -/
def State.party (s : State) (k : Nat) : Nat := (s.teamAt (slotOf k)).teamid * 16 + k % 16

/-- The instance of a scope that the current crew arrives in: its TEAMID, its die, or the launch. -/
def State.phaseInst (s : State) (scope : Nat) : Nat :=
  match scope with
  | 1 => s.team.teamid
  | 3 => dieOf (slotOf s.cur)
  | _ => 0

/-- The current crew is a participant of an open phase of an identifier at another scope (R42, R250). -/
def State.otherScope (s : State) (id scope : Nat) : Bool :=
  (s.launchAt s.team.launch).phases.any fun p => p.id == id && p.scope != scope && p.inst == s.phaseInst p.scope

/-- The barrier-use trap (R250). -/
def State.barrierUse (s : State) (id scope : Nat) : Bool :=
  s.crew.arrivals.getLsbD id || s.otherScope id scope || (scope != 1 && !s.team.coresident)

def State.barrierTrap (s : State) (id : Nat) : Trap := { code := 0x0A, lanes := s.actMask, addr := dw id }

/-- The current crew arrives at the open phase of an identifier, which its arrival opens when none is (R42). -/
def State.arrive (s : State) (id scope : Nat) : State :=
  let l := s.launchAt s.team.launch
  let inst := s.phaseInst scope
  let me := s.party s.cur
  let same (p : Phase) : Bool := p.id == id && p.scope == scope && p.inst == inst
  let ps := if l.phases.any same then l.phases.map fun p => if same p then { p with arrived := p.arrived ++ [me] } else p
    else l.phases ++ [{ id := id, scope := scope, inst := inst, arrived := [me] }]
  let s1 := s.setLaunchAt s.team.launch { l with phases := ps }
  s1.setCrew { s1.crew with arrivals := s1.crew.arrivals ||| BitVec.ofNat 16 (2 ^ id) }

def barrierScope (scope : BitVec 3) : Bool := scope == 1#3 || scope == 3#3 || scope == 4#3

/-- BAR: arrive, and wait for the phase; an arrival made before a save is not repeated (R414). -/
def execBar (scope : BitVec 3) (ord : BitVec 2) (id : BitVec 4) (s : State) : Out :=
  perform { ends := true, ok := barrierScope scope } s fun s =>
    if s.crew.reissue && s.crew.arrivals.getLsbD id.toNat then .wait s (.barrier id.toNat)
    else if s.barrierUse id.toNat scope.toNat then .trap (s.barrierTrap id.toNat)
    else
      match s.ordered (ord ||| 2#2) scope with
      | none => .unready
      | some s => .wait (s.arrive id.toNat scope.toNat) (.barrier id.toNat)

/-- BARARV: arrive and go on. -/
def execBararv (scope : BitVec 3) (ord : BitVec 2) (id : BitVec 4) (s : State) : Out :=
  perform { ends := true, ok := barrierScope scope } s fun s =>
    if s.barrierUse id.toNat scope.toNat then .trap (s.barrierTrap id.toNat)
    else
      match s.ordered (ord ||| 2#2) scope with
      | none => .unready
      | some s => .done (s.arrive id.toNat scope.toNat)

/-- BARWT: wait for the phase of the crew's arrival; none outstanding completes at once. -/
def execBarwt (scope : BitVec 3) (_ord : BitVec 2) (id : BitVec 4) (s : State) : Out :=
  perform { ends := true, ok := barrierScope scope } s fun s =>
    if s.crew.arrivals.getLsbD id.toNat then .wait s (.barrier id.toNat) else .done s

/-- The bound team slots of a launch. -/
def State.slotsOf (s : State) (launch : Nat) : List Nat :=
  (s.teams.filter fun e => e.2.launch == launch).map (·.1)

/-- Every crew of a team slot that has a live lane has arrived. -/
def State.teamArrived (s : State) (slot : Nat) (p : Phase) : Bool :=
  (List.range (s.teamAt slot).ncrew).all fun c =>
    (s.crewAt (16 * slot + c)).live == 0 || p.arrived.contains (s.party (16 * slot + c))

/-- The team slots whose crews take part in a phase; none while a team of the launch is not bound. -/
def State.participants (s : State) (launch : Nat) (p : Phase) : Option (List Nat) :=
  let l := s.launchAt launch
  let all := s.slotsOf launch
  if p.scope = 1 then
    match all.filter fun t => (s.teamAt t).teamid == p.inst with
    | [] => none
    | ts => some ts
  else if all.length ≠ (s.teamAt (all.headD 0)).nteams - l.retired then none
  else some (if p.scope = 3 then all.filter fun t => dieOf t == p.inst else all)

/-- A phase is complete (R42). -/
def State.phaseDone (s : State) (launch : Nat) (p : Phase) : Bool :=
  match s.participants launch p with
  | none => false
  | some ts => ts.all fun t => s.teamArrived t p

/-- A crew that arrived at a completed phase: its bit is cleared, and its wait on the identifier ends. -/
def State.releaseCrew (s : State) (k id : Nat) : State :=
  let c := s.crewAt k
  let s1 := s.setCrewAt k { c with arrivals := c.arrivals &&& ~~~BitVec.ofNat 16 (2 ^ id) }
  match c.block with
  | some (.barrier i) => if i = id then ((s1.at_ k).unblock 2).at_ s.cur else s1
  | _ => s1

/-- BARRIER_RELEASE (R43): a complete phase of a launch, by its place among the open ones, releases its waiting crews. -/
def execBarrierRelease (launch phase : Nat) (s : State) : Out :=
  let l := s.launchAt launch
  match l.phases[phase]? with
  | none => .refused (.notEnabled "BARRIER_RELEASE")
  | some p =>
    if !s.phaseDone launch p then .refused (.notEnabled "BARRIER_RELEASE")
    else
      let s1 := s.setLaunchAt launch { l with phases := l.phases.eraseIdx phase }
      .next ((s.slotsOf launch).foldl (fun s t =>
        (List.range (s.teamAt t).ncrew).foldl (fun s c =>
          if p.arrived.contains (s.party (16 * t + c)) then s.releaseCrew (16 * t + c) p.id else s) s) s1)

/-! Queues. -/

/-- The hardware queue of a logical queue of the team of a slot. -/
def State.hwOf (s : State) (slot q : Nat) : Option (Nat × HwQueue) :=
  match (s.teamAt slot).qmaps.find? fun m => m.logical == q with
  | none => none
  | some m => (lookup (s.clusterAt (clusterOf slot)).hwq m.hw).map fun h => (m.hw, h)

def State.setHw (s : State) (slot hw : Nat) (h : HwQueue) : State :=
  let c := s.clusterAt (clusterOf slot)
  s.setClusterAt (clusterOf slot) { c with hwq := insert c.hwq hw h }

/-- A crew waits to push into, or to pop from, a hardware queue of a cluster. -/
def State.waitsOn (s : State) (k cl hw : Nat) (push : Bool) : Bool :=
  clusterOf (slotOf k) == cl && (s.crewAt k).bound && (match (s.crewAt k).block with
    | some (.qpush q _) => push && (s.hwOf (slotOf k) q).any (·.1 == hw)
    | some (.qpop q _) => !push && (s.hwOf (slotOf k) q).any (·.1 == hw)
    | _ => false)

/-- Crew k is the next whose request a queue takes (R45). Of crews that are blocked since different cycles R45 does not say which goes
first: the model takes the lowest core, then CREWID, so that a later request can overtake (the model's choice; log entry 96). -/
def State.firstInQueue (s : State) (k hw : Nat) (push : Bool) : Bool :=
  s.crews.all fun e => e.1 == k || !decide (requestOrder e.1 < requestOrder k) || !s.waitsOn e.1 (clusterOf (slotOf k)) hw push

/-- Take a unit of allowance, write the handle at the tail and publish it, in one step (R45). -/
def State.push (s : State) (slot hw : Nat) (h : HwQueue) (v : DWord) : State :=
  let p := s.partAt slot h.level
  let p1 := p.write (h.offset + 8 * ((h.head + h.count) % h.cap)) (bytesOf 8 v.toNat)
  (s.setPartAt slot h.level p1).setHw slot hw { h with count := h.count + 1 }

/-- Remove the head entry: the bytes that stand there (R252). -/
def State.pop (s : State) (slot hw : Nat) (h : HwQueue) : State × DWord :=
  let v := dw (natOf ((s.partAt slot h.level).read (h.offset + 8 * h.head) 8))
  (s.setHw slot hw { h with head := (h.head + 1) % h.cap, count := h.count - 1 }, v)

/-- A queue instruction's access to its entry: it has no extension word, and takes its stream from STRMDEF (R68). -/
def State.queueAcc (s : State) (push : Bool) : Acc :=
  { seq := s.fresh, rd := !push, wr := push, strm := field s.crew.strmdef.toNat 0 4 }

/-- QPUSH: a release at TEAM or CLUSTER scope, by the level of its queue (R45). -/
def execQpush (a b : BitVec 8) (s : State) : Out :=
  let slot := slotOf s.cur
  perform { srcs := [a], ends := true, words := 1
            ok := isUniform a && decide (b.toNat < 32) && (s.hwOf slot b.toNat).isSome } s fun s =>
    match s.hwOf slot b.toNat with
    | none => .trap s.illegalOperand
    | some (hw, h) =>
      let v := s.uni a
      match (s.ordered 2#2 (BitVec.ofNat 3 (h.level + 1))).bind (·.passing [s.queueAcc true]) with
      | none => .unready
      | some s =>
        if h.count < h.cap && s.firstInQueue s.cur hw true then .done (s.push slot hw h v)
        else .wait s (.qpush b.toNat v)

/-- QPOP. -/
def execQpop (d : BitVec 7) (b : BitVec 8) (s : State) : Out :=
  let slot := slotOf s.cur
  perform { ends := true, words := 1, ok := dS d && decide (b.toNat < 32) && (s.hwOf slot b.toNat).isSome } s fun s =>
    match s.hwOf slot b.toNat with
    | none => .trap s.illegalOperand
    | some (hw, h) =>
      match s.passing [s.queueAcc false] with
      | none => .unready
      | some s =>
        if 0 < h.count ∧ s.firstInQueue s.cur hw false then
          let (s1, v) := s.pop slot hw h
          .done (s1.setCrew (s1.crew.setS (sNum d) v))
        else .wait s (.qpop b.toNat (sNum d))

/-- QUEUE_SERVICE (R45): a blocked QPUSH or QPOP is served. -/
def execQueueService (crew : Nat) (s : State) : Out :=
  let slot := slotOf crew
  match (s.crewAt crew).block with
  | some (.qpush q v) =>
    match s.hwOf slot q with
    | some (hw, h) =>
      if h.count < h.cap && s.firstInQueue crew hw true then .next (((s.push slot hw h v).at_ crew).unblock 1)
      else .refused (.notEnabled "QUEUE_SERVICE")
    | none => .refused (.notEnabled "QUEUE_SERVICE")
  | some (.qpop q d) =>
    match s.hwOf slot q with
    | some (hw, h) =>
      if 0 < h.count ∧ s.firstInQueue crew hw false then
        let (s1, v) := s.pop slot hw h
        let s2 := s1.at_ crew
        .next ((s2.setCrew (s2.crew.setS d v)).unblock 1)
      else .refused (.notEnabled "QUEUE_SERVICE")
    | none => .refused (.notEnabled "QUEUE_SERVICE")
  | _ => .refused (.notEnabled "QUEUE_SERVICE")

/-! Events. -/

/-- One change of window win of the context's vector by a mask. -/
def eventChange (a : BitVec 8) (scope : BitVec 3) (ord : BitVec 2) (win : BitVec 2) (f : DWord → DWord → DWord)
    (s : State) : Out :=
  perform { srcs := [a], ends := true, ok := isUniform a && scopeOk scope } s fun s =>
    match s.ordered ord scope with
    | none => .unready
    | some s => .done (s.changeVector s.team.ctx fun v => setWindow v win.toNat (f (windowOf v win.toNat) (s.uni a)))

/-- EVSET. -/
def execEvset (a : BitVec 8) (scope : BitVec 3) (ord : BitVec 2) (win : BitVec 2) (s : State) : Out :=
  eventChange a scope ord win (fun x m => x ||| m) s

/-- EVCLR. -/
def execEvclr (a : BitVec 8) (scope : BitVec 3) (ord : BitVec 2) (win : BitVec 2) (s : State) : Out :=
  eventChange a scope ord win (fun x m => x &&& ~~~m) s

/-- EVWAIT: a mask of zero completes at once. -/
def execEvwait (a : BitVec 8) (scope : BitVec 3) (_ord : BitVec 2) (any : BitVec 1) (win : BitVec 2) (s : State) : Out :=
  perform { srcs := [a], ends := true, ok := isUniform a && scopeOk scope } s fun s =>
    let m := s.uni a
    if m == 0 || evMet (windowOf (s.vector s.team.ctx) win.toNat) m (any == 1#1) then .done s
    else .wait s (.evwait win.toNat m (any == 1#1))

end Sys2Proof.Machine
end

