-- ==== Sys2Proof/Machine/Save.lean ====
section
/-! DEFINITION. Pre-emption (R409 to R414): PREEMPT, the forced save, the save image of Tables 24.1 to 24.3 and RESTORE. -/
namespace Sys2Proof.Machine

/-! PREEMPT and the count. -/

/-- SLOT_PREEMPT (R331, R409): a BOUND entry becomes SAVING and the count of 2^20 cycles begins; otherwise no effect. -/
def execSlotPreempt (slot : Nat) (s : State) : Out :=
  let e := s.slotAt slot
  if e.op ≠ 3 then .refused (.notEnabled "SLOT_PREEMPT")
  else if e.st ≠ 1 then .next (s.setSlotAt slot { e with op := 0 })
  else
    .next ((s.setSlotAt slot { e with op := 0, st := 2 }).setTeamAt slot { s.teamAt slot with full := false, saveSince := s.clock, saving := true })

/-- SLOT_OP_RESERVED (R331): a reserved OP gives REFUSED and changes nothing else. -/
def execSlotOpReserved (slot : Nat) (s : State) : Out :=
  if 4 ≤ (s.slotAt slot).op then .next (s.slotRefuse slot 4 0) else .refused (.notEnabled "SLOT_OP_RESERVED")

/-- FORCED_SAVE_EXPIRY (R409): the count expires while some crew has not stopped. -/
def execForcedSaveExpiry (slot : Nat) (s : State) : Out :=
  let t := s.teamAt slot
  if s.teamSaves slot ∧ (lookup s.teams slot).isSome ∧ !t.full ∧ !s.othersStop slot none then
    .next ((s.passTo (t.saveSince + 2 ^ 20)).setTeamAt slot { t with full := true })
  else .refused (.notEnabled "FORCED_SAVE_EXPIRY")

/-! What a save writes (R410). -/

/-- What a crew writes: nothing, everything, or what its checkpoint record lists. -/
inductive Extent where
  | nothing
  | all
  | listed (r : Nat)
deriving DecidableEq, Repr

/-- The extent of a crew from its STATE and PC in Table 24.3 and the image's checkpoint records. -/
def extentOf (recs : List Nat) (st pc : Nat) : Extent :=
  if st = 4 then .nothing
  else if st = 0 then
    match recs.find? fun r => field r 0 32 + 4 == pc with
    | some r => .listed r
    | none => .all
  else .all

/-- A lane register of a crew is written. -/
def Extent.hasV (x : Extent) (j : Nat) : Bool :=
  match x with
  | .nothing => false
  | .all => true
  | .listed r => field r (64 + j) 1 == 1

/-- A tile of the team is written. -/
def hasTile (xs : List Extent) (j : Nat) : Bool :=
  xs.any fun x => match x with
    | .nothing => false
    | .all => true
    | .listed r => field r (192 + j) 1 == 1

/-- An accumulator of the team is written. -/
def hasAcc (xs : List Extent) (j : Nat) : Bool :=
  xs.any fun x => match x with
    | .nothing => false
    | .all => true
    | .listed r => field r (208 + j) 1 == 1

/-- A record lists a granule of a level's part (Table 6.10). -/
def listsGranule (r level g : Nat) : Bool :=
  (List.range 4).any fun j =>
    let w := field r (256 + 64 * j) 64
    let off := field w 32 32 / 16
    let len := field w 2 30
    decide (0 < len) && field w 0 2 == level && decide (off ≤ g) && decide (g < off + len)

/-- A granule of the core part is written: a range of some crew, or a core-level queue's bytes. -/
def hasCore (xs : List Extent) (queues : List (Nat × Nat)) (g : Nat) : Bool :=
  (xs.any fun x => match x with
    | .nothing => false
    | .all => true
    | .listed r => listsGranule r 0 g) || queues.any fun q => decide (q.1 / 16 ≤ g) && decide (g ≤ (q.1 + q.2 - 1) / 16)

/-- A granule of a cluster or die part is written: all of it unless every crew lists its ranges (R413). -/
def hasShared (xs : List Extent) (level g : Nat) : Bool :=
  xs.any fun x => match x with
    | .listed r => listsGranule r level g
    | _ => true

/-! Layout (Tables 24.1 and 24.2). -/

structure Layout where
  crews : Nat
  team : Nat
  tiles : Nat
  accs : Nat
  matrix : Nat
  queues : Nat
  tree : Nat
  core : Nat
  len : Nat
deriving DecidableEq, Repr

/-- Bytes of a crew record. -/
def recordSize (nvreg : Nat) : Nat := 1024 + 128 * nvreg

def up256 (n : Nat) : Nat := (n + 255) / 256 * 256

def layoutOf (ncrew nvreg ntile nacc cspb : Nat) (ttf : Bool) : Layout :=
  let team := up256 (256 + recordSize nvreg * ncrew)
  let tiles := team + 512
  let accs := tiles + 16384 * ntile
  let matrix := accs + 16384 * nacc
  let queues := matrix + 512
  let tree := queues + 16384
  let core := tree + (if ttf then 2304 else 0)
  { crews := 256, team := team, tiles := tiles, accs := accs, matrix := matrix, queues := queues, tree := tree, core := core
    len := core + cspb + cspb / 128 }

def Team.layout (t : Team) : Layout := layoutOf t.ncrew t.nvreg t.ntile t.nacc t.part.size t.ttf

/-! The save. -/

/-- STATE of a crew that stands at a stopping point (Table 24.3). -/
def State.crewState (s : State) (k : Nat) : Nat :=
  let s := s.at_ k
  let c := s.crew
  if s.liveMask == 0#32 then 4
  else
    match c.stop with
    | .atCkpt _ => 0
    | .replied => 3
    | .atTret => 1
    | .running =>
      match c.block with
      | some (.remap _ _) => 1
      | some _ => 2
      | none =>
        if s.blockedOnStatus || c.reissue then 2 else 1

/-- TRAPREP of a saved crew (Table 24.3): the repeat or operation at which it goes on (R162, R167, R172), else the register. -/
def Crew.savedRep (c : Crew) : DWord :=
  match c.run with
  | some (.rep i _) => dw i
  | some (.mcall op _) => dw (0x8000 + op * 256)
  | none => c.traprep

/-- The lanes of a blocked LDS or STS that have been served, with a load's data. -/
def Crew.servedLanes (c : Crew) : List (Nat × DWord) :=
  match c.block with
  | some (.granules g) =>
    (g.acc.filter fun a => !g.wait.contains (a.2 / 16)).map fun a => (a.1, (lookup g.data a.1).getD 0)
  | _ => c.served

/-- A crew of a team that leaves gives up the request that it has at a home here, which issues again after the restore (R414): a
delegation whose carrier was not accepted has its role back (R303; log entry 93). -/
def Crew.withdrawn (c : Crew) : Crew :=
  match c.block with
  | some (.conv r) => if r.op = 4 ∧ r.moved ≠ 0 then c.setRole r.rrp r.moved else c
  | _ => c

/-- The homes here forget the requests of a team's crews that they have not accepted. -/
def State.withdraw (s : State) (slot : Nat) : State :=
  { s with convs := s.convs.map fun e => (e.1, { e.2 with closing := e.2.closing.filter fun k => slotOf k != slot }) }

/-- The first 1,024 bytes of a crew record (Table 24.3). -/
def crewRecord (c : Crew) (st : Nat) : List Byte :=
  let served := c.servedLanes
  let mask := (maskOf (served.map (·.1))).toNat
  let words (ws : List DWord) : List Byte := ws.flatMap fun w => bytesOf 8 w.toNat
  bytesOf 8 (c.pc.toNat + st * 2 ^ 32) ++ bytesOf 8 (c.exm.toNat + c.live.toNat * 2 ^ 32) ++
    bytesOf 8 (c.arrivals.toNat + mask * 2 ^ 32) ++ bytesOf 8 0 ++
    words [c.fpcr, c.fpsr, c.psel, c.rxf, c.strmdef, c.trapcause, c.trappc, c.traplanes, c.trapaddr, c.savedRep, c.resumepc,
      c.getRole 0, c.getRole 1, c.getRole 2, c.getRole 3, 0] ++
    words ((List.range 32).map fun n => fget 0 c.sr n) ++ bytesOf 96 0 ++
    words ((List.range 32).map fun l => (lookup served l).getD 0) ++
    ((List.range 32).flatMap fun l => bytesOf 4 (fget 0 c.seed l).toNat) ++ bytesOf 128 0

/-- A lane register of a crew record. -/
def crewV (c : Crew) (j : Nat) : List Byte := (List.range 32).flatMap fun l => bytesOf 4 (fget 0 c.v (32 * j + l)).toNat

/-- The words of the queues of a level (Table 24.2): 4 j bytes in, the head slot and the entry count of logical queue j. -/
def State.queueWords (s : State) (slot level : Nat) : List Byte :=
  (List.range 32).flatMap fun j =>
    match s.hwOf slot j with
    | some (_, h) => bytesOf 4 (if h.level = level then h.head + h.count * 256 else 0)
    | none => bytesOf 4 0

/-- The team record. -/
def State.teamRecord (s : State) (slot : Nat) : List Byte :=
  let t := s.teamAt slot
  ((List.range 16).flatMap fun n => bytesOf 8 (fget 0 t.tc n).toNat) ++ bytesOf 8 t.tokhold.toNat ++
    bytesOf 8 (t.outstanding.length % 128 + (if t.batchCmds = 0 then 0 else 256)) ++ s.queueWords slot 0 ++ bytesOf 240 0

/-- A queued command's slot: its words, four operands and three TC values. -/
def Cmd.saved (c : Cmd) : List Byte :=
  bytesOf 4 c.w.toNat ++ bytesOf 4 c.e.toNat ++ ((List.range 4).flatMap fun n => bytesOf 8 (c.ops.getD n 0).toNat) ++
    (List.range 3).flatMap fun n => bytesOf 8 (c.tcs.getD n 0).toNat

/-- The full-empty bits of the granules of a part from granule g on, 8 to a byte: 1 is full. -/
def Part.fullBits (p : Part) (written : Nat → Bool) (n : Nat) : List Byte :=
  (List.range n).map fun b =>
    BitVec.ofNat 8 (((List.range 8).map fun j => if written (8 * b + j) && p.isEmpty (8 * b + j) then 0 else 2 ^ j).sum)

/-- The core-level queues of a team slot: offset and bytes. -/
def State.coreQueues (s : State) (slot : Nat) : List (Nat × Nat) :=
  (s.teamAt slot).qmaps.filterMap fun m =>
    match s.hwOf slot m.logical with
    | some (_, h) => if h.level = 0 then some (h.offset, 8 * h.cap) else none
    | none => none

/-- A matrix operation of the list stands between two of its steps and has part of its sum in an accumulator, which is saved
whatever the crews' records list (R411). -/
def partial_ (ms : List MatOp) (j : Nat) : Bool := ms.any fun m => m.step != 0 && (accsOf (fieldD m.w) m.tcs).contains (16 + j)

/-- The pieces of a save image: offset and bytes. -/
def State.savePieces (s : State) (slot : Nat) (xs : List Extent) (lpaddr dpaddr : Nat) : List (Nat × List Byte) :=
  let t := s.teamAt slot
  let y := t.layout
  let header := bytesOf 4 0x45564153 ++ bytesOf 4 ((if t.full then 1 else 0) + (if t.ttf then 2 else 0)) ++ bytesOf 4 t.ncrew ++
    bytesOf 21 0 ++ bytesOf 3 t.teamid ++ bytesOf 4 y.len ++ bytesOf 8 t.lrec.toNat ++ bytesOf 8 lpaddr ++ bytesOf 8 dpaddr ++
    bytesOf 192 0
  let crews := (List.range t.ncrew).flatMap fun k =>
    let c := (s.crewAt (16 * slot + k)).withdrawn
    let at_ := y.crews + recordSize t.nvreg * k
    (at_, crewRecord c (s.crewState (16 * slot + k))) ::
      (((List.range t.nvreg).filter (xs.getD k .all).hasV).map fun j => (at_ + 1024 + 128 * j, crewV c j))
  let tiles := ((List.range t.ntile).filter (hasTile xs)).map fun j => (y.tiles + 16384 * j, fgetRun 0 t.tiles (16384 * j) 16384)
  let accs := ((List.range t.nacc).filter fun j => hasAcc xs j || partial_ t.matrix j).map fun j =>
    (y.accs + 16384 * j, (fgetRun 0 t.acc (4096 * j) 4096).flatMap fun w => bytesOf 4 w.toNat)
  let matrix := (List.range 32).flatMap fun n =>
    match t.matrix[n]? with
    | some m => bytesOf 4 m.w.toNat ++ bytesOf 4 m.e.toNat ++ bytesOf 8 (m.step % 64)
    | none => bytesOf 16 0
  let queues := (List.range 8).flatMap fun q => (List.range 32).flatMap fun n =>
    match (t.queue q)[n]? with
    | some c => c.saved
    | none => bytesOf 64 0
  let tree := ((List.range 256).flatMap fun n => bytesOf 8 (fget 0 t.tree n).toNat) ++
    bytesOf 8 (t.count % 512 + t.rootpos.toNat * 2 ^ 32) ++ bytesOf 248 0
  let has := hasCore xs (s.coreQueues slot)
  let core := ((List.range (t.part.size / 16)).filter has).map fun g => (y.core + 16 * g, t.part.read (16 * g) 16)
  [(0, header)] ++ crews ++ [(y.team, s.teamRecord slot)] ++ tiles ++ accs ++ [(y.matrix, matrix), (y.queues, queues)] ++
    (if t.ttf then [(y.tree, tree)] else []) ++ core ++ [(y.core + t.part.size, t.part.fullBits has (t.part.size / 128))]

/-- The image of a cluster part or die part that the save frees (R413). -/
def State.sharedPieces (s : State) (slot level : Nat) (xs : List Extent) : List (Nat × List Byte) :=
  let p := s.partAt slot level
  let has := hasShared xs level
  (((List.range (p.size / 16)).filter has).map fun g => (16 * g, p.read (16 * g) 16)) ++
    [(p.size, p.fullBits has (p.size / 128))] ++
    (if level = 1 then [(p.size + p.size / 128, bytesOf 144 0 ++ s.queueWords slot 1 ++ bytesOf 240 0)] else [])

/-- Write pieces at a base. -/
def State.writeAll (s : State) (base : Nat) (ps : List (Nat × List Byte)) : State :=
  ps.foldl (fun s p => s.writeMem (base + p.1) p.2) s

/-- The page-aligned base that Almanac takes for n bytes of a save (R412, log entry 22), never the page at 0, which in LPADDR and
DPADDR stands for no image (R413). -/
def saveBase (fresh k n : Nat) : Nat := 4096 * (1 + Config.savePage fresh k % (memTop / 4096 - (n + 4095) / 4096 - 1))

/-- A send and a receive of a team are to be matched, or a crew of it and another exchange: what is performed whole before either
crew is saved (R207). -/
def State.matchDue (s : State) (slot : Nat) : Bool :=
  let due (o : Out) : Bool := match o with
    | .refused _ => false
    | _ => true
  (List.range (s.teamAt slot).ncrew).any fun c => match (s.crewAt (16 * slot + c)).block with
    | some (.rvsend sl _ _) => due (execRendezvousMatch slot sl s)
    | some (.xchgx ch _ _ _) => due (execXchgxPair (s.teamAt slot).launch ch s)
    | _ => false

/-- A request to a home on another device for a message that its crew still waits for: the crew is saved blocked and issues it
again (R411, R414; log entry 93). -/
def State.awaitsMessage (s : State) (r : FabReq) : Bool :=
  r.kind == 7 && (match (s.crewAt r.crew).block with
    | some (.cvrecv _ _ _ _) => true
    | _ => false)

/-- The engines, the matrix unit, the outstanding accesses and the matches of a team let its save complete (R207, R312, R411). -/
def State.quiet (s : State) (slot : Nat) : Bool :=
  let t := s.teamAt slot
  (t.cmds.all fun c => match c.run with
    | .waiting => c.cow.isNone
    | .remap r => c.cow.isNone && !r.mid
    | _ => false) &&
    (List.range t.ncrew).all (fun c => (s.crewAt (16 * slot + c)).pend.isEmpty && (s.crewAt (16 * slot + c)).loads.isEmpty && (match (s.crewAt (16 * slot + c)).block with
      | some (.parked _) => false
      | _ => true)) &&
    !(s.fabric.any fun r => slotOf r.2.crew == slot && !s.awaitsMessage r.2) && !s.matchDue slot

/-- The granules that the save of a team reads are not poisoned: of its core part, and of the cluster part and the die part that it
frees. -/
def State.saveClean (s : State) (slot : Nat) (xs : List Extent) (cl die : Bool) : Bool :=
  ((s.teamAt slot).part.poison.all fun e => !hasCore xs (s.coreQueues slot) e.1) &&
    (!cl || (s.partAt slot 1).poison.all fun e => !hasShared xs 1 e.1) && (!die || (s.partAt slot 2).poison.all fun e => !hasShared xs 2 e.1)

/-- What Almanac keeps of the team. -/
def State.savedOf (s : State) (slot : Nat) : Saved :=
  let t := s.teamAt slot
  { addr := (s.slotAt slot).saveaddr, order := s.fresh
    cmds := (List.range 8).flatMap fun q => (t.queue q).map fun c => (c.crew % 16, c.d, c.batch, c.issue)
    matrix := t.matrix.map fun m => (m.issue, m.tcs)
    batch := t.batch, batchCmds := t.batchCmds, outstanding := t.outstanding, issues := t.issues
    irqs := (List.range t.ncrew).filter fun c => (s.crewAt (16 * slot + c)).irq
    fencedOff := t.fencedOff
    marks := (List.range 8).flatMap fun q => (t.queue q).map (·.poisonAt) }

/-- SAVE_COMPLETE (R410 to R413): every crew stands at a stopping point and nothing of the team is under way; the image is
written and the entry becomes SAVED. An image that does not lie in device memory is never written, so that its save never
completes (log entry 27). A save that meets a poisoned granule ends the team's domain (R432). -/
def execSaveComplete (slot : Nat) (s : State) : Out :=
  let e := s.slotAt slot
  let t := s.teamAt slot
  if !(s.teamSaves slot && (lookup s.teams slot).isSome && s.othersStop slot none && s.quiet slot && !s.teamDone slot &&
      decide (e.saveaddr.toNat + t.layout.len ≤ memTop)) then
    .refused (.notEnabled "SAVE_COMPLETE")
  else
    let recs := match (s.at_ (16 * slot)).image with
      | some i => s.sectionRecords t.ctx t.image.toNat (hCkpoff i.hdr.toNat) (hCkpcnt i.hdr.toNat) 64
      | none => []
    let xs := (List.range t.ncrew).map fun c => extentOf recs (s.crewState (16 * slot + c)) (s.crewAt (16 * slot + c)).pc.toNat
    let lastCl := !(s.teams.any fun x => x.1 != slot && x.2.launch == t.launch && clusterOf x.1 == clusterOf slot)
    let lastDie := !(s.teams.any fun x => x.1 != slot && x.2.launch == t.launch && dieOf x.1 == dieOf slot)
    if !s.saveClean slot xs lastCl lastDie then
      if s.ends.any fun d => d.ctx == t.ctx && d.fdom == t.fdom then .refused (.notEnabled "SAVE_COMPLETE")
      else .next { s with ends := s.ends ++ [{ ctx := t.ctx, fdom := t.fdom, crew := none, driver := false }] }
    else
      let base := e.saveaddr.toNat
      let lp := if lastCl && t.lspb != 0 then saveBase s.fresh 1 (t.lspb + t.lspb / 128 + 512) else 0
      let dp := if lastDie && t.dspb != 0 then saveBase s.fresh 2 (t.dspb + t.dspb / 128) else 0
      let s1 := s.writeAll base (s.savePieces slot xs lp dp)
      let s2 := if lp = 0 then s1 else s1.writeAll lp (s.sharedPieces slot 1 xs)
      let s3 := if dp = 0 then s2 else s2.writeAll dp (s.sharedPieces slot 2 xs)
      let l := s.launchAt t.launch
      let s4 := s3.setLaunchAt t.launch { l with saved := insert l.saved t.teamid (s.savedOf slot) }
      let s5 : State := { s4 with irqs := s4.irqs.map fun k => if slotOf k = slot then savedKey t.launch t.teamid (k % 16) else k }
      .next (((s5.withdraw slot).leave slot).slotTo slot 3 3 0)

/-! RESTORE (R414). -/

/-- A number of n bytes at an offset of the image. -/
def State.img (s : State) (base off n : Nat) : Nat := s.readNat (base + off) n

/-- A crew from its record; the reserved bits of its registers are read as zero, whatever the image holds (R4). -/
def State.restoreCrew (s : State) (at_ nvreg : Nat) (x : Extent) : Crew :=
  let st := field (s.img at_ 0 8) 32 3
  let w8 (off : Nat) : DWord := dw (s.img at_ off 8)
  let mask : BitVec 32 := w32 (s.img at_ 20 4)
  let c : Crew :=
    { bound := true, pc := w32 (s.img at_ 0 4), exm := w32 (s.img at_ 8 4)
      live := if st = 4 then 0 else w32 (s.img at_ 12 4), arrivals := BitVec.ofNat 16 (s.img at_ 16 2)
      fpcr := w8 32 &&& 7, fpsr := w8 40 &&& 0x1F, psel := w8 48 &&& 0x3F, rxf := w8 56 &&& 1, strmdef := w8 64 &&& 0xF, trapcause := w8 72 &&& 0xFFFF0000000001FF, trappc := w8 80
      traplanes := w8 88, trapaddr := w8 96, traprep := w8 104 &&& 0x9F3F, resumepc := w8 112
      cvrole := (List.range 4).foldl (fun m n => fset 0 m n (w8 (120 + 8 * n) &&& ~~~0xF8E00000#64)) []
      sr := (List.range 32).foldl (fun m n => fset 0 m n (w8 (160 + 8 * n))) []
      seed := (List.range 32).foldl (fun m l => fset 0 m l (w32 (s.img at_ (768 + 4 * l) 4))) []
      v := ((List.range nvreg).filter x.hasV).foldl (fun m j =>
        (List.range 32).foldl (fun m l => fset 0 m (32 * j + l) (w32 (s.img at_ (1024 + 128 * j + 4 * l) 4))) m) []
      resuming := true, reissue := st == 2
      served := if st = 2 then (lanesOf 32 mask).map fun l => (l, w8 (512 + 8 * l)) else [] }
  c

/-- The matrix list of the image. -/
def State.restoreMatrix (s : State) (base : Nat) (book : List (Nat × List DWord)) : List MatOp :=
  ((List.range 32).filter fun n => s.img base (16 * n) 4 != 0).map fun n =>
    { w := w32 (s.img base (16 * n) 4), e := w32 (s.img base (16 * n + 4) 4), tcs := (book.getD n (0, [])).2
      issue := (book.getD n (0, [])).1, step := s.img base (16 * n + 8) 4 % 64 }

/-- The commands of the image, each with its queue. -/
def State.restoreCmds (s : State) (base slot : Nat) (book : List (Nat × Nat × Nat × Nat)) (marks : List (Option Nat)) :
    List (Nat × Cmd) :=
  let places := ((List.range 256).filter fun n => s.img base (64 * n) 4 != 0)
  (List.range places.length).map fun i =>
    let n := places.getD i 0
    let at_ := base + 64 * n
    let w := w32 (s.img at_ 0 4)
    let b := book.getD i (0, fieldD w - 0x60, 0, 0)
    (n / 32, { w := w, e := w32 (s.img at_ 4 4), ops := (List.range 4).map fun j => dw (s.img at_ (8 + 8 * j) 8)
               tcs := (List.range 3).map fun j => dw (s.img at_ (40 + 8 * j) 8)
               crew := 16 * slot + b.1, d := b.2.1, batch := b.2.2.1, issue := b.2.2.2, poisonAt := marks.getD i none })

/-- A part from the image of its data and full-empty bits. -/
def State.restorePart (s : State) (base size : Nat) (has : Nat → Bool) : Part :=
  (List.range (size / 16)).foldl (fun (p : Part) g =>
    if has g then
      (p.write (16 * g) (s.readMem (base + 16 * g) 16)).setEmpty [g] (field (s.img base (size + g / 8) 1) (g % 8) 1 == 0)
    else p) { size := size }

/-- The head and count words of the queues of a level are loaded. -/
def State.restoreQueues (s : State) (slot level base : Nat) : State :=
  (s.teamAt slot).qmaps.foldl (fun s m =>
    match s.hwOf slot m.logical with
    | some (hw, h) =>
      if h.level = level then
        let w := s.img base (4 * m.logical) 4
        s.setHw slot hw { h with head := field w 0 8, count := field w 8 9 }
      else s
    | none => s) s

/-- The open phases of a launch once a team is restored on a die: its arrivals at DIE scope stand in the phase of the die that it
is on now (R42; log entry 90). -/
def rehome (ps : List Phase) (teamid die : Nat) : List Phase :=
  let mine (a : Nat) : Bool := a / 16 == teamid
  let moved := (ps.filter fun p => p.scope == 3 && p.inst != die && p.arrived.any mine).map fun p => (p.id, p.arrived.filter mine)
  let kept := (ps.map fun p => if p.scope == 3 && p.inst != die then { p with arrived := p.arrived.filter fun a => !mine a } else p).filter
    fun p => p.scope != 3 || !p.arrived.isEmpty
  moved.foldl (fun ps m =>
    let same (p : Phase) : Bool := p.id == m.1 && p.scope == 3 && p.inst == die
    if ps.any same then ps.map fun p => if same p then { p with arrived := p.arrived ++ m.2 } else p
    else ps ++ [{ id := m.1, scope := 3, inst := die, arrived := m.2 }]) kept

/-- SLOT_RESTORE (R414): the entry's RESTORE command. Where the image does not lie in device memory no MAGIC is found (log
entry 27). -/
def execSlotRestore (slot : Nat) (s : State) : Out :=
  let e := s.slotAt slot
  if e.op ≠ 2 then .refused (.notEnabled "SLOT_RESTORE")
  else
    match s.bindCheck slot with
    | .error (code, reason) => .next (s.bindRefused slot code reason)
    | .ok (l, i) =>
      let base := e.saveaddr.toNat
      let h := i.hdr.toNat
      let y := layoutOf l.ncrew l.nvreg l.ntile l.nacc l.cspb l.ttf
      if memTop < base + y.len then .next (s.slotRefuse slot 4 0)
      else if s.img base 0 4 ≠ 0x45564153 ∨ s.img base 8 4 ≠ l.ncrew ∨ dw (s.img base 40 8) ≠ e.lrec ∨ s.img base 33 3 ≠ e.teamid then
        .next (s.slotRefuse slot 4 0)
      else
        let book : Saved := (lookup l.saved e.teamid).getD {}
        let recs := s.sectionRecords l.ctx l.imageVa (hCkpoff h) (hCkpcnt h) 64
        let at_ (c : Nat) : Nat := base + y.crews + recordSize l.nvreg * c
        let xs := (List.range l.ncrew).map fun c => extentOf recs (field (s.img (at_ c) 4 4) 0 3) (s.img (at_ c) 0 4)
        let qs := s.queueRecords l h
        let has := hasCore xs ((qs.filter fun r => qLevel r == 0).map fun r => (qOffset r, 8 * qCap r))
        let cmds := s.restoreCmds (base + y.queues) slot book.cmds book.marks
        let t0 := s.newTeam e l h
        let ms := s.restoreMatrix (base + y.matrix) book.matrix
        let t1 : Team := { t0 with
          tiles := ((List.range l.ntile).filter (hasTile xs)).foldl (fun m j =>
            fsetRun 0 m (16384 * j) (s.readMem (base + y.tiles + 16384 * j) 16384)) []
          acc := ((List.range l.nacc).filter fun j => hasAcc xs j || partial_ ms j).foldl (fun m j =>
            fsetRun 0 m (4096 * j) ((List.range 4096).map fun w => w32 (s.img base (y.accs + 16384 * j + 4 * w) 4))) []
          tc := (List.range 16).foldl (fun m n => fset 0 m n (dw (s.img base (y.team + 8 * n) 8) &&& ~~~tcReserved)) []
          tokhold := BitVec.ofNat 8 (s.img base (y.team + 128) 1)
          part := s.restorePart (base + y.core) l.cspb has
          matrix := ms
          batch := book.batch, batchCmds := book.batchCmds, outstanding := book.outstanding, issues := book.issues
          tree := if l.ttf then (List.range 256).foldl (fun m n => fset 0 m n (dw (s.img base (y.tree + 8 * n) 8))) [] else []
          count := if l.ttf then s.img base (y.tree + 2048) 2 % 512 else 0
          rootpos := if l.ttf then w32 (s.img base (y.tree + 2052) 4) else 0 }
        let t2 := cmds.foldl (fun (t : Team) c => t.setQueue c.1 (t.queue c.1 ++ [c.2])) t1
        let lp := s.img base 48 8
        let dp := s.img base 56 8
        let newCl := (lookup s.parts (partKey e.launch 1 (clusterOf slot))).isNone
        let newDie := (lookup s.parts (partKey e.launch 2 (dieOf slot))).isNone
        let s1 := (((s.giveImage (clusterOf slot) i).setTeamAt slot t2).givePart e.launch 1 (clusterOf slot) l.lspb).givePart
          e.launch 2 (dieOf slot) l.dspb
        let s2 := (s1.mapQueues slot e qs).restoreQueues slot 0 (base + y.team + 144)
        let fits (a n : Nat) : Bool := a != 0 && decide (a + n ≤ memTop)
        let s3 := if newCl && fits lp (l.lspb + l.lspb / 128 + 512) then
            (s2.setPartAt slot 1 (s.restorePart lp l.lspb (hasShared xs 1))).restoreQueues slot 1 (lp + l.lspb + l.lspb / 128 + 144)
          else s2
        let s4 := if newDie && fits dp (l.dspb + l.dspb / 128) then s3.setPartAt slot 2 (s.restorePart dp l.dspb (hasShared xs 2)) else s3
        let s5 := (List.range l.ncrew).foldl (fun s0 c =>
          let k := 16 * slot + c
          let crew := s.restoreCrew (at_ c) l.nvreg (xs.getD c .all)
          s0.setCrewAt k { crew with
            pendS := (((cmds.filter fun m => m.2.crew == k).map fun m => (m.2.issue, m.2.d)).eraseDups).map (·.2), irq := book.irqs.contains c }) s4
        let s6 := s5.setLaunchAt e.launch { l with saved := erase l.saved e.teamid, phases := rehome l.phases e.teamid (dieOf slot) }
        let back (k : Nat) : Nat := ((List.range 16).find? fun c => k == savedKey e.launch e.teamid c).elim k fun c => 16 * slot + c
        .next (({ s6 with irqs := s6.irqs.map back }).slotTo slot 1 1 0)

end Sys2Proof.Machine
end

