-- ==== Sys2Proof/Machine/Almanac.lean ====
section
/-! DEFINITION. Almanac (R329, R333, R34, R41, R415): the region tree (R28, R29), the limits of a launch (R27), budgets
(R30), placement, and what it writes into the slot table; fencing (R22, R432). -/
namespace Sys2Proof.Machine

/-! The limits of a launch (R27). -/

/-- The queues of an image lie within the parts (R27, R44). -/
def queuesWithin (l : Launch) (rs : List Nat) : Bool :=
  rs.all fun r => decide (qOffset r + 8 * qCap r ≤ (if qLevel r = 0 then l.cspb else l.lspb))

/-- The fields of a record within Table 2.1. -/
def Launch.fieldsOk (l : Launch) : Bool :=
  l.imageVa % 256 == 0 && decide (1 ≤ l.nteams) && decide (l.nteams ≤ 16777216) &&
    l.cspb % 1024 == 0 && decide (l.cspb ≤ 393216) && l.lspb % 1024 == 0 && decide (l.lspb ≤ 6291456) &&
    l.dspb % 1024 == 0 && decide (l.dspb ≤ 67108864) && decide (l.nacc ≤ 8) && decide (l.ntile ≤ 16) &&
    l.nvreg % 8 == 0 && decide (8 ≤ l.nvreg) && decide (l.nvreg ≤ 96)

/-- What the image asks of the record (R146, R50, R44), once its header is one that dispatch accepts. -/
def State.imageAsks (s : State) (l : Launch) : Bool :=
  match s.imageSpan noCluster l.ctx false l.imageVa 256 with
  | .error _ => true
  | .ok h =>
    !(headerOk h && headerLimits h) ||
      (decide (hMinvreg h ≤ l.nvreg) && decide (hMintile h ≤ l.ntile) && decide (hMinacc h ≤ l.nacc) &&
        (!hCompat h || decide (l.lastlanes ≤ 15)) && queuesWithin l (s.queueRecords l h))

/-- Cores that are not fenced (R22). -/
def State.coresLeft (s : State) : Nat := 768 - s.fenced.length

/-- The launch keeps R27 in a region with a chain. -/
def State.launchOk (s : State) (l : Launch) (c : List Nat) : Bool :=
  l.fieldsOk && s.imageAsks l &&
    (!l.coresident || decide (l.nteams ≤ 2 * ((tails c).foldl (fun m t => min m (effCores t)) s.coresLeft)))

/-! Budgets (R30). -/

/-- What a team holds of its region's budgets. -/
structure Holding where
  slot : Nat
  launch : Nat
  csp : Nat
  lsp : Nat
  dsp : Nat
  tiles : Nat
  accs : Nat
deriving DecidableEq, Repr

def Team.holding (t : Team) (slot : Nat) : Holding :=
  { slot := slot, launch := t.launch, csp := t.part.size / 1024, lsp := t.lspb / 1024, dsp := t.dspb / 1024, tiles := t.ntile, accs := t.nacc }

/-- The teams of a region's subtree. -/
def State.subtree (s : State) (ctx va : Nat) : List Holding :=
  (s.teams.filter fun e => e.2.ctx == ctx && (s.chainVas ctx 8 e.2.region.toNat).contains va).map fun e => e.2.holding e.1

/-- The sum of a part's size over the places where a launch holds one. -/
def shared (hs : List Holding) (place : Nat → Nat) (size : Holding → Nat) : Nat :=
  ((hs.foldl (fun (m : List ((Nat × Nat) × Nat)) h =>
    if m.any fun e => e.1 == (h.launch, place h.slot) then m else ((h.launch, place h.slot), size h) :: m) []).map (·.2)).sum

/-- Holdings within the effective budget of a region. -/
def withinBudget (hs : List Holding) (c : List Nat) : Bool :=
  decide ((distinct (hs.map fun h => coreOf h.slot)).length ≤ effCores c) &&
    decide ((hs.map (·.csp)).sum ≤ effective 224 32 1 c) && decide (shared hs clusterOf (·.lsp) ≤ effective 256 32 2 c) &&
    decide (shared hs dieOf (·.dsp) ≤ effective 288 32 3 c) && decide ((hs.map (·.tiles)).sum ≤ effective 336 16 4 c) &&
    decide ((hs.map (·.accs)).sum ≤ effective 352 16 5 c)

/-- Every budget from a region up to its context holds. -/
def State.budgetsOk (s : State) (ctx region : Nat) : Bool :=
  match s.chain ctx 8 region with
  | none => false
  | some c =>
    ((s.chainVas ctx 8 region).zip (tails c)).all fun e => withinBudget (s.subtree ctx e.1) e.2

/-- The parts of the launches fit the scratchpads of a slot's cluster and die, in pieces of 4 KiB (R54, R55). -/
def State.partsFit (s : State) (slot : Nat) : Bool :=
  let page (n : Nat) : Nat := (n + 4095) / 4096 * 4096
  let hs := s.teams.map fun e => e.2.holding e.1
  decide (shared (hs.filter fun h => clusterOf h.slot == clusterOf slot) clusterOf (fun h => page (1024 * h.lsp)) ≤ 6291456) &&
    decide (shared (hs.filter fun h => dieOf h.slot == dieOf slot) dieOf (fun h => page (1024 * h.dsp)) ≤ 67108864)

/-! Placement. -/

/-- The lowest base of n units, a multiple of a step, clear of the other slot's claim. -/
def lowestBase (step total n b2 n2 : Nat) : Option Nat :=
  [0, (b2 + n2 + step - 1) / step * step].find? fun b => rangeOk total b n b2 n2

/-- The queues of records mapped to free hardware queues of a cluster, a cluster-level queue to the one that its launch
has there: QMAP (R44). -/
def State.chooseQmap (s : State) (slot launch : Nat) (rs : List Nat) : Option (BitVec 160) :=
  let hwq := (s.clusterAt (clusterOf slot)).hwq
  let mates := s.teams.filter fun e => e.2.launch == launch && clusterOf e.1 == clusterOf slot
  (rs.foldl (fun (acc : Option (Nat × List Nat)) r =>
    match acc with
    | none => none
    | some (q, used) =>
      let shared? := if qLevel r = 1 then mates.findSome? fun e => (e.2.qmaps.find? fun m => m.logical == qNumber r).map (·.hw) else none
      match shared? with
      | some hw => some (q + hw * 2 ^ (5 * qNumber r), used)
      | none =>
        match (List.range 32).find? fun n => (lookup hwq n).isNone && !used.contains n with
        | some hw => some (q + hw * 2 ^ (5 * qNumber r), hw :: used)
        | none => none) (some (0, []))).map fun x => BitVec.ofNat 160 x.1

/-- The entry that binds or restores a team in a slot, if the slot is free and the claims, the queues, the image, the
parts and the budgets allow it (the core part at a multiple of 4 KiB, R55); with the state that the bind would leave, for the placement of further teams. An image
that fails reasons 1 to 5 is left to dispatch. With cores set, only what the core itself gives is asked for. -/
def State.placeAt (s : State) (launch teamid op saveaddr prio slot : Nat) (cores : Bool := false) : Option (Slot × State) :=
  let l := s.launchAt launch
  let old := s.slotAt slot
  if (lookup s.teams slot).isSome ∨ !([0, 3, 4].contains old.st) ∨ fget false s.fenced (coreOf slot) ∨ s.fencing.contains (coreOf slot) then none
  else
    let image? := s.imageFor (clusterOf slot) l
    let full := match image? with
      | .error r => r == 6
      | .ok _ => false
    if full && !cores then none
    else
      let h := match image? with
        | .ok i => i.hdr.toNat
        | .error _ => 0
      let rs := match image? with
        | .ok _ => s.queueRecords l h
        | .error _ => []
      let c := l.claim (hCompat h)
      let (f, d) := match lookup s.teams (otherSlot slot) with
        | some t => (s.slotAt (otherSlot slot), t.claim)
        | none => (({} : Slot), { crews := 0, rows := 0, csp := 0, tiles := 0, accs := 0 })
      match lowestBase 1 16 c.crews f.crewbase d.crews, lowestBase 1 192 c.rows f.vrbase d.rows, lowestBase 4 384 c.csp f.cspoff d.csp,
          lowestBase 1 16 c.tiles f.tilebase d.tiles, lowestBase 1 8 c.accs f.accbase d.accs, (if cores then some 0#160 else s.chooseQmap slot launch rs) with
      | some b1, some b2, some b3, some b4, some b5, some qm =>
        let e : Slot :=
          { saveaddr := dw saveaddr, lrec := l.lrec, rcb := l.region, teamid := teamid, vrbase := b2, cspoff := b3, tilebase := b4
            accbase := b5, crewbase := b1, qmap := qm, seq := s.fresh % 2 ^ 32, prio := prio, hold := l.coresident, st := old.st
            op := op, launch := launch }
        let s1 := ((s.setTeamAt slot (s.newTeam e l h)).setSlotAt slot e).mapQueues slot e rs
        let s2 := match image? with
          | .ok i => s1.giveImage (clusterOf slot) i
          | .error _ => s1
        if cores || (s2.budgetsOk l.ctx l.region.toNat && s2.partsFit slot) then some (e, s2) else none
      | _, _, _, _, _, _ => none

/-- The slots of a die in the order of R329: clusters that hold a team of the launch first. -/
def State.slotOrder (s : State) (launch : Nat) : List Nat :=
  (List.range 8).flatMap fun die =>
    let all := (List.range 192).map (192 * die + ·)
    let mate (k : Nat) : Bool := s.teams.any fun e => e.2.launch == launch && clusterOf e.1 == clusterOf k
    all.filter mate ++ all.filter fun k => !mate k

/-- The default place of a team (R329). A saved team does not go to a core that a higher-priority region holds (R415). -/
def State.placeTeam (s : State) (launch teamid op saveaddr prio : Nat) (cores : Bool := false) : Option (Nat × Slot × State) :=
  (s.slotOrder launch).findSome? fun k =>
    if op = 2 ∧ (lookup s.teams (otherSlot k)).isSome ∧ prio < (s.slotAt (otherSlot k)).prio then none
    else (s.placeAt launch teamid op saveaddr prio k cores).map fun x => (k, x)

/-- Places for several teams of a launch at once; none where one has none. -/
def State.placeAll (s : State) (launch op prio : Nat) (ts : List (Nat × Nat)) (cores : Bool := false) : Option (List (Nat × Slot)) :=
  match ts with
  | [] => some []
  | (teamid, saveaddr) :: more =>
    match s.placeTeam launch teamid op saveaddr prio cores with
    | none => none
    | some (k, e, s1) => (s1.placeAll launch op prio more cores).map ((k, e) :: ·)

/-- Write entries into the slot table. -/
def State.writeSlots (s : State) (es : List (Nat × Slot)) : State := es.foldl (fun s e => s.setSlotAt e.1 e.2) s

/-! What Almanac may do next. -/

/-- No command is on its way to dispatch. -/
def State.noOp (s : State) : Bool := s.slots.all fun e => e.2.op == 0

/-- The domain of a launch is not about to end. -/
def State.domainStands (s : State) (l : Launch) : Bool := !s.ends.any fun d => d.ctx == l.ctx && d.fdom == l.fdom

/-- The team of a launch that is bound next: one whose bind was refused, or the next TEAMID. -/
def Launch.nextTeam (l : Launch) : Option Nat :=
  match l.again with
  | t :: _ => some t
  | [] => if l.bound < l.nteams then some l.bound else none

def Launch.live (l : Launch) : Bool := l.read && l.eligible && !l.ended

/-- The effective priority of a launch's region. -/
def State.prioOf (s : State) (l : Launch) : Nat := ((s.chain l.ctx 8 l.region.toNat).map effPrio).getD 0

/-- The launch's turn has come in its region's queue: the first team of every earlier eligible launch has been bound
(R34), and no team of an earlier launch of the region is saved (R415). -/
def State.turn (s : State) (l : Launch) : Bool :=
  s.launches.all fun e =>
    let m := e.2
    !(m.ctx == l.ctx && m.region == l.region && decide (m.place < l.place)) || m.ended ||
      (m.saved.isEmpty && (decide (0 < l.bound) || !m.eligible || decide (m.again.length < m.bound)))

/-- The teams that a launch would have bound in one step. -/
def Launch.batch (l : Launch) : List (Nat × Nat) :=
  if l.coresident then (l.again ++ (List.range (l.nteams - l.bound)).map (l.bound + ·)).map (·, 0)
  else (l.nextTeam.map (·, 0)).toList

/-- The package without its bound teams of lower priority. -/
def State.without (s : State) (prio : Nat) : State :=
  ((s.slots.filter fun e => e.2.st == 1 && decide (e.2.prio < prio) && (lookup s.teams e.1).isSome).map (·.1)).foldl
    (fun s k => (s.leave k).setSlotAt k { s.slotAt k with st := 0, op := 0 }) s

/-- The saved team of a launch that is restored next, the one saved first. -/
def Launch.firstSaved (l : Launch) : Option (Nat × Saved) :=
  l.saved.foldl (fun m e => match m with
    | some x => if e.2.order < x.2.order then some e else some x
    | none => some e) none

/-- The teams that a launch would have restored in one step; a CORESIDENT launch whole, once every team of it has left (R415). -/
def Launch.restoreBatch (l : Launch) : List (Nat × Saved) :=
  if !l.coresident then l.firstSaved.toList else if l.saved.length + l.retired = l.nteams then l.saved else []

/-- Teams have no place on the cores as they stand, whatever the budgets and queues, and would have one, within the budgets, without the
teams of lower priority: their region needs cores (R41). Where only a budget or a hardware queue is lacking, they wait (R30). -/
def State.needsCores (s : State) (key op prio : Nat) (ts : List (Nat × Nat)) : Bool :=
  (s.placeAll key op prio ts true).isNone && ((s.without prio).placeAll key op prio ts).isSome

/-- A launch needs cores back (R41, R329): for teams to bind, or for saved teams that the fencing of a core drove off (R432). A team
that was pre-empted under R41 waits for free cores instead (R415). -/
def State.starving (s : State) (key : Nat) (l : Launch) : Bool :=
  let prio := s.prioOf l
  s.domainStands l && ((l.live && l.nextTeam.isSome && s.turn l && s.needsCores key 1 prio l.batch) ||
    (!l.ended && l.restoreBatch.any (·.2.fencedOff) && s.needsCores key 2 prio (l.restoreBatch.map fun e => (e.1, e.2.addr.toNat))))

/-- The team that is pre-empted first for a priority: the lowest priority, then the most recently bound (R329). -/
def State.victim (s : State) (prio : Nat) : Option Nat :=
  ((s.slots.filter fun e => e.2.st == 1 && decide (e.2.prio < prio) && (lookup s.teams e.1).isSome).foldl
    (fun (m : Option (Nat × Slot)) e => match m with
      | some x =>
        if e.2.prio < x.2.prio ∨ (e.2.prio = x.2.prio ∧ (s.teamAt x.1).boundAt < (s.teamAt e.1).boundAt) then some e else some x
      | none => some e) none).map (·.1)

/-- The slots that leave together: a CORESIDENT launch whole (R41). -/
def State.leavesWith (s : State) (slot : Nat) : List Nat :=
  if (s.teamAt slot).coresident then s.slotsOf (s.teamAt slot).launch else [slot]

/-- Write PREEMPT into entries, each with an image of its own. -/
def State.preempt (s : State) (ks : List Nat) : State :=
  ks.foldl (fun s k =>
    let e := s.slotAt k
    if e.st = 1 then s.setSlotAt k { e with op := 3, saveaddr := dw (saveBase s.fresh (3 + k) (s.teamAt k).layout.len) } else s) s

/-- The teams of slots leave for the fencing of a core (R432). -/
def State.driveOff (s : State) (ks : List Nat) : State :=
  ks.foldl (fun s k => s.setTeamAt k { s.teamAt k with fencedOff := true }) (s.preempt ks)

/-- Almanac reads a launch record: R27 is judged, and the launch becomes eligible when its condition holds already (R32). -/
def State.readLaunch (s : State) (key : Nat) : State :=
  let l := s.launchAt key
  let refuse (fdom : Nat) : State :=
    { s.setLaunchAt key { l with read := true, ended := true, fdom := fdom } with
      ends := s.ends ++ [{ ctx := l.ctx, fdom := fdom, crew := none, driver := false, launch := some key }] }
  match s.chain l.ctx 8 l.region.toNat with
  | none =>
    match s.rcb l.ctx l.region.toNat with
    | some r => refuse (field r 176 16)
    | none => s.setLaunchAt key { l with read := true, ended := true }
  | some c =>
    if !s.launchOk l c then refuse (effFdom c)
    else
      let v := s.vector l.ctx
      { s.setLaunchAt key { l with read := true, fdom := effFdom c, eligible := v &&& l.waitMask == l.waitMask } with
        vectors := insert s.vectors l.ctx v }

/-- ALMANAC_SCHEDULE (R34, R329): act 0 reads a launch; 1 binds its next team in a slot, or all teams of a CORESIDENT
launch; 2 pre-empts the team of a slot for a launch of higher priority; 3 restores a saved team in a slot, or all teams
of a CORESIDENT launch; 4 clears HOLD once a CORESIDENT launch is bound whole (R333). -/
def execAlmanacSchedule (act launch slot : Nat) (s : State) : Out :=
  let l := s.launchAt launch
  let no : Out := .refused (.notEnabled "ALMANAC_SCHEDULE")
  if (lookup s.launches launch).isNone || !s.noOp || l.ended then no
  else
    match act with
    | 0 => if l.read then no else .next (s.readLaunch launch)
    | 1 =>
      if !(l.live && s.turn l && s.domainStands l) then no
      else if l.coresident then
        match s.placeAll launch 1 (s.prioOf l) l.batch with
        | some (e :: es) => .next ((s.writeSlots (e :: es)).setLaunchAt launch { l with bound := l.nteams, again := [] })
        | _ => no
      else
        match l.nextTeam with
        | none => no
        | some t =>
          match s.placeAt launch t 1 0 (s.prioOf l) slot with
          | none => no
          | some (e, _) =>
            .next ((s.setSlotAt slot e).setLaunchAt launch
              (if l.again.isEmpty then { l with bound := l.bound + 1 } else { l with again := l.again.drop 1 }))
    | 2 =>
      if s.starving launch l && decide ((s.slotAt slot).prio < s.prioOf l) && (s.slotAt slot).st == 1 && (lookup s.teams slot).isSome &&
          s.slots.all (fun e => !s.teamSaves e.1) then
        .next (s.preempt (s.leavesWith slot))
      else no
    | 3 =>
      if l.saved.isEmpty || !s.domainStands l || s.launches.any (fun e => decide (s.prioOf l < s.prioOf e.2) && s.starving e.1 e.2) then no
      else if l.coresident then
        match s.placeAll launch 2 (s.prioOf l) (l.restoreBatch.map fun e => (e.1, e.2.addr.toNat)) with
        | some (e :: es) => .next (s.writeSlots (e :: es))
        | _ => no
      else
        match l.firstSaved with
        | none => no
        | some (t, b) =>
          match s.placeAt launch t 2 b.addr.toNat (s.prioOf l) slot with
          | none => no
          | some (e, _) =>
            if (lookup s.teams (otherSlot slot)).isSome ∧ s.prioOf l < (s.slotAt (otherSlot slot)).prio then no
            else .next (s.setSlotAt slot e)
    | 4 =>
      let ks := s.slotsOf launch
      if l.coresident && decide (ks.length + l.retired = l.nteams) && ks.all (fun k => (s.slotAt k).st == 1) &&
          ks.any (fun k => (s.slotAt k).hold) && s.domainStands l then
        .next (ks.foldl (fun s k => s.setSlotAt k { s.slotAt k with hold := false }) s)
      else no
    | _ => no

/-- SLOT_HOLD_UPDATE (R333): a write of word 0 with OP 0 changes HOLD and PRIO alone. Almanac clears HOLD of a
CORESIDENT launch only when every entry of it reads BOUND. -/
def execSlotHoldUpdate (slot : Nat) (hold : Bool) (prio : Nat) (s : State) : Out :=
  let e := s.slotAt slot
  let t := s.teamAt slot
  let whole := (s.slotsOf t.launch).length + (s.launchAt t.launch).retired == t.nteams &&
    (s.slotsOf t.launch).all fun k => (s.slotAt k).st == 1
  if 1536 ≤ slot ∨ 16 ≤ prio ∨ (!hold ∧ e.hold ∧ (lookup s.teams slot).isSome ∧ t.coresident ∧ !whole) then
    .refused (.notEnabled "SLOT_HOLD_UPDATE")
  else .next (s.setSlotAt slot (e.writeWord 0 (dw ((if hold then 2 ^ 19 else 0) + prio * 2 ^ 24))))

/-! Fencing (R22, R432). -/

/-- Both slots of a core without a team. -/
def State.coreIdle (s : State) (core : Nat) : Bool :=
  [2 * core, 2 * core + 1].all fun k => (lookup s.teams k).isNone && (s.slotAt k).op == 0

/-- A core is fenced: its entries read FENCED, and its bit of CFGCORE rises with vector 3. -/
def State.fenceCore (s : State) (core : Nat) : State :=
  let s1 := [2 * core, 2 * core + 1].foldl (fun s k => s.setSlotAt k { s.slotAt k with st := 5 }) s
  let off := 0x6100 + 8 * (core / 64)
  ({ s1 with fenced := fset false s1.fenced core true, fencing := s1.fencing.filter (· != core) }.setReg 0 off
    (s1.reg 0 off ||| dw (2 ^ (core % 64)))).raiseShared 3

/-- UNIT_FENCE (R432): a core classed as lastingly faulty. The classification is reported (R441) and its teams are
pre-empted; once the core stands idle it is fenced, and its teams are restored elsewhere. -/
def execUnitFence (core : Nat) (s : State) : Out :=
  if 768 ≤ core ∨ fget false s.fenced core then .refused (.notEnabled "UNIT_FENCE")
  else if s.fencing.contains core then
    if s.coreIdle core then .next (s.fenceCore core)
    else
      let ks := [2 * core, 2 * core + 1].filter fun k => (lookup s.teams k).isSome && (s.slotAt k).st == 1 && (s.slotAt k).op == 0
      if ks.isEmpty then .refused (.notEnabled "UNIT_FENCE") else .next (s.driveOff (ks.flatMap s.leavesWith))
  else .next (((({ s with fencing := s.fencing ++ [core] }).report 2 core 0 0 0 0 0 0).fireEquinox 4).tellBmc 4)

end Sys2Proof.Machine
end

