-- ==== Sys2Proof/Machine/Control.lean ====
section
/-! DEFINITION. Branches, calls, exits and the execution mask, REP and MCALL, traps, returns and checkpoints (spec/07
R162 to R167, spec/09 R220 to R232). -/
namespace Sys2Proof.Machine

/-- A branch target from its own PC (R220); none outside the text. -/
def State.branchTarget (s : State) (off : Int) : Option (BitVec 32) :=
  let t := (s.crew.pc.toNat : Int) + 4 * off
  if 0 ≤ t ∧ t < s.team.textsize then some (BitVec.ofNat 32 t.toNat) else none

/-- A computed target (R222). -/
def State.jumpTarget (s : State) (t : BitVec 32) : Option (BitVec 32) :=
  if t.toNat % 4 = 0 ∧ t.toNat < s.team.textsize then some t else none

/-- Go to a target, or trap (R220). -/
def State.jump (s : State) (t : Option (BitVec 32)) (s' : State) : Effect :=
  match t with
  | some pc => .goto s' pc
  | none => .trap s.illegalInstr

/-- BRA (R222). -/
def execBra (off : BitVec 24) (s : State) : Out :=
  perform { ends := true, words := 1 } s fun s => s.jump (s.branchTarget off.toInt) s

/-- CALL (R222): the link holds EXM and PC + 4. -/
def execCall (off : BitVec 24) (s : State) : Out :=
  perform { ends := true, words := 1, up := 1 } s fun s =>
    s.jump (s.branchTarget off.toInt) (s.putS false 0x7F#7 (s.actMask ++ (s.crew.pc + 4)))

/-- A conditional branch on an S register (R221, Table 9.7). -/
def branchIf (s : State) (d : BitVec 7) (imm : BitVec 16) (taken : State → DWord → Bool) : Out :=
  perform { ends := true, words := 1, ok := dS d } s fun s =>
    if taken s (s.crew.getS (sNum d)) then s.jump (s.branchTarget imm.toInt) s else .done s

def execBrz (d : BitVec 7) (imm : BitVec 16) (s : State) : Out := branchIf s d imm fun _ v => v == 0
def execBrnz (d : BitVec 7) (imm : BitVec 16) (s : State) : Out := branchIf s d imm fun _ v => v != 0
def execBrany (d : BitVec 7) (imm : BitVec 16) (s : State) : Out :=
  branchIf s d imm fun s v => v.setWidth 32 &&& s.actMask != 0
def execBrall (d : BitVec 7) (imm : BitVec 16) (s : State) : Out :=
  branchIf s d imm fun s v => v.setWidth 32 &&& s.actMask == s.actMask
def execBrnone (d : BitVec 7) (imm : BitVec 16) (s : State) : Out :=
  branchIf s d imm fun s v => v.setWidth 32 &&& s.actMask == 0

/-- LOOP (R221): the register falls by 1, and the branch is taken while it is not 0. -/
def execLoop (d : BitVec 7) (imm : BitVec 16) (s : State) : Out :=
  perform { ends := true, words := 1, up := 1, ok := dS d } s fun s =>
    let v := s.crew.getS (sNum d) - 1
    let s' := s.putS false d v
    if v != 0 then s.jump (s.branchTarget imm.toInt) s' else .done s'

/-- RET (R222). -/
def execRet (a : BitVec 8) (s : State) : Out :=
  perform { srcs := [a], ends := true, words := 1, ok := isUniform a } s fun s =>
    let v := s.uni a
    s.jump (s.jumpTarget (v.setWidth 32)) (s.setCrew { s.crew with exm := v.extractLsb' 32 32 &&& s.liveMask })

/-- JMPR (R222). -/
def execJmpr (nw : Bool) (d : BitVec 7) (a : BitVec 8) (s : State) : Out :=
  perform { srcs := [a], ends := true, words := 1, up := 1, ok := dS d && isUniform a } s fun s =>
    s.jump (s.jumpTarget ((s.uni a).setWidth 32)) (s.putS nw d ((s.crew.pc + 4).setWidth 64))

/-- EXIT (R223): the active lanes end; a crew without a live lane has retired, and its handler with it (R48, R406). -/
def execExit (s : State) : Out :=
  perform { ends := true, words := 1 } s fun s =>
    let c := s.crew
    let live := c.live &&& ~~~s.actMask
    let gone := live &&& BitVec.ofNat 32 (2 ^ s.width - 1) == 0
    let s1 := s.setCrew { c with live := live, exm := c.exm &&& live, inHandler := c.inHandler && !gone }
    .done (if gone then s1.dropIrq s.cur else s1)

/-- EXMAND and EXMSET (R224). -/
def execExmand (a : BitVec 8) (s : State) : Out :=
  perform { srcs := [a], ends := true, words := 1, ok := isUniform a } s fun s =>
    .done (s.setCrew { s.crew with exm := s.crew.exm &&& (s.uni a).setWidth 32 })
def execExmset (a : BitVec 8) (s : State) : Out :=
  perform { srcs := [a], ends := true, words := 1, ok := isUniform a } s fun s =>
    .done (s.setCrew { s.crew with exm := (s.uni a).setWidth 32 &&& s.liveMask })

/-- TRAP (R230): the software trap, with its resumption after it. -/
def execTrap (imm : BitVec 16) (s : State) : Out :=
  perform { ends := true, words := 1 } s fun s =>
    .final (s.takeTrap { code := 0x11, lanes := s.actMask, info := imm.toNat } s.crew.pc (s.crew.pc + 4) 0)

/-- A pre-emption request is pending for the crew's team (R331, R409). -/
def State.saving (s : State) : Bool := s.teamSaves (slotOf s.cur)

/-- TRET (R231): the return from the handler, at which a pre-emption that the handler has put off takes effect (R396); outside
one it is illegal. -/
def execTret (s : State) : Out :=
  perform { ends := true, words := 1 } s fun s =>
    if !s.crew.inHandler then .trap s.illegalInstr
    else
      let s1 := s.trapReturn
      .final (if s.saving then s1.setCrew { s1.crew with stop := .atTret } else s1)

/-- CKPT (R232): a crew of a team that is being pre-empted stops here, but not in its handler (R406). -/
def execCkpt (s : State) : Out :=
  perform { words := 1 } s fun s =>
    if s.saving && !s.crew.inHandler then .done (s.setCrew { s.crew.clearChain with stop := .atCkpt s.crew.pc }) else .done s

/-! REP (R162, R163, R226). -/

/-- The fields D, A and B of an opcode that name a register source or destination, of those a REP can step. The
second argument is E, which tells the two forms of MVTC apart. -/
def regFields (op : Nat) (e : Word) : Bool × Bool × Bool :=
  if op < 0x80 then
    let noD := [0x48, 0x51, 0x53, 0x55, 0x58].contains op
    let noA := [0x1F, 0x49].contains op
    let noB := (decide (0x12 ≤ op) && decide (op ≤ 0x14)) || (decide (0x1E ≤ op) && decide (op ≤ 0x26)) ||
      (decide (0x31 ≤ op) && decide (op ≤ 0x3A)) || [0x3D, 0x44, 0x45, 0x46, 0x48, 0x49, 0x4A, 0x50, 0x52, 0x64, 0x66].contains op
    (!noD, !noA, !noB)
  else if op = 0x97 then (e.getLsbD 0, !e.getLsbD 0, false)
  else
    let d := (decide (0x81 ≤ op) && decide (op ≤ 0x96)) ||
      [0xB3, 0xBD, 0xBF, 0xD0, 0xD1, 0xD6, 0xD8, 0xD9, 0xDA, 0xE0, 0xE1, 0xE2, 0xE3, 0xE4, 0xE7, 0xE8, 0xF0, 0xF3,
        0xF9, 0xFB, 0xFC].contains op
    let a := (decide (0x81 ≤ op) && decide (op ≤ 0x8F)) ||
      [0x94, 0xB3, 0xBC, 0xBE, 0xC0, 0xC1, 0xC2, 0xD0, 0xD1, 0xD6, 0xD7, 0xD8, 0xD9, 0xDA, 0xE0, 0xE1, 0xE2, 0xE3, 0xE4, 0xF0,
        0xF1, 0xF2, 0xF3, 0xF8, 0xF9, 0xFA, 0xFB, 0xFC].contains op
    let b := (decide (0x81 ≤ op) && decide (op ≤ 0x8B)) ||
      [0x94, 0xE0, 0xE1, 0xE2, 0xE4, 0xF2, 0xF9].contains op
    (d, a, b)

/-- An opcode that REP does not repeat (R163): REP, MCALL, CKPT, YIELD and the S-set opcodes 0x20 to 0x2E. -/
def notRepeated (op : Nat) : Bool := (decide (0xA0 ≤ op) && decide (op ≤ 0xB2))

/-- A stepped field names a register, with a code V0 to V95 or S0 to S31 (R163). -/
def stepOk (on reg : Bool) (code : Nat) : Bool := !on || (reg && decide (code < 0x80))

/-- REP (R226): the checks, then the unit begins with no repeat performed; a resumed REP starts at RIDX, and past its
last repeat it ends at once. A target, or an operation of an MCALL, is an unassigned encoding of R163 where its words decode to nothing,
also for a reserved bit or an NW = 1 without a push, and REP or MCALL itself traps before any repeat (the model's choice; log entry
105). -/
def execRep (cnt : BitVec 6) (sd sa sb : BitVec 1) (_str : BitVec 2) (s0 : State) : Out :=
  perform { words := 1 } s0 fun s =>
    let pc := s.crew.pc.toNat
    let w2 := s.textWord (pc + 8)
    match s.textWord (pc + 4) with
    | none => .trap s.illegalInstr
    | some w =>
      match decode (some w) w2 with
      | .error _ => .trap s.illegalInstr
      | .ok (_, len) =>
        let op := field w.toNat 24 8
        let e := w2.getD 0
        let (rd, ra, rb) := regFields op e
        let b := if field w.toNat 0 8 = 0x8F ∧ bInE op then field e.toNat 0 8 else field w.toNat 0 8
        if notRepeated op then .trap s.illegalInstr
        else if !(stepOk (sd == 1#1) rd (field w.toNat 16 7) && stepOk (sa == 1#1) ra (field w.toNat 8 8) &&
            stepOk (sb == 1#1) rb b) then .trap s.illegalOperand
        else
          let i := if s0.crew.resuming then field s0.crew.traprep.toNat 0 6 else 0
          if cnt.toNat < i then
            .final (s.setCrew { s.crew.clearCounts with pc := s.crew.pc + BitVec.ofNat 32 (4 + 4 * len) })
          else .final (s.setCrew { s.crew.clearCounts with run := some (.rep i cnt.toNat) })

/-! MCALL (R164 to R167, R227). -/

/-- A field holding k is replaced by the code P + k: the code stays in P's kind, and a V code below NVREG (R167). -/
def State.substOk (s : State) (marked : Bool) (p k : Nat) : Bool :=
  !marked || (match stepCode p k with
    | some c => decide (0x60 ≤ c) || s.vOk c
    | none => false)

/-- Every marked register field of an entry is within bounds: words from k on. -/
def State.marksOk (s : State) (p : Nat) : List Word → List Byte → Bool
  | [], _ => true
  | w :: ws, ms =>
    let m := ms.headD 0
    s.substOk (m.getLsbD 0) p (field w.toNat 16 7) && s.substOk (m.getLsbD 1) p (field w.toNat 8 8) &&
      s.substOk (m.getLsbD 2) p (field w.toNat 0 8) && s.substOk (m.getLsbD 3) p (field w.toNat 24 8) &&
      s.marksOk p ws (ms.drop 1)

/-- The operations of an entry are instructions that MCALL may issue (R167), from the front of the list. -/
def opsOk (p imm : Nat) : Nat → List Word → List Byte → Bool
  | 0, _, _ => true
  | _, [], _ => true
  | n + 1, w :: ws, ms =>
    let w1 := substFirst p imm (ms.headD 0) w
    match decode (some w1) (ws.head?.map (substExt p imm ((ms.drop 1).headD 0))) with
    | .error _ => false
    | .ok (_, len) => !notRepeated (field w.toNat 24 8) && opsOk p imm n (ws.drop (len - 1)) (ms.drop len)

/-- MACCNT of an image (Table 6.6). -/
def Image.maccnt (i : Image) : Nat := field i.hdr.toNat 288 8

/-- MCALL (R167): the checks, then the entry begins at its first word, or at OPIX when it is resumed. -/
def execMcall (d : BitVec 7) (a b : BitVec 8) (s0 : State) : Out :=
  perform { words := 1 } s0 fun s =>
    let entry := d.toNat
    let p := a.toNat
    let (ws, ms) := s.macroEntry entry
    let ops := ws.take (entryEnd ws)
    let cnt := match s.image with
      | some i => i.maccnt
      | none => 0
    if decide (0x80 ≤ p) || entry / 8 != s.team.macwin then .trap s.illegalOperand
    else if cnt ≤ entry ∨ ops.isEmpty then .trap s.illegalInstr
    else if !s.marksOk p ops ms then .trap s.illegalOperand
    else if !opsOk p b.toNat 32 ops ms then .trap s.illegalInstr
    else
      let at0 := s0.crew.resuming && s0.crew.traprep.getLsbD 15
      let k := if at0 then field s0.crew.traprep.toNat 8 5 else 0
      .final (s.setCrew { s.crew.clearCounts with run := some (.mcall k k) })

end Sys2Proof.Machine
end

