-- ==== Sys2Proof/Machine/Merge.lean ====
section
/-! DEFINITION. Merging partial softmax state (spec/11 R288, R289): CRMERGE, CRFIN and the sessions of a cluster's
reduction unit. -/
namespace Sys2Proof.Machine

/-! Issue. -/

/-- The operands of CRMERGE and CRFIN: a tile of F32 with one granule a row. -/
def State.mergeOk (s : State) (d : BitVec 7) (a b c : BitVec 8) (scope : BitVec 3) : Bool :=
  let tc := s.team.tcOf b.toNat
  engineOk d scope [c] && s.accOk a.toNat && s.tileOk b.toNat && tcFmt tc == 1 && field tc.toNat 16 4 == 0

/-- Issue CRMERGE or CRFIN: the matrix unit must hold the token (Table 11.1). -/
def State.issueMerge (s : State) (ws : List Word) (d : BitVec 7) (a b c : BitVec 8) (scope : BitVec 3) (ord : BitVec 2) (q : BitVec 3) : Effect :=
  if !s.team.unitHolds a.toNat then .trap s.tokenTrap
  else s.toQueue ws d scope ord q [s.uni c] [s.team.tcOf b.toNat]

/-- CRMERGE. -/
def execCrmerge (d : BitVec 7) (a b c : BitVec 8) (strm : BitVec 4) (scope : BitVec 3) (ord : BitVec 2) (q : BitVec 3) (slot : BitVec 4)
    (s : State) : Out :=
  perform { srcs := [c], ends := true, ok := s.mergeOk d a b c scope } s fun s =>
    s.issueMerge (encode (.crmerge d a b c strm scope ord q slot)) d a b c scope ord q

/-- CRFIN. -/
def execCrfin (d : BitVec 7) (a b c : BitVec 8) (strm : BitVec 4) (scope : BitVec 3) (ord : BitVec 2) (q : BitVec 3) (slot : BitVec 4)
    (s : State) : Out :=
  perform { srcs := [c], ends := true, ok := s.mergeOk d a b c scope } s fun s =>
    s.issueMerge (encode (.crfin d a b c strm scope ord q slot)) d a b c scope ord q

/-! Sessions. -/

def mergeSlot (c : Cmd) : Nat := field c.e.toNat 0 4
def mergeRank (c : Cmd) : Nat := field (c.op 0) 0 4
def mergeN (c : Cmd) : Nat := field (c.op 0) 8 4 + 1
def mergeF (c : Cmd) : Nat := field (c.op 0) 16 4 + 1
def mergeRows (c : Cmd) : Nat := tcRows (c.tcs.headD 0)
/-- BYTES of a command that took part. -/
def mergeBytes (c : Cmd) : Nat := mergeRows c * 264

def Session.keyIs (x : Session) (launch slot : Nat) : Bool := x.launch == launch && x.slot == slot
def Session.matches_ (x : Session) (c : Cmd) : Bool := x.n == mergeN c && x.f == mergeF c && x.nr == mergeRows c

def State.session (s : State) (cl launch slot : Nat) : Option Session := (s.clusterAt cl).sessions.find? fun x => x.keyIs launch slot

/-- Replace or add a session. -/
def State.setSession (s : State) (cl : Nat) (x : Session) : State :=
  let c := s.clusterAt cl
  s.setClusterAt cl { c with sessions := c.sessions.filter (fun y => !y.keyIs x.launch x.slot) ++ [x] }
def State.dropSession (s : State) (cl launch slot : Nat) : State :=
  let c := s.clusterAt cl
  s.setClusterAt cl { c with sessions := c.sessions.filter fun y => !y.keyIs launch slot }

/-- The triple that a command names (R288): 66 words a row. -/
def Team.triple (t : Team) (c : Cmd) : List (Nat × Word) :=
  (List.range (mergeRows c)).foldl (fun m r =>
    let row := w32 (natOf (t.tileBytes (fieldB c.w) (256 * r) 4)) :: w32 (natOf (t.tileBytes (fieldB c.w) (256 * r + 4) 4)) ::
      (List.range 64).map fun k => t.accWord (fieldA c.w) (64 * r + k)
    fsetRun 0 m (66 * r) row) []

/-- Write a result into Tms and ACC. -/
def Team.putTriple (t : Team) (c : Cmd) (rows : List (Nat × Word)) : Team :=
  (List.range (mergeRows c)).foldl (fun t r =>
    let t1 := t.setTileBytes (fieldB c.w) (256 * r) (bytesOf 4 (fget 0 rows (66 * r)).toNat ++ bytesOf 4 (fget 0 rows (66 * r + 1)).toNat)
    (List.range 64).foldl (fun t k => t.setAccWord (fieldA c.w) (64 * r + k) (fget 0 rows (66 * r + 2 + k))) t1) t

/-! Merge(T1, T2) (R289). -/

/-- Two values are the same number. -/
def sameVal (a b : Val) : Bool := !a.isNaN && !b.isNaN && (if a.isInf || b.isInf then a == b else (a.real.sub b.real).sign == 0)

/-- α: 1 where mi is m, 0 for −∞, otherwise 2^(mi − m) rounded to F32. -/
def alphaOf (mi m : Nat) : Nat :=
  let a := valOf 1 mi
  let b := valOf 1 m
  if sameVal a b then 0x3F800000
  else if a.isNaN || b.isNaN then (defaultNaN 1).getD 0
  else if a.isInf || b.isInf then 0
  else
    let x := a.real.sub b.real
    if x.le ({ a := -150, e := 0 } : Ex) then 0 else (roundTo 1 .rne (.num false (exp2Encl x).lo)).code

/-- x1 × α1 + x2 × α2, exact and rounded once. -/
def mergeSum (x1 a1 x2 a2 : Nat) : Nat :=
  let p := vMul (valOf 1 x1) (valOf 1 a1)
  let q := vMul (valOf 1 x2) (valOf 1 a2)
  (finish 1 .rne (vAdd .rne p.v q.v)).code

/-- One row of Merge, as 66 words. -/
def mergeRow (t1 t2 : List Word) : List Word :=
  let m1 := (t1.getD 0 0).toNat
  let m2 := (t2.getD 0 0).toNat
  let m := (fminmax 1 true false m1 m2).code
  let a1 := alphaOf m1 m
  let a2 := alphaOf m2 m
  w32 m :: (List.range 65).map fun k => w32 (mergeSum (t1.getD (k + 1) 0).toNat a1 (t2.getD (k + 1) 0).toNat a2)

/-- Merge of nr rows. -/
def mergeTriples (nr : Nat) (t1 t2 : List (Nat × Word)) : List (Nat × Word) :=
  (List.range nr).foldl (fun m r => fsetRun 0 m (66 * r) (mergeRow (fgetRun 0 t1 (66 * r) 66) (fgetRun 0 t2 (66 * r) 66))) []

/-- MERGE_SESSION_MERGE (R288): the unit merges the triple of the next rank of a session. -/
def execMergeSessionMerge (cluster launch slot : Nat) (s : State) : Out :=
  match s.session cluster launch slot with
  | none => .refused (.notEnabled "MERGE_SESSION_MERGE")
  | some x =>
    match x.triples.find? fun t => t.rank == x.merged with
    | none => .refused (.notEnabled "MERGE_SESSION_MERGE")
    | some t =>
      let r := if x.merged = 0 then t.rows else mergeTriples x.nr x.result t.rows
      .next (s.setSession cluster { x with merged := x.merged + 1, result := r })

/-! The commands. -/

/-- A CRMERGE may start: its session is open, or one can be opened. -/
def State.mergeMayStart (s : State) (cl launch : Nat) (c : Cmd) : Bool :=
  (s.session cl launch (mergeSlot c)).isSome || decide ((s.clusterAt cl).sessions.length < 16)

/-- The run of a CRMERGE. -/
def State.runCrmerge (s : State) (slot : Nat) (c : Cmd) : CmdEnd :=
  let t := s.teamAt slot
  let cl := clusterOf slot
  let fault : CmdEnd := .ended s (stFault 0x07 0)
  let mine : Triple := { rank := mergeRank c, rows := t.triple c }
  if mergeN c ≤ mergeRank c then fault
  else
    match s.session cl t.launch (mergeSlot c) with
    | none =>
      if 16 ≤ (s.clusterAt cl).sessions.length then .wait
      else
        .ended (s.setSession cl { launch := t.launch, slot := mergeSlot c, n := mergeN c, f := mergeF c, nr := mergeRows c, triples := [mine] })
          (stDone (mergeBytes c))
    | some x =>
      if !x.matches_ c || x.triples.any (fun y => y.rank == mine.rank) then fault
      else .ended (s.setSession cl { x with triples := x.triples ++ [mine] }) (stDone (mergeBytes c))

/-- A CRFIN reaches the unit: it joins its session, faults on a mismatch, or waits (none). -/
def State.startCrfin (s : State) (slot q : Nat) (c : Cmd) : Option State :=
  let cl := clusterOf slot
  match s.session cl (s.teamAt slot).launch (mergeSlot c) with
  | none => none
  | some x =>
    if x.joined = x.f then none
    else if !x.matches_ c then some (s.setHead slot q { c with run := .ended (stFault 0x07 0) })
    else some ((s.setSession cl { x with joined := x.joined + 1 }).setHead slot q { c with run := .joined })

/-- CRFIN_COMPLETE (R288): all triples are merged, and a CRFIN that has joined writes the result. -/
def execCrfinComplete (team q : Nat) (s : State) : Out :=
  match (s.teamAt team).queue q with
  | c :: _ =>
    let t := s.teamAt team
    let cl := clusterOf team
    match s.session cl t.launch (mergeSlot c) with
    | none => .refused (.notEnabled "CRFIN_COMPLETE")
    | some x =>
      if c.run ≠ .joined ∨ x.merged ≠ x.n then .refused (.notEnabled "CRFIN_COMPLETE")
      else
        let s1 := (s.setTeamAt team (t.putTriple c x.result))
        let s2 := if x.finished + 1 = x.f then s1.dropSession cl t.launch (mergeSlot c) else s1.setSession cl { x with finished := x.finished + 1 }
        .next (s2.finishCmd team q c (stDone (mergeBytes c)))
  | [] => .refused (.notEnabled "CRFIN_COMPLETE")

end Sys2Proof.Machine
end

