-- ==== Sys2Proof/Machine/EngineEvents.lean ====
section
/-! DEFINITION. Engine commands start and complete (R264), copy-on-write paths (R70, R424), errors inside an engine
(R431), and atomic leases (R74). -/
namespace Sys2Proof.Machine

/-! Start. -/

/-- The handles that a command names may be used: no REMAP of them is under way and no TDESC holds them (R92, R280). -/
def State.handlesFree (s : State) (x : Eng) (c : Cmd) : Bool :=
  c.handles.all fun h =>
    !s.remapping x.ctx h && !s.describing x.ctx h && (match s.readEntry x h with
      | .ok e => eSt e == 0
      | .error _ => true)

/-- The head command of a queue starts, or asks another device for its entries: the state, or none while it must wait. -/
def State.startCmd (s : State) (slot q : Nat) (c : Cmd) : Option State :=
  let t := s.teamAt slot
  let x := s.cmdEng slot c
  if c.run ≠ .waiting ∨ !s.teamRuns slot ∨ !t.clear c.issue c.foot then none
  else
    let go : State :=
      (c.handles.foldl (fun s h => s.keepEntry x h) s).setHead slot q {
        c with run := .started, ents := c.handles.map (s.holdEntry x), got := [] }
    match opOf c.w with
    | 0xBD => none
    | 0xDA => s.startRemap slot q c
    | 0xE8 => s.startCrfin slot q c
    | 0xE7 => if s.mergeMayStart x.cl t.launch c then some go else none
    | _ =>
      match c.handles.findSome? fun h => fetchOf (s.readEntry x h) with
      | some f => s.askOnce x (c.asks q) f
      | none => if s.handlesFree x c then some go else s.forgetReads slot q c

/-- ENGINE_COMMAND_START (R264): the command at the head of a queue starts. -/
def execEngineCommandStart (team q : Nat) (s : State) : Out :=
  match (s.teamAt team).queue q with
  | c :: _ =>
    match s.startCmd team q c with
    | some s1 => .next s1
    | none => .refused (.notEnabled "ENGINE_COMMAND_START")
  | [] => .refused (.notEnabled "ENGINE_COMMAND_START")

/-! Completion. -/

/-- The effect of a started command, with its writes performed in its own order. -/
def State.runCmd (s : State) (slot q : Nat) (c : Cmd) : CmdEnd :=
  let x := s.cmdEng slot c
  match opOf c.w with
  | 0xD0 => s.runTld x slot c
  | 0xD1 => s.runTst x slot q c
  | 0xD8 => s.runTtask x c
  | 0xD9 =>
    if s.otherUses x.ctx (c.op 1 % 1024) (some (slot, q)) || s.crewRemaps x.ctx (c.op 1 % 1024) then .wait else s.runTdesc x slot c
  | 0xE0 => if cmdT c then s.runCpyTensor x q c else s.runCpy x q c
  | 0xE1 => s.runCpyacc x c
  | 0xE2 => s.runCpydd x (dieOf slot) c
  | 0xE3 => s.runGather x q c
  | 0xE4 => if cmdT c then s.runMcastTensor x q c else s.runMcast x q c
  | 0xE7 => s.runCrmerge slot c
  | _ => .wait

/-- Some write of a command is outstanding: a granule that it has still to write, or one on another device. -/
def State.cmdOwes (s : State) (slot q : Nat) (c : Cmd) : Bool := !c.owed.isEmpty || s.queueOutstanding slot q

/-- A command whose work is over: its status word is written once its writes are performed. -/
def State.settle (s : State) (slot q : Nat) (c : Cmd) (st : DWord) : State :=
  if s.cmdOwes slot q c then s.setHead slot q { c with run := .ended st } else s.finishCmd slot q c st

/-- The commands whose writes are granule events of their own (R311): all that move data but CPYACC and CPYDD, which have events
of their own. -/
def Cmd.putsOff (c : Cmd) : Bool := [0xD0, 0xD1, 0xE0, 0xE3, 0xE4].contains (opOf c.w)

/-- Two lists of granules to be written joined, an earlier and a later one of one command. -/
def joinOwed (old new : List Owed) : List Owed :=
  new.foldl (fun m o =>
    match m.find? (·.key == o.key) with
    | some p => m.map fun y => if y.key == o.key then { p with
        mask := p.mask ||| o.mask, data := mixBits o.mask o.data p.data, mark := o.mark || (p.mark && o.mask + 1 != 2 ^ 128) } else y
    | none => m ++ [o]) old

/-- A granule of memory or of a part by the key of an owed one, with its marker. -/
def State.granuleAt (s : State) (key : Nat) : Nat × Bool :=
  let place := key / 2 ^ 64
  let g := key % 2 ^ 64
  if place = 0 then (s.readNat (16 * g) 16, fget false s.poison g)
  else (natOf ((s.partOf (place - 1)).read (16 * g) 16), fget false (s.partOf (place - 1)).poison g)

/-- A started command has run from s to s1 with a status word: its writes are still to be performed, granule by granule. -/
def State.ranTo (s s1 : State) (slot q : Nat) (c : Cmd) (st : DWord) : State :=
  let close (os : List Owed) : List Owed := os.map fun o => { o with opened := false }
  if c.putsOff then
    let (s2, owed) := s.putOff s1
    s2.settle slot q { c with owed := close (joinOwed c.owed owed) } st
  else s1.settle slot q { c with owed := close c.owed } st

/-- A started command has formed the writes of a page or a row, from s to s1, and goes on as c1. What it reads later of a granule that
it writes is, for a copy, what stood there before (R282), and for a gather what its rows so far leave there (R284). -/
def State.wentTo (s s1 : State) (slot q : Nat) (c c1 : Cmd) (opened : List Nat) : State :=
  let (s2, new) := s.putOff s1
  let owed := (joinOwed c.owed new).map fun o => { o with opened := opened.contains o.key }
  let seen := new.foldl (fun m o =>
    let old := (lookup m o.key).getD (s.granuleAt o.key)
    insert m o.key (if opOf c.w = 0xE3 then
      (mixBits o.mask o.data old.1, o.mark || (old.2 && o.mask + 1 != 2 ^ 128)) else old)) c.seen
  match c1.run with
  | .ended st => s2.settle slot q { c1 with owed := owed } st
  | _ => s2.setHead slot q { c1 with owed := owed, seen := seen }

/-- ENGINE_COMMAND_COMPLETE (R264): a started command makes its reads and checks and forms its writes, a copy page by page and a gather
row by row (R282, R284), asks another device for what it reads there, or, once its writes are all performed, completes. -/
def execEngineCommandComplete (team q : Nat) (s : State) : Out :=
  match (s.teamAt team).queue q with
  | c :: _ =>
    if opOf c.w = 0xBD then
      if s.joinDone team c then .next (s.finishJoin team c) else .refused (.notEnabled "ENGINE_COMMAND_COMPLETE")
    else
      match c.run with
      | .started =>
        if c.cow.isSome then .refused (.notEnabled "ENGINE_COMMAND_COMPLETE")
        else
          match s.runCmd team q c with
          | .cow va => .next (s.setHead team q {
            c with cow := some va, pages := [], owed := c.owed.map fun o => { o with opened := false } })
          | .wait => .refused (.notEnabled "ENGINE_COMMAND_COMPLETE")
          | .fetch f =>
            if s.readsOut (c.asks q) then .refused (.notEnabled "ENGINE_COMMAND_COMPLETE")
            else .next (s.askReads (s.cmdEng team c) (c.asks q) c.pages f)
          | .more s1 c1 opened => .next (s.wentTo s1 team q c c1 opened)
          | .ended s1 st => .next (s.ranTo s1 team q c st)
      | .ended st =>
        if s.cmdOwes team q c then .refused (.notEnabled "ENGINE_COMMAND_COMPLETE") else .next (s.finishCmd team q c st)
      | _ => .refused (.notEnabled "ENGINE_COMMAND_COMPLETE")
  | [] => .refused (.notEnabled "ENGINE_COMMAND_COMPLETE")

/-- The head command of a queue writes entry j of the granules that it owes (R311), in any order; one of which more is to come waits for
the rest. -/
def execOwedWrite (slot q j : Nat) (s : State) : Out :=
  match (s.teamAt slot).queue q with
  | c :: _ =>
    match c.owed[j]? with
    | some o =>
      if o.opened then .refused (.notEnabled "OWED_WRITE")
      else .next ((s.payOwed o).setHead slot q { c with owed := c.owed.eraseIdx j })
    | none => .refused (.notEnabled "OWED_WRITE")
  | [] => .refused (.notEnabled "OWED_WRITE")

/-- The same for a tile task. -/
def execTaskWrite (cluster task j : Nat) (s : State) : Out :=
  match s.taskAt cluster task with
  | some t =>
    match t.owed[j]? with
    | some o => .next ((s.payOwed o).setTask cluster task { t with owed := t.owed.eraseIdx j })
    | none => .refused (.notEnabled "TASK_WRITE")
  | none => .refused (.notEnabled "TASK_WRITE")

/-- The status word of a command without an acquire part stands in D before its writes are performed: reading D orders nothing
beyond the word itself (R266). -/
def execEarlyStatus (slot q : Nat) (s : State) : Out :=
  match (s.teamAt slot).queue q with
  | c :: _ =>
    match c.run with
    | .ended st =>
      if c.told || c.e.getLsbD 11 then .refused (.notEnabled "EARLY_STATUS")
      else .next ((s.setHead slot q { c with told := true }).writeStatus c st)
    | _ => .refused (.notEnabled "EARLY_STATUS")
  | [] => .refused (.notEnabled "EARLY_STATUS")

/-- A granule is read ahead: the lease on its line is recalled (R74). -/
def State.readAhead (s : State) (key : Nat) : State := if key < 2 ^ 64 then s.recallRun (16 * key) 16 else s

/-- A started command reads a granule of memory or of a part before its other reads (R311). -/
def execEngineRead (slot q key : Nat) (s : State) : Out :=
  match (s.teamAt slot).queue q with
  | c :: _ =>
    if c.run = .started ∧ (lookup c.seen key).isNone then
      .next ((s.readAhead key).setHead slot q { c with seen := insert c.seen key (s.granuleAt key) })
    else .refused (.notEnabled "ENGINE_READ")
  | [] => .refused (.notEnabled "ENGINE_READ")

/-- The same for a tile task that runs. -/
def execTaskRead (cluster task key : Nat) (s : State) : Out :=
  match s.taskAt cluster task with
  | some t =>
    if t.core.isSome ∧ t.stage = 0 ∧ (lookup t.seen key).isNone then
      .next ((s.readAhead key).setTask cluster task { t with seen := insert t.seen key (s.granuleAt key) })
    else .refused (.notEnabled "TASK_READ")
  | none => .refused (.notEnabled "TASK_READ")

/-- The bytes that a command has formed the writes of so far. -/
def Cmd.formed (c : Cmd) : Nat :=
  match c.run with
  | .ended st => field st.toNat 0 48
  | _ => c.progress

/-- COPY_ENGINE_ERROR (R431): the running command of a queue ends FAULT with cause 0x0B, also while writes that it has formed are still to
be performed; these are performed (log entry 109). One whose status word stands already is over. -/
def execCopyEngineError (team q : Nat) (s : State) : Out :=
  match (s.teamAt team).queue q with
  | c :: _ =>
    if c.runs && !c.told && opOf c.w != 0xE7 && opOf c.w != 0xE8 && opOf c.w != 0xD8 then
      .next ((s.fireEquinox 3).settle team q {
        c with cow := none, pages := [], owed := c.owed.map fun o => { o with opened := false } } (stFault 0x0B c.formed))
    else .refused (.notEnabled "COPY_ENGINE_ERROR")
  | [] => .refused (.notEnabled "COPY_ENGINE_ERROR")

/-- A team uses the reduction unit of its cluster: its launch has a session there, or a CRMERGE of the team has started (R431). -/
def State.usesReduction (s : State) (slot : Nat) : Bool :=
  ((s.clusterAt (clusterOf slot)).sessions.any fun x => x.launch == (s.teamAt slot).launch) ||
    (s.teamAt slot).queues.any fun q => match q.2 with
      | c :: _ => opOf c.w == 0xE7 && c.runs
      | [] => false

/-- MATRIX_ENGINE_ERROR (R431): the fault domain of every team that uses a core's matrix engine is to end; of those that use the
reduction unit of cluster c for core 768 + c. -/
def execMatrixEngineError (core : Nat) (s : State) : Out :=
  let merging := if core < 768 then [] else (s.teams.map (·.1)).filter fun k => clusterOf k == core - 768 && s.usesReduction k
  let mine := [2 * core, 2 * core + 1].filter fun k => (lookup s.teams k).isSome && !(s.teamAt k).matrix.isEmpty
  let task := ((s.clusterAt (core / 8)).tasks.filter fun t => t.core == some core).filterMap fun t => s.slotOfTeam t.launch t.teamid
  .next ((mine ++ task ++ merging).foldl (fun s k =>
    let t := s.teamAt k
    { s with ends := s.ends ++ [{ ctx := t.ctx, fdom := t.fdom, crew := none, driver := false }] }) (s.fireEquinox 3))

/-! Copy-on-write. -/

/-- Who waits for a copy-on-write path of a page. -/
inductive CowWaiter where
  | crew (k : Nat) (lanes : BitVec 32) (addr : Nat)
  | cmd (slot q : Nat)
  | task (cluster k : Nat)
deriving DecidableEq, Repr

/-- The waiters of a page of a context, in the order of the state. -/
def State.cowWaiters (s : State) (ctx page : Nat) : List CowWaiter :=
  let here (va : Nat) : Bool := va / 4096 == page
  (s.crews.filterMap fun e => match e.2.block with
    | some (.cow va lanes addr) => if e.2.bound && (s.teamAt (slotOf e.1)).ctx == ctx && here va then some (.crew e.1 lanes addr) else none
    | _ => none) ++
  ((s.teams.filter fun e => e.2.ctx == ctx).flatMap fun e => e.2.queues.filterMap fun q => match q.2 with
    | c :: _ => if c.cow.any here then some (.cmd e.1 q.1) else none
    | [] => none) ++
  (s.clusters.flatMap fun e => (List.range e.2.tasks.length).filterMap fun k => match e.2.tasks[k]? with
    | some t => if t.ctx == ctx && t.cow.any here then some (.task e.1 k) else none
    | none => none)

/-- The die whose management core serves a waiter. -/
def CowWaiter.die : CowWaiter → Nat
  | .crew k _ _ => dieOf (slotOf k)
  | .cmd slot _ => dieOf slot
  | .task cluster _ => cluster / 12

/-- A waiter goes on: its instruction or command is replayed, or meets the failure of Table 25.7. -/
def State.cowResume (s : State) (page : Nat) (fail : Option Nat) (w : CowWaiter) : State :=
  let bad (old : Option (Nat × Nat)) : Option (Nat × Nat) := (fail.map fun r => (4096 * page, causeOfRank r)).or old
  match w with
  | .crew k lanes addr =>
    match fail with
    | none => s.setCrewAt k { s.crewAt k with block := none }
    | some r => (s.at_ k).trapHere { code := codeOfRank r, lanes := lanes, addr := dw addr } true
  | .cmd slot q =>
    match (s.teamAt slot).queue q with
    | c :: _ => s.setHead slot q { c with cow := none, bad := bad c.bad }
    | [] => s
  | .task cl k =>
    match s.taskAt cl k with
    | some t => s.setTask cl k { t with cow := none, bad := bad t.bad }
    | none => s

/-- A path of a context other than that of a page waits in its third step for a frame: the dedup serialiser does nothing else for
the context until it has one (R386). -/
def State.serialHeld (s : State) (ctx page : Nat) : Bool :=
  s.cowHold.any fun h => h.ctx == ctx && h.page != page && (h.remote || !(s.cowWaiters ctx h.page).isEmpty)

/-- COW_PATH (R70, R386, R424): the management core breaks a page that a write waits for; without a frame the writes go on
waiting, and the path keeps its place in the dedup serialiser and its die. A path that fails is reported to the driver. -/
def execCowPath (ctx page : Nat) (s : State) : Out :=
  let ws := s.cowWaiters ctx page
  let hold := s.cowHold.find? fun h => h.ctx == ctx && h.page == page
  let held := s.cowHold.filter fun h => h.ctx != ctx || h.page != page
  let die? := match hold, ws with
    | some h, [] => if h.remote then some h.die else none
    | some h, _ => some h.die
    | none, w :: _ => some w.die
    | none, [] => none
  match die? with
  | none => if hold.isSome then .next { s with cowHold := held } else .refused (.notEnabled "COW_PATH")
  | some die =>
    if s.serialHeld ctx page || !s.frameSettled ctx (4096 * page) then .refused (.notEnabled "COW_PATH")
    else
      match s.cowPath die ctx (4096 * page) with
      | .done s1 => .next (ws.foldl (fun s w => s.cowResume page none w) { s1 with cowHold := held })
      | .failed r => .next (ws.foldl (fun s w => s.cowResume page (some r) w) { s with
          cowHold := held, cowReports := if ws.isEmpty then s.cowReports else s.cowReports ++ [(ctx, page)] })
      | .noFrame s1 => .next { s1 with
          cowHold := held ++ [{ ctx := ctx, page := page, die := die, remote := hold.any (·.remote) }] }

/-! Leases. -/

/-- LEASE_GRANT (R74): a line's lease goes to a cluster that asked once no other holds one; a full table of 64 entries
releases the least recently used. -/
def execLeaseGrant (cluster line size : Nat) (s : State) : Out :=
  let c := s.clusterAt cluster
  if !c.wants.contains (line, size) || s.clusters.any (fun e => e.2.leases.any fun l => l.line == line) then
    .refused (.notEnabled "LEASE_GRANT")
  else
    let oldest := c.leases.foldl (fun (o : Option Lease) l => match o with
      | some m => if l.used < m.used then some l else o
      | none => some l) none
    let kept := if 64 ≤ c.leases.length then c.leases.filter fun l => some l != oldest else c.leases
    .next (s.setClusterAt cluster { c with leases := kept ++ [{ line := line, size := size, used := s.clock }]
                                           wants := c.wants.erase (line, size) })

/-- LEASE_IDLE_RELEASE (R74): a lease that has gone unused for 1,024 interconnect cycles is released. -/
def execLeaseIdleRelease (cluster line : Nat) (s : State) : Out :=
  match (s.clusterAt cluster).leases.find? (fun l => l.line == line) with
  | some l =>
    let s1 := s.passTo (l.used + interconnectCycles 1024)
    .next (s1.setClusterAt cluster { s1.clusterAt cluster with leases := (s1.clusterAt cluster).leases.filter fun l => l.line != line })
  | none => .refused (.notEnabled "LEASE_IDLE_RELEASE")

end Sys2Proof.Machine
end

