-- ==== Sys2Proof/Machine/Host.lean ====
section
/-! DEFINITION. What the host does to the package (spec/16 R354 to R361, R367, R371, R374, R375, spec/22 R399, R400): ring
kicks and records, the event window, BAR2, invalidations, attestation, the frame reserve, driver controls, and the
registers without behaviour of their own. -/
namespace Sys2Proof.Machine

/-! Launch rings (R356, R357). -/

def ringKey (fn ring : Nat) : Nat := 8 * fn + ring
def State.ring (s : State) (fn ring : Nat) : Ring := fget {} s.rings (ringKey fn ring)
def State.setRing (s : State) (fn ring : Nat) (r : Ring) : State := { s with rings := insert s.rings (ringKey fn ring) r }
/-- Registers of a ring (Table 16.1): 0 RBASE, 8 RCTL, 24 HEAD, 32 RSTAT. -/
def State.ringReg (s : State) (fn ring off : Nat) : DWord := s.reg fn (0x1000 + 64 * ring + off)
def State.setRingReg (s : State) (fn ring off : Nat) (v : DWord) : State := s.setReg fn (0x1000 + 64 * ring + off) v

def ringOk (fn ring : Nat) : Bool := decide (fn < 2) && decide (ring < 8)

/-- A flag of RSTAT becomes 1: vector 1 of the function (R360). -/
def State.ringFault (s : State) (fn ring bit : Nat) : State :=
  let old := s.ringReg fn ring 32
  let s1 := s.setRingReg fn ring 32 (old ||| dw (2 ^ bit))
  if old.getLsbD bit then s1 else s1.raiseIn fn 1

/-- KICK (R357): one to a ring that is not enabled or a stale one is ignored, one past the ring sets OVR, any other is the accepted
count. -/
def execKick (fn ring : Nat) (v : BitVec 64) (s : State) : Out :=
  if !ringOk fn ring then .refused (.notEnabled "KICK")
  else
    let r := s.ring fn ring
    let head := (s.ringReg fn ring 24).toNat
    if !(s.ringReg fn ring 8).getLsbD 0 || decide (v.toNat ≤ r.kicks) then .next s
    else if 2 ^ field (s.ringReg fn ring 8).toNat 4 4 < v.toNat - head then .next (s.ringFault fn ring 0)
    else .next (s.setRing fn ring { r with kicks := v.toNat })

/-- The first launch ring is enabled, which completes step 6 of bring-up: the requests held until then are received, before what
else has arrived (R372; log entry 94). -/
def State.openUp (s : State) : State :=
  { s with opened := true, inputs := s.early.map some ++ s.inputs, early := [] }

/-- RCTL_WRITE (R356): EN from 0 to 1 sets HEAD and the kick count to 0; a wrong RSIZE sets EN to 0. -/
def execRctlWrite (fn ring : Nat) (v : BitVec 64) (s : State) : Out :=
  if !ringOk fn ring then .refused (.notEnabled "RCTL_WRITE")
  else
    let old := s.ringReg fn ring 8
    let size := field v.toNat 4 4
    let w := v &&& 0xF3#64
    let w := if 4 ≤ size ∧ size ≤ 12 then w else w &&& ~~~1#64
    let s1 := s.setRingReg fn ring 8 w
    .next (if w.getLsbD 0 && !old.getLsbD 0 then ((s1.setRingReg fn ring 24 0).setRing fn ring {}).openUp else s1)

/-- Almanac appends a copy of a record to its region's launch queue (R358). -/
def State.appendLaunch (s : State) (ctx : Nat) (rec_ : BitVec 1024) : State :=
  let region := rec_.extractLsb' 768 64
  let queue := ((s.rcb ctx region.toNat).map fun r => field r 64 64).getD 0
  let key := ctx * 2 ^ 64 + queue
  let place := fget 0 s.queueEnds key
  let va := queue + 128 * place
  let s1 := match s.ownAccess ctx true true va 128 with
    | .ok pa => s.storePhys pa (bytesOf 128 rec_.toNat)
    | .error _ => s
  { s1 with
    queueEnds := insert s1.queueEnds key (place + 1)
    launches := insert s1.launches s1.launches.length
      { record := rec_, lrec := dw va, ctx := ctx, region := region, place := place } }

/-- The context whose launches come in a ring (log entry 21). -/
def ringCtx (fn ring : Nat) : Nat := Config.ringContext (ringKey fn ring) % (memTop / 256) * 256

/-- The address that the front end reads next, and whether the ring waits for a record there. -/
def State.ringSlot (s : State) (fn ring : Nat) : Nat :=
  (s.ringReg fn ring 0).toNat + 128 * ((s.ringReg fn ring 24).toNat % 2 ^ field (s.ringReg fn ring 8).toNat 4 4)
def State.ringWaits (s : State) (fn ring : Nat) : Bool :=
  ringOk fn ring && (s.ringReg fn ring 8).getLsbD 0 && decide ((s.ringReg fn ring 24).toNat < (s.ring fn ring).kicks)

/-- The record of a ring in device memory; the one supplied for a ring in host memory. Where there is nothing, no record is found
and the wait ends STALE (R357; log entry 27). -/
def State.ringRecord (s : State) (fn ring : Nat) (hostRec : BitVec 1024) : BitVec 1024 :=
  if (s.ringReg fn ring 8).getLsbD 1 then hostRec else BitVec.ofNat 1024 (s.loadPhys (s.ringSlot fn ring) 128)

/-- RING_RECORD_READ (R357): a record whose SEQTAG matches is handed to Almanac; otherwise the wait goes on. -/
def execRingRecordRead (fn ring : Nat) (hostRec : BitVec 1024) (s : State) : Out :=
  if !s.ringWaits fn ring then .refused (.notEnabled "RING_RECORD_READ")
  else
    let head := (s.ringReg fn ring 24).toNat
    let rec_ := s.ringRecord fn ring hostRec
    let r := s.ring fn ring
    if (rec_.extractLsb' 960 64).toNat = (head + 1) % 2 ^ 64 then
      .next (((s.setRingReg fn ring 24 (dw (head + 1))).setRing fn ring { r with since := none }).appendLaunch (ringCtx fn ring) rec_)
    else .next (s.setRing fn ring { r with since := some (r.since.getD s.clock) })

/-- RING_STALE_TIMEOUT (R357): 10 µs, which are 33,000 cycles, pass without the record. -/
def execRingStaleTimeout (fn ring : Nat) (s : State) : Out :=
  match (s.ring fn ring).since with
  | none => .refused (.notEnabled "RING_STALE_TIMEOUT")
  | some t =>
    if !s.ringWaits fn ring then .refused (.notEnabled "RING_STALE_TIMEOUT")
    else
      let s1 := (s.passTo (t + 33000)).setRing fn ring { s.ring fn ring with since := none }
      .next ((s1.setRingReg fn ring 8 (s1.ringReg fn ring 8 &&& ~~~1#64)).ringFault fn ring 1)

/-! Event window and BAR2 (R360, R361). -/


/-- The device bytes of a BAR2 access that a non-secure host reaches. -/
def State.bar2Ok (s : State) (addr size : Nat) : Bool :=
  decide (addr + size ≤ memTop) && !((List.range size).any fun k => s.inSecure (addr + k))

def bar2Access (fn addr size : Nat) : Bool :=
  decide (fn < 2) && decide (1 ≤ size) && decide (size ≤ 8) && decide (addr + size ≤ 2 ^ 39)

/-- The lines of a run of bytes. -/
def State.recallBytes (s : State) (addr size : Nat) : State := s.recallAll [{ page := { pte := 0, pa := addr, level := 5 }, n := size, off := 0, va := 0 }]

/-- HOST_BAR2_READ (R361): all ones for a secure or unbacked range; the value of a poisoned granule is not stated. -/
def execHostBar2Read (fn addr size : Nat) (s : State) : Out :=
  if !bar2Access fn addr size then .refused (.notEnabled "HOST_BAR2_READ")
  else
    let v := if !s.bar2Ok addr size then 2 ^ (8 * size) - 1
      else if s.poisoned addr size then Config.unstated s.fresh % 2 ^ (8 * size)
      else s.readNat addr size
    .next { s.recallBytes addr size with hostRead := BitVec.ofNat 2112 v }

/-- HOST_BAR2_WRITE (R361): dropped for a secure or unbacked range. -/
def execHostBar2Write (fn addr size : Nat) (data : BitVec 64) (s : State) : Out :=
  if !bar2Access fn addr size then .refused (.notEnabled "HOST_BAR2_WRITE")
  else if !s.bar2Ok addr size then .next s
  else .next (((s.commitRange addr size).recallBytes addr size).writeNat addr size data.toNat)

/-! Invalidation (R367). -/

/-- INVCMD: BUSY rises, every cluster drops its entries for the range, and the drain markers go in. -/
def execInvcmd (v : BitVec 64) (s : State) : Out :=
  if (s.reg 0 0x3020).getLsbD 0 || v != 1#64 then .next s
  else
    let s1 := s.dropTlb (s.reg 0 0x3010).toNat ((s.reg 0 0x3000).toNat / 4096) (s.reg 0 0x3008).toNat
    .next { s1.setReg 0 0x3020 1 with drain := s.fabric.map (·.1), drainAt := s.fresh }

/-- What was translated before the invalidation began has been performed: the requests in the fabric, the accesses that crews have
issued, the granules that commands had still to write, and the pages in progress of the running ones (R421). -/
def State.drained (s : State) : Bool :=
  (s.drain.all fun k => (lookup s.fabric k).isNone) &&
    (s.crews.all fun e => e.2.pend.all fun p => match p with
      | .acc a => a.sent || decide (s.drainAt ≤ a.seq)
      | .fence _ _ _ => true) &&
    (s.teams.all fun e => e.2.cmds.all fun c => (c.owed.all fun o => decide (s.drainAt ≤ o.stamp)) &&
      (c.run != .started || c.pages.all fun p => decide (s.drainAt ≤ p.2.2.2))) &&
    s.clusters.all fun e => e.2.tasks.all fun t => t.owed.all fun o => decide (s.drainAt ≤ o.stamp)

/-- INVALIDATION_DRAIN_DONE: every access that stands before the markers has been performed or acknowledged. -/
def execInvalidationDrainDone (s : State) : Out :=
  if (s.reg 0 0x3020).getLsbD 0 && s.drained then
    .next { s.setReg 0 0x3020 0 with drain := [] }
  else .refused (.notEnabled "INVALIDATION_DRAIN_DONE")

/-! Attestation (R371). -/

/-- ATTCMD: the nonce is taken, and BUSY rises. -/
def execAttcmd (v : BitVec 64) (s : State) : Out :=
  if v != 1#64 || (s.reg 0 0x5030).getLsbD 0 then .next s
  else
    let nonce : BitVec 256 := (s.reg 0 0x5018 ++ s.reg 0 0x5010 ++ s.reg 0 0x5008 ++ s.reg 0 0x5000 : BitVec (64 + 64 + 64 + 64))
    .next { s.setReg 0 0x5030 1 with attest := some (nonce, s.reg 0 0x5020) }

/-- The map of fenced cores (Table 16.5). -/
def State.fencedMap (s : State) : Nat := (s.fenced.map fun e => if e.2 then 2 ^ e.1 else 0).sum

/-- Bytes 0 to 431 of the report, as a number. -/
def State.reportBody (s : State) (nonce : BitVec 256) : Nat :=
  1 + (s.reg 0 0x10).toNat % 8 * 2 ^ 16 + s.devnum * 2 ^ 64 + s.fencedMap % 2 ^ 768 * 2 ^ 128 +
    ((List.range 8).map fun j => (fget 0 s.meas j).toNat * 2 ^ (896 + 256 * j)).sum + nonce.toNat * 2 ^ 2944 +
    Config.identityKey.toNat * 2 ^ 3200

/-- ATTESTATION_REPORT_DONE: the signed report leaves for the host's memory, and ATTSTAT reads DONE. -/
def execAttestationReportDone (s : State) : Out :=
  match s.attest with
  | none => .refused (.notEnabled "ATTESTATION_REPORT_DONE")
  | some (nonce, _) =>
    let body := s.reportBody nonce
    .next { s.setReg 0 0x5030 2 with
      attest := none, attReport := BitVec.ofNat 66304 (body + (Config.signature body).toNat * 2 ^ 3456) }

/-! Secure ranges and the frame reserve (R374, R375). -/

/-- SECLIMIT_WRITE (R374): a secure write of SECBASE, or of SECLIMIT; LOCK makes both read-only. -/
def execSeclimitWrite (stack range : Nat) (limit sec : Bool) (v : BitVec 64) (s : State) : Out :=
  if 8 ≤ stack ∨ 4 ≤ range then .refused (.notEnabled "SECLIMIT_WRITE")
  else
    let k := 8 * stack + 2 * range
    if !sec || (fget 0 s.secure (k + 1)).getLsbD 1 then .next s
    else if limit then .next { s with secure := fset 0 s.secure (k + 1) (v &&& 0x7FFFE00003#64) }
    else .next { s with secure := fset 0 s.secure k (v &&& 0x7FFFE00000#64) }

/-- RSVBASE (R375): HEAD and TAIL return to 0. -/
def execRsvbase (v : BitVec 64) (s : State) : Out := .next (((s.setReg 0 0x6400 v).setReg 0 0x6408 0).setReg 0 0x6410 0)

/-- RSVTAIL (R375): a write that would decrease it or hold more than 512 frames is ignored. -/
def execRsvtail (v : BitVec 64) (s : State) : Out :=
  let n := v.toNat % 2 ^ 32
  let tail := (s.reg 0 0x6408).toNat
  let head := (s.reg 0 0x6410).toNat
  if n < tail ∨ 512 < n - head then .next s else .next (s.setReg 0 0x6408 (dw n))

/-! Driver controls (R399, R400). -/

/-- FDCMD (R399): the driver ends the domain that FDCTX and FDID name. -/
def execFdcmd (v : BitVec 64) (s : State) : Out :=
  let st := s.reg 0 0x6318
  if v != 1#64 || st.getLsbD 0 then .next s
  else
    let ctx := (s.reg 0 0x6300).toNat
    let fdom := (s.reg 0 0x6308).toNat % 65536
    if s.ctxSec ctx then .next (s.setReg 0 0x6318 2)
    else
      let holds := (s.teams.any fun e => s.inDomain ctx fdom e.1) ||
        s.launches.any fun e => e.2.ctx == ctx && s.fdomOf e.2 == some fdom && !e.2.ended
      if !holds then .next (s.setReg 0 0x6318 0)
      else .next { s.setReg 0 0x6318 1 with ends := s.ends ++ [{ ctx := ctx, fdom := fdom, crew := none, driver := true }] }

/-- CIRQCMD (R400): a crew interrupt for one crew of a slot's team, or for all. -/
def execCirqcmd (v : BitVec 64) (s : State) : Out :=
  let st := s.reg 0 0x6350
  if v != 1#64 || st.getLsbD 0 then .next s
  else
    let t := (s.reg 0 0x6340).toNat
    let core := field t 0 10
    let slot := 2 * core + field t 10 1
    let crew := field t 11 5
    let all := field t 16 1 == 1
    let team := s.teamAt slot
    if 768 ≤ core ∨ (s.slotAt slot).st ≠ 1 ∨ (!all ∧ team.ncrew ≤ crew) ∨ team.sec then .next (s.setReg 0 0x6350 2)
    else
      let named := (if all then List.range team.ncrew else [crew]).map (16 * slot + ·)
      let takes (k : Nat) : Bool := (s.at_ k).liveMask != 0#32 && !(s.crewAt k).halted
      let ks := named.filter takes
      let dropped : DWord := if ks.length = named.length then 0 else 2
      let s1 := ks.foldl (fun s k => s.setCrewAt k { s.crewAt k with irq := true }) s
      .next { s1.setReg 0 0x6350 (dropped ||| (if ks.isEmpty then 0 else 1)) with irqs := ks }

/-! Registers without behaviour of their own (R355). -/

/-- How a register takes a write. -/
inductive RegKind where
  /-- Bits of the mask take the value. -/
  | rw (mask : DWord)
  /-- Bits written 1 are cleared. -/
  | w1c (mask : DWord)
  /-- The write is ignored. -/
  | ro
  /-- The register has an event of its own. -/
  | special
deriving DecidableEq, Repr

/-- The register at an offset (Tables 16.1, 16.9, 22.7, 25.4, 26.1, 28.1, 28.3, R432, R441), and whether it is shared. -/
def regAt (off : Nat) : RegKind × Bool :=
  let ones : DWord := 0xFFFFFFFFFFFFFFFF#64
  if off = 0x0000 then (.rw 0x1FF#64, true)
  else if off = 0x0008 then (.rw ones, true)
  else if 0x0040 ≤ off ∧ off < 0x0080 then (.rw ones, true)
  else if 0x1000 ≤ off ∧ off < 0x1200 then
    match off % 64 with
    | 0x00 => (.rw ones, false)
    | 0x08 => (.special, false)
    | 0x10 => (.special, false)
    | 0x20 => (.w1c 3#64, false)
    | _ => (.ro, false)
  else if off = 0x2000 then (.rw ones, false)
  else if 0x2030 ≤ off ∧ off < 0x2050 then (.rw ones, false)
  else if off = 0x2050 then (.rw 0x3C#64, false)
  else if off = 0x3000 ∨ off = 0x3008 ∨ off = 0x3010 then (.rw ones, true)
  else if off = 0x3018 then (.special, true)
  else if 0x4000 ≤ off ∧ off < 0x4100 then (.rw 0xFFFFFFFFC0000001#64, false)
  else if 0x5000 ≤ off ∧ off < 0x5020 then (.rw ones, true)
  else if off = 0x5020 then (.rw ones, true)
  else if off = 0x5028 then (.special, true)
  else if off = 0x6000 ∨ off = 0x6200 ∨ off = 0x6300 then (.rw ones, true)
  else if off = 0x6008 ∨ off = 0x6208 then (.rw 0xFFFFFFFF#64, true)
  else if off = 0x6018 ∨ off = 0x6028 ∨ off = 0x6218 then (.w1c 0xFFFFFFFF#64, true)
  else if off = 0x6308 then (.rw 0xFFFF#64, true)
  else if off = 0x6310 ∨ off = 0x6348 then (.special, true)
  else if off = 0x6340 then (.rw 0x1FFFF#64, true)
  else if off = 0x6400 ∨ off = 0x6408 then (.special, true)
  else if off = 0x6418 then (.rw 0x3FF#64, true)
  else if 0x7000 ≤ off ∧ off < 0x8000 then (if off % 128 = 0 then .special else .ro, true)
  else if off = 0x8000 then (.rw 0xFFFFFFFFFFFFF0FF#64, true)
  else if off = 0x8008 then (.special, true)
  else if off = 0x8020 then (.w1c 1#64, true)
  else if off = 0x8028 then (.w1c 0xFFFFFFFF#64, true)
  else (.ro, true)

/-- What a read of BAR0 gives (R355): an aligned access of 8 bytes has its register, shared or the function's own, and EVDATA its
window of the event vector (R360). Any other access and an offset without a register read zero; so do KICK, INVCMD, ATTCMD and the
other registers that only take writes, which hold nothing. -/
def State.bar0Read (s : State) (fn off size : Nat) : DWord :=
  if 2 ≤ fn ∨ size ≠ 8 ∨ off % 8 ≠ 0 ∨ 65536 ≤ off then 0
  else if 0x2010 ≤ off ∧ off < 0x2030 then windowOf (s.vector (s.reg fn 0x2000).toNat) ((off - 0x2010) / 8)
  else s.reg (if (regAt off).2 then 0 else fn) off

/-- EVDATA_READ (R360). -/
def execEvdataRead (fn win : Nat) (s : State) : Out :=
  if 2 ≤ fn ∨ 4 ≤ win then .refused (.notEnabled "EVDATA_READ")
  else .next { s with hostRead := (s.bar0Read fn (0x2010 + 8 * win) 8).setWidth 2112 }

/-- The units that a source's SRCARG names (Table 28.2); none for a reserved source. -/
def sourceUnits (src : Nat) : Option (Nat × Nat) :=
  match src with
  | 1 => some (0, 11)
  | 2 => some (0, 23)
  | 3 => some (0, 71)
  | 4 => some (0, 95)
  | 5 => some (0, 255)
  | 6 => some (0, 108)
  | 7 => some (0, 10)
  | 8 => some (0, 255)
  | _ => none

/-- The control register of a monitor after a write (R436). -/
def vigilControl (old v : DWord) : DWord :=
  let src := field v.toNat 8 8
  let arg := field v.toNat 16 8
  let ok := match sourceUnits src with
    | some (lo, hi) => decide (lo ≤ arg) && decide (arg ≤ hi)
    | none => false
  let w := v &&& 0xFFFFFFFF00FFFFFD#64
  let w := if ok then w else w &&& ~~~0xFF01#64
  w ||| (old &&& ~~~v &&& 0x80000000#64)

/-- REGISTER_WRITE (R355). -/
def execRegisterWrite (fn off : Nat) (v : BitVec 64) (s : State) : Out :=
  let (kind, shared) := regAt off
  let f := if shared then 0 else fn
  if 2 ≤ fn ∨ off % 8 ≠ 0 ∨ 65536 ≤ off then .refused (.notEnabled "REGISTER_WRITE")
  else
    match kind with
    | .rw m => .next (s.setReg f off (v &&& m))
    | .w1c m => .next (s.setReg f off (s.reg f off &&& ~~~(v &&& m)))
    | .ro => .next s
    | .special =>
      if 0x7000 ≤ off ∧ off < 0x8000 ∧ !v.getLsbD 1 then .next (s.setReg 0 off (vigilControl (s.reg 0 off) v))
      else .refused (.notEnabled "REGISTER_WRITE")

end Sys2Proof.Machine
end

