-- ==== Sys2Proof/Machine/Monitor.lean ====
section
/-! DEFINITION. Boot, power and heat (spec/01 R18, R19, spec/16 R370, R372), links (spec/26 R426 to R428), the crossbar's
aging (spec/14 R338), Vigil and Equinox (spec/28 R436 to R439), error windows (R440) and the health summary (R442). -/
namespace Sys2Proof.Machine

/-! Boot. -/

/-- MEAS0 to MEAS7 after the stages have extended them (R370): SHA-256(MEAS ‖ digest). -/
def measured : List (Nat × BitVec 256) :=
  (List.range 8).foldl (fun m k =>
    fset 0 m k (Config.sha256 64 ((fget 0 m k).toNat + (Config.stageDigest k).toNat * 2 ^ 256))) []

/-- The secure ranges that step 2 of Table 16.6 sets, and locks where it sets one (R374). -/
def bootRanges : List (Nat × DWord) :=
  (List.range 64).foldl (fun m k =>
    let w := Config.secureRange k
    fset 0 m k (if k % 2 = 0 then w &&& 0x7FFFE00000#64 else if w.getLsbD 0 then w &&& 0x7FFFE00001#64 ||| 2#64 else w &&& 0x7FFFE00000#64)) []

/-- The cores that the package flash records as fenced are fenced again (R432), and the list of retired pages is read (R440). -/
def State.fromFlash (s : State) : State :=
  { (List.range 768).foldl (fun s core => if Config.flashFenced core then s.fenceCore core else s) s with retired := Config.flashRetired }

/-- BOOT (R370, R372): the firmware is verified and measured and Almanac starts, or BOOTSTAT reads 2, the board management
controller is told, and the package halts. -/
def execBoot (s : State) : Out :=
  if s.booted then .refused (.notEnabled "BOOT")
  else if Config.bootVerified then
    .next ({ s.fromFlash with
      booted := true, meas := measured, secure := bootRanges
      limits := (List.range 4).foldl (fun m k => fset 0 m k (Config.errorLimit k)) [] }.setReg 0 0x10 1)
  else .next (({ s with booted := true, halted := true }.setReg 0 0x10 2).tellBmc 2)

/-! Power and heat. -/

/-- POWER_WINDOW (R18): the limit begins above 3,600 W and ends below 3,400 W. -/
def execPowerWindow (watts : Nat) (s : State) : Out :=
  .next { s with limited := if 3600 < watts then true else if watts < 3400 then false else s.limited }

/-- THERMAL_TRIP (R19, R442): all issue stops until reset, and the trip is reported to the driver and the board management
controller. -/
def execThermalTrip (die : Nat) (s : State) : Out :=
  if 8 ≤ die then .refused (.notEnabled "THERMAL_TRIP")
  else .next (((({ s with halted := true }.setReg 0 0x10 3).report 4 die 0 0 0 0 0 0).fireEquinox 6).tellBmc 1)

/-! Links: 3 d + j is Pontoon port j of die d, 32 + p the fabric port on plane p. The two ports of a Pontoon link name one link. -/

/-- The port has a link (Table 1.1, R21). -/
def linkOk (port : Nat) : Bool :=
  (decide (port < 24) && (farPort port).isSome) || (decide (32 ≤ port) && decide (port < 96))

def State.link (s : State) (port : Nat) : Nat × Nat × Bool := fget (0, 0, false) s.links (linkOf port)
def State.setLink (s : State) (port : Nat) (x : Nat × Nat × Bool) : State :=
  { s with links := fset (0, 0, false) s.links (linkOf port) x }

/-- The key of a count of the current 1 ms window: a die, a source of Table 28.2 and its SRCARG. -/
def tallyKey (die src arg : Nat) : Nat := (16 * die + src) * 256 + arg
/-- What the current 1 ms window counts for a monitor's source. -/
def State.tallied (s : State) (die src arg : Nat) : Nat := fget 0 s.tally (tallyKey die src arg)
def State.tallyUp (s : State) (die src arg : Nat) : State :=
  { s with tally := fset 0 s.tally (tallyKey die src arg) (s.tallied die src arg + 1) }

/-- A replay or a retrain of a link is counted for the port at which it is found (R426, source 7; log entry 66). -/
def State.tallyLink (s : State) (port : Nat) : State :=
  if port < 24 then s.tallyUp (port / 3) 7 (port % 3) else s.tallyUp ((port - 32) / 8) 7 (3 + (port - 32) % 8)

/-- LINK_REPLAY (R426): the sender sends again; whether the same flit is meant is the link's. After 8 replays of one flit in a row the
link retrains before anything else. -/
def execLinkReplay (link : Nat) (s : State) : Out :=
  let (n, f, down) := s.link link
  if !linkOk link || down || decide (8 ≤ n) then .refused (.notEnabled "LINK_REPLAY")
  else .next ((s.tallyLink link).setLink link (if Config.unstated s.fresh % 2 = 0 then n + 1 else 1, f, down))

/-- The number of a kind of unit's errors at which it is lastingly faulty: what secure firmware has set, or the default of Table 28.4
(R440). -/
def State.limit (s : State) (kind : Nat) : Nat :=
  match fget 0 s.limits kind with
  | 0 => if kind = 0 then 8 else if kind = 1 then 16 else if kind = 2 then 2 else 3
  | n => n

/-- A link's failed retrain makes it lastingly faulty or takes it down: each is reported, in ascending kind, to the driver and to the
board management controller, and fires Equinox (R440 to R442). The port that found it names the link. -/
def State.linkReports (s : State) (port : Nat) (down lasting : Bool) : State :=
  let unit := if port < 24 then port else port - 32
  let one (s : State) (kind : Nat) : State :=
    if kind = 3 then (if down then s.report 3 unit 0 0 0 0 0 0 else s) else if lasting then s.report 2 unit 0 0 0 0 0 0 else s
  let s1 := ((if Config.reportKind 3 % 256 < Config.reportKind 2 % 256 then [3, 2] else [2, 3]) : List Nat).foldl one s
  let s2 := if down then (s1.tellBmc 3).fireEquinox (if port < 24 then 5 else 7) else s1
  if lasting then (s2.tellBmc 4).fireEquinox 4 else s2

/-- What a link that is down stops: a Pontoon link the package (R427), a fabric port its plane, which FABDOWN marks (R428). -/
def State.linkDown (s : State) (link f : Nat) : State :=
  let s1 := s.setLink link (0, f, true)
  if link < 24 then { s1 with halted := true }.setReg 0 0x10 4
  else (s1.setReg 0 0x6020 (s1.reg 0 0x6020 ||| dw (2 ^ (link - 32)))).raiseShared 3

/-- LINK_RETRAIN (R426 to R428, R440): after 8 replays of one flit the link retrains; the third failure in a window takes it down, and
the one that meets the condition of Table 28.4 makes it lastingly faulty. -/
def execLinkRetrain (link : Nat) (ok : Bool) (s : State) : Out :=
  let (n, f, down) := s.link link
  let s := s.tallyLink link
  if !linkOk link || down || decide (n < 8) then .refused (.notEnabled "LINK_RETRAIN")
  else if ok then .next (s.setLink link (0, f, false))
  else
    .next ((if 2 ≤ f then s.linkDown link (f + 1) else s.setLink link (n, f + 1, false)).linkReports link (decide (2 ≤ f))
      (f + 1 == s.limit 3))

/-- CROSSBAR_AGING (R338): a request of an input port for an output port (Table 1.2) has waited 256 crossbar cycles and is treated as
tag 0 from now on. Which request a column grants is timing alone: every order of performance stands open to the step (R339). -/
def execCrossbarAging (die port input : Nat) (s : State) : Out :=
  let k := (die * 72 + port) * 72 + input
  if 8 ≤ die ∨ (portUnit die port).isNone ∨ (portUnit die input).isNone then .refused (.notEnabled "CROSSBAR_AGING")
  else .next { s with aged := if s.aged.contains k then s.aged else s.aged ++ [k] }

/-! Vigil. -/

/-- VIGIL_CLR (R436): a control write with CLR resets registers +0x08 to +0x5F. -/
def execVigilClr (m : Nat) (v : BitVec 64) (s : State) : Out :=
  if 32 ≤ m ∨ !v.getLsbD 1 then .refused (.notEnabled "VIGIL_CLR")
  else
    let s1 := s.setReg 0 (vigilReg m 0) (vigilControl (s.reg 0 (vigilReg m 0)) v)
    .next ((List.range 11).foldl (fun s j => s.setReg 0 (vigilReg m (8 + 8 * j)) (if j = 0 then 0xFFFFFFFF#64 else 0)) s1)

/-- VIGIL_SAMPLE (R437): a sample of a source that is measured outside the model: the queues of a slice, the waits of the crossbar, the
power limit and the temperature (sources 2, 3, 5 and 8; log entry 111). Those of sources 1 and 4 are taken at a reply and at an issue,
those of sources 6 and 7 at the end of each 1 ms window. -/
def execVigilSample (m v : Nat) (s : State) : Out :=
  if 32 ≤ m ∨ 2 ^ 32 ≤ v ∨ !([2, 3, 5, 8].contains (s.vigilSrc m)) then .refused (.notEnabled "VIGIL_SAMPLE")
  else .next (s.vigilTake m v)

/-- A 1 ms window ends (R436): each monitor of a source 6 or 7 takes the window's count of its unit, and the counts return to zero. -/
def State.vigilWindow (s : State) : State :=
  { (List.range 32).foldl (fun s m =>
      let src := s.vigilSrc m
      if src = 6 ∨ src = 7 then
        s.vigilTake m (min (s.tallied (m / 4) src (field (s.reg 0 (vigilReg m 0)).toNat 16 8)) (2 ^ 32 - 1))
      else s) s with tally := [] }

/-! Equinox. -/

/-- EQTRIG (R439): any write fires Equinox from software. -/
def execEqtrig (_v : BitVec 64) (s : State) : Out := .next (s.fireEquinox 0)

/-- The blocks of the package as they stand in the buffer: kind, die and number within the die. -/
def snapshotBlocks : List (Nat × Nat × Nat) :=
  [(0, 96), (1, 12), (2, 24), (3, 4), (4, 1), (5, 8), (6, 4)].flatMap fun k =>
    (List.range 8).flatMap fun die => (List.range k.2).map fun b => (k.1, die, b)

/-- The crews of a team slot for which a predicate holds, bit CREWID. -/
def crewMask (slot : Nat) (p : Nat → Bool) : Nat := ((List.range 16).map fun c => if p (16 * slot + c) then 2 ^ c else 0).sum

/-- What R438 names of a core: its ready, blocked and parked crews, ST of its slot entries and the step of the MMA in progress, each
for both team slots in turn. -/
def State.coreContents (s : State) (core : Nat) : List Nat :=
  let parked (k : Nat) : Bool := match (s.crewAt k).block with
    | some (.parked _) => true
    | _ => false
  let blocked (k : Nat) : Bool := !parked k && ((s.crewAt k).block.isSome || (s.at_ k).blockedOnStatus)
  let ready (k : Nat) : Bool := (s.at_ k).canIssue
  let both (f : Nat → Nat) : List Nat := [f (2 * core), f (2 * core + 1)]
  both (crewMask · ready) ++ both (crewMask · blocked) ++ both (crewMask · parked) ++ both (fun k => (s.slotAt k).st) ++
    both fun k => ((s.teamAt k).matrix.head?.map (·.step)).getD 0

/-- What R438 names of a cluster: its task queue's depth, the leases it holds, and its parked continuations. -/
def State.clusterContents (s : State) (cl : Nat) : List Nat :=
  [(s.clusterAt cl).tasks.length, (s.clusterAt cl).leases.length,
    (s.crews.filter fun e => clusterOf (slotOf e.1) == cl && (match e.2.block with
      | some (.parked _) => true
      | _ => false)).length]

/-- What R438 names of the copy engines of a die: the depths of the queues and the bytes that the command in progress has done, for every
team of the die; which engine serves which queue the spec does not say (log entry 18). -/
def State.copyContents (s : State) (die : Nat) : List Nat :=
  (s.teams.filter fun e => dieOf e.1 == die).flatMap fun e =>
    (List.range 8).flatMap fun q => [((e.2.queue q).length), (((e.2.queue q).head?).map (·.progress)).getD 0]

/-- Word 2 + j of the snapshot record of a block: a monitor's words, what R438 names of a core, a cluster or a copy engine, and free
values for the queues, ages and credits that are timing, and where it names no word (log entry 18). -/
def State.snapWord (s : State) (x : Snap) (i kind die n j : Nat) : DWord :=
  let at_ : State := { s with crews := x.crews, teams := x.teams, slots := x.slots, clusters := x.clusters }
  match kind with
  | 0 => Config.snapshotWord 0 (at_.coreContents (96 * die + n)) j
  | 1 => Config.snapshotWord 1 (at_.clusterContents (12 * die + n)) j
  | 3 => Config.snapshotWord 3 (n :: at_.copyContents die) j
  | _ =>
    if kind = 6 ∧ j < 3 then x.monitors.getD (3 * (4 * die + n) + j) 0
    else dw (Config.unstated (s.fresh + 6 * i + j))

/-- A snapshot record (R438). -/
def State.snapshot (s : State) (x : Snap) (i : Nat) (b : Nat × Nat × Nat) : List Byte :=
  let (kind, die, n) := b
  bytesOf 8 (Config.blockKind kind % 256 * 2 ^ 56 + die * 2 ^ 48 + n) ++ bytesOf 8 (s.reg 0 0x8010).toNat ++
    (List.range 6).flatMap fun j => bytesOf 8 (s.snapWord x i kind die n j).toNat

/-- EQUINOX_BUFFER_DONE (R439): the snapshot buffer is written, EQDONE rises, and vector 4 with it. Records that fall where no
memory is are lost (log entry 27). -/
def execEquinoxBufferDone (s : State) : Out :=
  match s.capture with
  | none => .refused (.notEnabled "EQUINOX_BUFFER_DONE")
  | some x =>
    let base := (s.reg 0 0x8000).toNat / 4096 * 4096
    let s1 := (List.range snapshotBlocks.length).foldl (fun s i =>
      s.storePhys (base + 64 * i) (s.snapshot x i (snapshotBlocks.getD i (0, 0, 0)))) s
    .next (({ s1 with capture := none }.setReg 0 0x8020 1).raiseShared 4)

/-! Storage errors and their windows (R417, R440). -/

/-- The key of a unit's counts: kind 0 core, 1 cluster, 2 DRAM page. -/
def errorKey (kind unit : Nat) : Nat := kind * 2 ^ 40 + unit

/-- The unit's counts meet its condition of Table 28.4, with its threshold: errors that could be corrected, and uncorrectable ones in
two consecutive windows or, in a DRAM page, in one. -/
def lasting (limit kind : Nat) (e : Nat × Bool × Bool) : Bool :=
  decide (limit ≤ e.1) || (e.2.1 && (kind == 2 || e.2.2))

/-- An error of a core, a cluster or a DRAM page is counted for source 6, corrected or not (R417, R436). -/
def State.tallyError (s : State) (kind unit : Nat) : State :=
  match kind with
  | 0 => s.tallyUp (unit / 96) 6 (unit % 96)
  | 1 => s.tallyUp (unit / 12) 6 (96 + unit % 12)
  | _ => s.tallyUp (stackOf (4096 * unit)) 6 108

/-- A unit is classed as lastingly faulty: reported, and its cores to be fenced, or its frame on the list of retired pages. -/
def State.classify (s : State) (kind unit : Nat) : State :=
  let s1 := ((s.report 2 (if kind = 2 then 0 else unit) (if kind = 2 then unit * 4096 else 0) 0 0 0 0 0).fireEquinox 4).tellBmc 4
  match kind with
  | 0 => { s1 with fencing := if s1.fencing.contains unit then s1.fencing else s1.fencing ++ [unit] }
  | 1 => { s1 with fencing := s1.fencing ++ ((List.range 8).map (8 * unit + ·)).filter fun c => !s1.fencing.contains c }
  | _ => { s1 with retired := if s1.retired.contains unit then s1.retired else s1.retired ++ [unit] }

/-- An error of a unit is detected: it counts in the current window, and the first that meets the unit's condition classes it. -/
def State.countError (s : State) (kind unit : Nat) (bad : Bool) : State :=
  let k := errorKey kind unit
  let old := fget (0, false, false) s.errors k
  let new := if bad then (old.1, true, old.2.2) else (old.1 + 1, old.2)
  let s1 : State := { s with errors := fset (0, false, false) s.errors k new }
  let s2 := (if bad then s1.fireEquinox 3 else s1).tallyError kind unit
  if lasting (s.limit kind) kind new && !lasting (s.limit kind) kind old then s2.classify kind unit else s2

/-- Secure firmware clears a core's fence (R432): its entries are free, its bit of CFGCORE falls, and vector 3 is raised. -/
def State.unfence (s : State) (core : Nat) : State :=
  if !fget false s.fenced core then s
  else
    let s1 := [2 * core, 2 * core + 1].foldl (fun s k => s.setSlotAt k { s.slotAt k with st := 0 }) s
    let off := 0x6100 + 8 * (core / 64)
    ({ s1 with fenced := fset false s1.fenced core false }.setReg 0 off (s1.reg 0 off &&& ~~~(dw (2 ^ (core % 64))))).raiseShared 3

/-- A storage error has the effect of Table 25.1: one that is corrected has none, an uncorrectable one poisons its granule, halts the
crew that reads, or ends a lease and poisons its line; a translation buffer's entry is discarded; text is copied again. It counts
for its unit in Table 28.4. An error of a die's scratchpad, for which Table 28.2 has no unit, counts with the die's stack (log entry
66). -/
def State.strike (s : State) (u : Upset) : State :=
  match u with
  | .memory g bad =>
    if memTop / 16 ≤ g then s
    else if bad then ({ s with poison := fset false s.poison g true }).countError 2 (g / 256) true
    else if s.struck.contains g then s.tallyError 2 (g / 256)
    else ({ s with struck := s.struck ++ [g] }).countError 2 (g / 256) false
  | .part slot level g bad =>
    let p := s.partAt slot level
    if p.size / 16 ≤ g then s
    else
      let s1 := if bad then s.setPartAt slot level { p with poison := fset false p.poison g true } else s
      match level with
      | 0 => s1.countError 0 (coreOf slot) bad
      | 1 => s1.countError 1 (clusterOf slot) bad
      | _ => (if bad then s1.fireEquinox 3 else s1).tallyUp (dieOf slot) 6 108
  | .register k bad =>
    if (s.crewAt k).bound then (if bad then (s.at_ k).haltCrew.at_ s.cur else s).countError 0 (coreOf (slotOf k)) bad else s
  | .text cl bad => s.countError 1 cl bad
  | .walk cl k =>
    let c := s.clusterAt cl
    if k < c.tlb.length then (s.setClusterAt cl { c with tlb := c.tlb.eraseIdx k }).tallyError 1 cl else s
  | .lease cl line bad =>
    let c := s.clusterAt cl
    if c.leases.any fun l => l.line == line then
      (if bad then
        { s.setClusterAt cl { c with leases := c.leases.filter fun l => l.line != line } with
          poison := setFlags s.poison ((List.range 4).map (4 * line + ·)) true }
       else s).countError 1 cl bad
    else s
  | .unfence core => s.unfence core

/-- ERROR_WINDOW_END (R440): a window of cores (0), clusters (1), DRAM pages (2) or links (3) ends; the counts return to
zero, and an uncorrectable error counts on for the next window. The links' window of 1 ms is also that of the Vigil sources 6 and 7. -/
def execErrorWindowEnd (kind : Nat) (s : State) : Out :=
  if 3 < kind then .refused (.notEnabled "ERROR_WINDOW_END")
  else if kind = 3 then
    .next { s.vigilWindow with links := s.links.foldl (fun m e => fset (0, 0, false) m e.1 (e.2.1, 0, e.2.2.2)) [] }
  else
    let mine (k : Nat) : Bool := k / 2 ^ 40 == kind
    .next { s with
      errors := s.errors.foldl (fun m e => fset (0, false, false) m e.1 (if mine e.1 then (0, false, e.2.2.1) else e.2)) []
      struck := if kind = 2 then [] else s.struck }

/-! The health summary (R442). -/

/-- I3C_HEALTH_READ: BOOTSTAT, the fenced-core map, the retired pages, the links down and the greatest junction temperature,
one after the other from the lowest bit on. -/
def execI3cHealthRead (s : State) : Out :=
  let down := (s.links.filter fun e => e.2.2.2).length
  let v := (s.reg 0 0x10).toNat % 8 + s.fencedMap % 2 ^ 768 * 2 ^ 64 + s.retired.length % 2 ^ 64 * 2 ^ 832 + down * 2 ^ 896 +
    Config.unstated s.fresh % 2 ^ 64 * 2 ^ 960
  .next { s with hostRead := BitVec.ofNat 2112 v }

end Sys2Proof.Machine
end

