-- ==== Sys2Proof/Machine/Rational.lean ====
section
/-! DEFINITION. Exact-rational arithmetic on Hensel codes (spec/05 R121 to R124, spec/12 R291 to R293). -/
namespace Sys2Proof.Machine

/-- c of Table 5.14: the prime is 2^31 - c. -/
def primeOffsets : List Nat := [1, 19, 61, 69, 85, 99, 105, 151, 159, 171, 225, 249, 295, 325, 379, 399]

/-- p and k of PSEL (R121). -/
def Crew.prime (c : Crew) : Nat := 2 ^ 31 - primeOffsets.getD (c.psel.toNat % 16) 1
def Crew.kq (c : Crew) : Nat := field c.psel.toNat 4 3 + 1
/-- M = p^k. -/
def Crew.modulus (c : Crew) : Nat := c.prime ^ c.kq
/-- Hmax(k) (R123). -/
def hmax (k : Nat) : Nat := 4 * k - 1

/-- Digit i of a quad in a lane (R122). -/
def Crew.digit (c : Crew) (q l i : Nat) : Nat := (c.getV (q + i) l).toNat % 2 ^ 31
/-- The residue of a quad in a lane. -/
def Crew.residue (c : Crew) (q l : Nat) : Nat :=
  ((List.range c.kq).foldl (fun v i => v + c.digit q l i * c.prime ^ i) 0) % c.modulus
/-- The height of a quad in a lane: bit i is bit 31 of register i. -/
def Crew.height (c : Crew) (q l : Nat) : Nat :=
  (List.range 4).foldl (fun v i => v + (c.getV (q + i) l).toNat / 2 ^ 31 * 2 ^ i) 0

/-- Euclid's algorithm on r0, r1 with the coefficients t0, t1, while the second remainder exceeds a bound. -/
def euclid (bound : Nat) : Nat → Nat → Nat → Int → Int → Nat × Nat × Int × Int
  | 0, r0, r1, t0, t1 => (r0, r1, t0, t1)
  | n + 1, r0, r1, t0, t1 =>
    if bound < r1 then euclid bound n r1 (r0 % r1) t1 (t0 - (r0 / r1 : Nat) * t1) else (r0, r1, t0, t1)

/-- The inverse of b modulo m, for b prime to m: the last nonzero remainder is 1. -/
def invMod (b m : Nat) : Nat :=
  let (_, _, t0, _) := euclid 0 256 m (b % m) 0 1
  (t0 % (m : Int)).toNat

/-- bitlen(v) (R123). -/
def bitlen (v : Int) : Nat := if v = 0 then 0 else v.natAbs.log2 + 1

/-- A result's register words (WriteQuad). -/
def quadWord (c : Crew) (x h i : Nat) : Word :=
  w32 ((if i < c.kq then x / c.prime ^ i % c.prime else 0) + min h 15 / 2 ^ i % 2 * 2 ^ 31)

/-- Write quads in lanes, and set OV where a height exceeds the bound (R292). -/
def State.putQuads (s : State) (d : BitVec 7) (f : Nat → Nat × Nat) : State :=
  let c := s.crew
  let ls := s.active
  let ov := ls.any fun l => decide (hmax c.kq < (f l).2)
  let c1 := (List.range 4).foldl (fun c' i => c'.setVs (d.toNat + i) ls fun l => quadWord c (f l).1 (f l).2 i) c
  s.setCrew { c1 with rxf := if ov then c1.rxf ||| 1 else c1.rxf }

def State.quadD (s : State) (d : BitVec 7) : Bool := s.quadOk d.toNat
def State.quadSrc (s : State) (a : BitVec 8) : Bool := s.quadOk a.toNat

/-- The non-invertible trap in lanes (R292). -/
def badDivisor (ls : List Nat) : Trap := { code := 0x0E, lanes := maskOf ls }

/-- A dyadic operation on residues and heights (Table 5.15). -/
def quadOp (d : BitVec 7) (a b : BitVec 8) (f : Crew → Nat → Nat → Nat) (hf : Nat → Nat → Nat) (s : State) : Out :=
  perform { srcs := [a, b], words := 1, ok := s.quadD d && s.quadSrc a && s.quadSrc b } s fun s =>
    let c := s.crew
    .done (s.putQuads d fun l =>
      (f c (c.residue a.toNat l) (c.residue b.toNat l), hf (c.height a.toNat l) (c.height b.toNat l)))

/-- QADD. -/
def execQadd (d : BitVec 7) (a b : BitVec 8) (s : State) : Out :=
  quadOp d a b (fun c x y => (x + y) % c.modulus) (fun h k => h + k + 1) s
/-- QSUB. -/
def execQsub (d : BitVec 7) (a b : BitVec 8) (s : State) : Out :=
  quadOp d a b (fun c x y => (x + c.modulus - y) % c.modulus) (fun h k => h + k + 1) s
/-- QMUL. -/
def execQmul (d : BitVec 7) (a b : BitVec 8) (s : State) : Out :=
  quadOp d a b (fun c x y => x * y % c.modulus) (fun h k => h + k) s

/-- QDIV. -/
def execQdiv (d : BitVec 7) (a b : BitVec 8) (s : State) : Out :=
  perform { srcs := [a, b], words := 1, ok := s.quadD d && s.quadSrc a && s.quadSrc b } s fun s =>
    let c := s.crew
    let bad := s.active.filter fun l => c.digit b.toNat l 0 % c.prime == 0
    if !bad.isEmpty then .trap (badDivisor bad)
    else
      .done (s.putQuads d fun l =>
        (c.residue a.toNat l * invMod (c.residue b.toNat l) c.modulus % c.modulus, c.height a.toNat l + c.height b.toNat l))

/-- QNEG. -/
def execQneg (d : BitVec 7) (a : BitVec 8) (s : State) : Out :=
  perform { srcs := [a], words := 1, ok := s.quadD d && s.quadSrc a } s fun s =>
    let c := s.crew
    .done (s.putQuads d fun l => ((c.modulus - c.residue a.toNat l) % c.modulus, c.height a.toNat l))

/-- QENC. -/
def execQenc (d : BitVec 7) (a b : BitVec 8) (s : State) : Out :=
  perform { srcs := [a, b], words := 1, ok := s.quadD d && s.pairOk a && s.pairOk b } s fun s =>
    let c := s.crew
    let num (l : Nat) : Int := (s.pair a l).toInt
    let den (l : Nat) : Int := (s.pair b l).toInt
    let bad := s.active.filter fun l => den l % (c.prime : Int) == 0
    if !bad.isEmpty then .trap (badDivisor bad)
    else
      .done (s.putQuads d fun l =>
        let m : Int := c.modulus
        ((num l % m).toNat * invMod (den l % m).toNat c.modulus % c.modulus, (max (bitlen (num l)) (bitlen (den l)) + 3) / 4))

/-- The floor of a square root by bits, from a bit down. -/
def rootFrom (n : Nat) : Nat → Nat → Nat
  | 0, r => r
  | k + 1, r => rootFrom n k (if (r + 2 ^ k) * (r + 2 ^ k) ≤ n then r + 2 ^ k else r)

/-- a and b that QDEC finds for a residue, and whether it finds them (R124). -/
def decodeRational (m x : Nat) : Int × Int × Bool :=
  let n := rootFrom ((m - 1) / 2) 64 0
  let (_, r1, _, t1) := euclid n 256 m x 0 1
  if t1.natAbs ≤ n ∧ Nat.gcd r1 t1.natAbs = 1 then
    if 0 < t1 then ((r1 : Int), t1, true) else (-(r1 : Int), -t1, true)
  else (0, 0, false)

/-- QDEC. -/
def execQdec (d : BitVec 7) (a : BitVec 8) (s : State) : Out :=
  perform { srcs := [a], words := 1, ok := s.quadD d && s.quadSrc a } s fun s =>
    let c := s.crew
    let ls := s.active
    let r (l : Nat) : Int × Int × Bool := decodeRational c.modulus (c.residue a.toNat l)
    let c1 := (c.setPairs d.toNat ls fun l => BitVec.ofInt 64 (r l).1).setPairs (d.toNat + 2) ls fun l => BitVec.ofInt 64 (r l).2.1
    .done (s.setCrew { c1 with rxf := if ls.all fun l => (r l).2.2 then c1.rxf else c1.rxf ||| 1 })

end Sys2Proof.Machine
end

