-- ==== Sys2Proof/Machine/Scalar.lean ====
section
/-! DEFINITION. Scalar arithmetic of the uniform pipe (spec/09 R210 to R214, R228, R229, R233). -/
namespace Sys2Proof.Machine

/-- A uniform instruction D := f a b (R210, R212). -/
def scalar2 (s : State) (nw : Bool) (d : BitVec 7) (a b : BitVec 8) (f : DWord → DWord → DWord) : Out :=
  perform { srcs := [a, b], up := 1, words := 1, ok := dS d && isUniform a && isUniform b } s fun s =>
    .done (s.putS nw d (f (s.uni a) (s.uni b)))

/-- A uniform instruction D := f a. -/
def scalar1 (s : State) (nw : Bool) (d : BitVec 7) (a : BitVec 8) (f : DWord → DWord) : Out :=
  perform { srcs := [a], up := 1, words := 1, ok := dS d && isUniform a } s fun s =>
    .done (s.putS nw d (f (s.uni a)))

/-- An SI form D := f D imm16 (R213). -/
def scalarImm (s : State) (nw : Bool) (d : BitVec 7) (imm : BitVec 16) (f : DWord → BitVec 16 → DWord) : Out :=
  perform { up := 1, words := 1, ok := dS d } s fun s =>
    .done (s.putS nw d (f (s.crew.getS (sNum d)) imm))

/-- Index of the least significant set bit below n; 64 when there is none (Table 9.2, R228). -/
def firstSet (v : DWord) : Nat := ((List.range 64).find? (fun k => v.getLsbD k)).getD 64

def execSadd (nw : Bool) (d : BitVec 7) (a b : BitVec 8) (s : State) : Out := scalar2 s nw d a b fun x y => x + y
def execSsub (nw : Bool) (d : BitVec 7) (a b : BitVec 8) (s : State) : Out := scalar2 s nw d a b fun x y => x - y
def execSmul (nw : Bool) (d : BitVec 7) (a b : BitVec 8) (s : State) : Out := scalar2 s nw d a b fun x y => x * y
def execSand (nw : Bool) (d : BitVec 7) (a b : BitVec 8) (s : State) : Out := scalar2 s nw d a b fun x y => x &&& y
def execSor (nw : Bool) (d : BitVec 7) (a b : BitVec 8) (s : State) : Out := scalar2 s nw d a b fun x y => x ||| y
def execSxor (nw : Bool) (d : BitVec 7) (a b : BitVec 8) (s : State) : Out := scalar2 s nw d a b fun x y => x ^^^ y
def execSshl (nw : Bool) (d : BitVec 7) (a b : BitVec 8) (s : State) : Out := scalar2 s nw d a b fun x y => if y.toNat < 64 then x <<< y.toNat else 0
def execSshr (nw : Bool) (d : BitVec 7) (a b : BitVec 8) (s : State) : Out := scalar2 s nw d a b fun x y => if y.toNat < 64 then x >>> y.toNat else 0
def execSsar (nw : Bool) (d : BitVec 7) (a b : BitVec 8) (s : State) : Out := scalar2 s nw d a b fun x y => x.sshiftRight (min y.toNat 63)
def execSmin (nw : Bool) (d : BitVec 7) (a b : BitVec 8) (s : State) : Out := scalar2 s nw d a b fun x y => if x.sle y then x else y
def execSmax (nw : Bool) (d : BitVec 7) (a b : BitVec 8) (s : State) : Out := scalar2 s nw d a b fun x y => if x.sle y then y else x
def execSmov (nw : Bool) (d : BitVec 7) (a : BitVec 8) (s : State) : Out := scalar1 s nw d a fun x => x
def execSpopc (nw : Bool) (d : BitVec 7) (a : BitVec 8) (s : State) : Out := scalar1 s nw d a fun x => dw (popc x.toNat 64)
def execSclz (nw : Bool) (d : BitVec 7) (a : BitVec 8) (s : State) : Out := scalar1 s nw d a fun x => dw (leadingZeros 64 x.toNat)
def execSffs (nw : Bool) (d : BitVec 7) (a : BitVec 8) (s : State) : Out := scalar1 s nw d a fun x => dw (firstSet x)
def execSaddi (nw : Bool) (d : BitVec 7) (imm : BitVec 16) (s : State) : Out :=
  scalarImm s nw d imm fun x i => x + i.signExtend 64
def execSmovi (nw : Bool) (d : BitVec 7) (imm : BitVec 16) (s : State) : Out :=
  scalarImm s nw d imm fun _ i => i.signExtend 64
def execSmovl (nw : Bool) (d : BitVec 7) (imm : BitVec 16) (s : State) : Out :=
  scalarImm s nw d imm fun x i => x <<< 16 ||| i.setWidth 64
def execSmovh (nw : Bool) (d : BitVec 7) (imm : BitVec 16) (s : State) : Out :=
  scalarImm s nw d imm fun x i => (x &&& 0xFFFFFFFFFFFF#64) ||| (i.setWidth 64 <<< 48)

/-- SCMP (R214). -/
def execScmp (nw : Bool) (d : BitVec 7) (a b : BitVec 8) (cond : BitVec 4) (s : State) : Out :=
  perform { srcs := [a, b], up := 1
            ok := dS d && isUniform a && isUniform b && (intCond cond 0#64 0#64).isSome } s fun s =>
    .done (s.putS nw d (if (intCond cond (s.uni a) (s.uni b)).getD false then 1 else 0))

/-- ELECT (R228). -/
def execElect (nw : Bool) (d : BitVec 7) (a : BitVec 8) (s : State) : Out :=
  perform { srcs := [a], up := 1, words := 1, ok := dS d && isUniform a } s fun s =>
    .done (s.putS nw d (dw (firstSet (((s.uni a).setWidth 32 &&& s.actMask).setWidth 64))))

/-- YIELD (R229): the crew stands last in the round-robin order. -/
def execYield (s : State) : Out :=
  perform { words := 1 } s fun s => .done (s.setCrew { s.crew with lastL := s.fresh, lastS := s.fresh })

/-- NOP (R233). -/
def execNop (s : State) : Out := perform { words := 1 } s fun s => .done s

end Sys2Proof.Machine
end

