-- ==== Sys2Proof/Machine/Tree.lean ====
section
/-! DEFINITION. Token-tree files (spec/12 R307 to R309). -/
namespace Sys2Proof.Machine

/-- Fields of a node (Table 12.10). -/
def nodeParent (n : DWord) : Nat := field n.toNat 0 8
def nodeDepth (n : DWord) : Nat := field n.toNat 8 8
def nodeToken (n : DWord) : Nat := field n.toNat 16 32
/-- A valid node from its fields. -/
def nodeOf (parent depth token : Nat) (acc : Bool) : DWord :=
  dw (parent + depth * 2 ^ 8 + token % 2 ^ 32 * 2 ^ 16 + 2 ^ 48 + (if acc then 2 ^ 49 else 0))

def Team.node (t : Team) (i : Nat) : DWord := fget 0 t.tree i

/-- The token-tree trap. -/
def State.treeTrap (s : State) : Trap := { code := 0x10, lanes := s.actMask }

/-- A V register in a lane field of these instructions (R308). -/
def State.ttLane (s : State) (a : BitVec 8) : Bool := s.vSrcOk a

/-- TTCLR. -/
def execTtclr (a : BitVec 8) (s : State) : Out :=
  perform { srcs := [a], ends := true, ok := s.team.ttf && isUniform a } s fun s =>
    .done (s.setTeam { s.team with tree := [], count := 0, rootpos := (s.uni a).setWidth 32 })

/-- Append nodes, one for each parent and token in order; none where a rule of R309 is broken. -/
def Team.append (t : Team) : List (Nat × Nat) → Option Team
  | [] => some t
  | (parent, token) :: more =>
    if 256 ≤ t.count then none
    else if t.count = 0 then Team.append { t with tree := fset 0 t.tree 0 (nodeOf 0 0 token false), count := 1 } more
    else
      let depth := nodeDepth (t.node (parent % 256)) + 1
      if t.count ≤ parent ∨ 255 < depth then none
      else Team.append { t with tree := fset 0 t.tree t.count (nodeOf parent depth token false), count := t.count + 1 } more

/-- TTADD: the parents are A read as unsigned, so a parent of 256 or more is never below its node. -/
def execTtadd (d : BitVec 7) (a b : BitVec 8) (s : State) : Out :=
  perform { srcs := [a, b], ends := true, up := 1, ok := s.team.ttf && dS d && s.ttLane a && s.ttLane b } s fun s =>
    match s.team.append (s.active.map fun l => ((s.lane a l).toNat, (s.lane b l).toNat)) with
    | none => .trap s.treeTrap
    | some t => .done ((s.setTeam t).putS false d (dw t.count))

/-- Node c is node r or one of its ancestors: walk up from r. -/
def Team.ancestor (t : Team) (c : Nat) : Nat → Nat → Bool
  | 0, r => r == c
  | n + 1, r => r == c || (r != 0 && t.ancestor c n (nodeParent (t.node r)))

/-- The mask of row r of TTANC. -/
def Team.ancMask (t : Team) (r0 c0 r : Nat) : Nat :=
  if t.count ≤ r0 + r then 0
  else (List.range 64).foldl (fun m c =>
    if c0 + c < t.count ∧ t.ancestor (c0 + c) 256 (r0 + r) then m + 2 ^ c else m) 0

/-- TTANC: it waits for the operations issued before it that name the tile (R262). -/
def execTtanc (a b : BitVec 8) (s : State) : Out :=
  let n := b.toNat
  perform { srcs := [a], ok := s.team.ttf && isUniform a && s.tileOk n && tcFmt (s.team.tcOf n) == 15 } s fun s =>
    let t := s.team
    if !t.clear t.issues { writes := [n] } then .unready
    else
      let v := (s.uni a).toNat
      .done (s.setTeam ((List.range (tcRows (t.tcOf n))).foldl (fun t' r =>
        t'.setTileBytes n (256 * r) (bytesOf 8 (t.ancMask (field v 0 8) (field v 8 8) r))) t))

/-- TTPOS. -/
def execTtpos (d : BitVec 7) (a : BitVec 8) (sel : BitVec 1) (s : State) : Out :=
  perform { srcs := [a], lp := 1, ok := s.team.ttf && s.dV d && s.ttLane a } s fun s =>
    let t := s.team
    .done (s.putLane false false d fun l =>
      let i := (s.lane a l).toNat
      if t.count ≤ i then 0xFFFFFFFF
      else if sel = 0 then dw ((t.rootpos.toNat + nodeDepth (t.node i)) % 2 ^ 32)
      else dw (nodeToken (t.node i)))

/-- The path from the root to a node. -/
def Team.path (t : Team) : Nat → Nat → List Nat
  | 0, v => [v]
  | n + 1, v => if nodeDepth (t.node v) = 0 then [v] else t.path n (nodeParent (t.node v)) ++ [v]

/-- TTPRUNE. -/
def execTtprune (d : BitVec 7) (a c : BitVec 8) (s : State) : Out :=
  perform { srcs := [a, c], ends := true, up := 1
            ok := s.team.ttf && dS d && isUniform a && (c == 0x88#8 || s.ttLane c) } s fun s =>
    let t := s.team
    let v := (s.uni a).toNat
    if t.count ≤ v then .trap s.treeTrap
    else
      let toks := (t.path 256 v).map fun i => nodeToken (t.node i)
      let n := toks.length
      let tree := (List.range n).foldl (fun m i => fset 0 m i (nodeOf (i - 1) i (toks.getD i 0) true)) []
      let s1 := s.setTeam { t with tree := tree, count := n }
      let s2 := if c == 0x88#8 then s1
        else s1.setCrew (s1.crew.setVs c.toNat (s.active.filter fun l => decide (l < n)) fun l => w32 (toks.getD l 0))
      .done (s2.putS false d (dw n))

end Sys2Proof.Machine
end

