-- ==== Sys2Proof/Machine/Dispatch.lean ====
section
/-! DEFINITION. The dispatch: one arm per instruction or event. -/
namespace Sys2Proof.Machine

def exec (i : Instr) (s : State) : Host.Outcome State Fault Refusal :=
  match i with
  | .iadd nw d a b => Sys2Proof.Machine.execIadd nw d a b s
  | .iaddExt nw d a fmt b => Sys2Proof.Machine.execIaddExt nw d a fmt b s
  | .isub nw d a b => Sys2Proof.Machine.execIsub nw d a b s
  | .isubExt nw d a fmt b => Sys2Proof.Machine.execIsubExt nw d a fmt b s
  | .imul nw d a b => Sys2Proof.Machine.execImul nw d a b s
  | .imulExt nw d a fmt b => Sys2Proof.Machine.execImulExt nw d a fmt b s
  | .imulhs nw d a b => Sys2Proof.Machine.execImulhs nw d a b s
  | .imulhsExt nw d a fmt b => Sys2Proof.Machine.execImulhsExt nw d a fmt b s
  | .imulhu nw d a b => Sys2Proof.Machine.execImulhu nw d a b s
  | .imulhuExt nw d a fmt b => Sys2Proof.Machine.execImulhuExt nw d a fmt b s
  | .imad nw d a b c => Sys2Proof.Machine.execImad nw d a b c s
  | .imin nw d a b => Sys2Proof.Machine.execImin nw d a b s
  | .imax nw d a b => Sys2Proof.Machine.execImax nw d a b s
  | .umin nw d a b => Sys2Proof.Machine.execUmin nw d a b s
  | .umax nw d a b => Sys2Proof.Machine.execUmax nw d a b s
  | .vand nw d a b => Sys2Proof.Machine.execVand nw d a b s
  | .vor nw d a b => Sys2Proof.Machine.execVor nw d a b s
  | .vxor nw d a b => Sys2Proof.Machine.execVxor nw d a b s
  | .vandn nw d a b => Sys2Proof.Machine.execVandn nw d a b s
  | .shl nw d a b => Sys2Proof.Machine.execShl nw d a b s
  | .shr nw d a b => Sys2Proof.Machine.execShr nw d a b s
  | .sar nw d a b => Sys2Proof.Machine.execSar nw d a b s
  | .rotl nw d a b => Sys2Proof.Machine.execRotl nw d a b s
  | .popc nw d a => Sys2Proof.Machine.execPopc nw d a s
  | .clz nw d a => Sys2Proof.Machine.execClz nw d a s
  | .brev nw d a => Sys2Proof.Machine.execBrev nw d a s
  | .bfx nw d a b sx => Sys2Proof.Machine.execBfx nw d a b sx s
  | .bfi nw d a b c => Sys2Proof.Machine.execBfi nw d a b c s
  | .bperm nw d a b c => Sys2Proof.Machine.execBperm nw d a b c s
  | .bitf nw d a b c f1 f0 => Sys2Proof.Machine.execBitf nw d a b c f1 f0 s
  | .iadd64 nw d a b => Sys2Proof.Machine.execIadd64 nw d a b s
  | .isub64 nw d a b => Sys2Proof.Machine.execIsub64 nw d a b s
  | .imulw nw d a b => Sys2Proof.Machine.execImulw nw d a b s
  | .icmp nw d a b c cond => Sys2Proof.Machine.execIcmp nw d a b c cond s
  | .sel nw d a b c p => Sys2Proof.Machine.execSel nw d a b c p s
  | .mov nw d a => Sys2Proof.Machine.execMov nw d a s
  | .movi nw d imm => Sys2Proof.Machine.execMovi nw d imm s
  | .iaddi nw d a imm => Sys2Proof.Machine.execIaddi nw d a imm s
  | .shli nw d a imm => Sys2Proof.Machine.execShli nw d a imm s
  | .shri nw d a imm => Sys2Proof.Machine.execShri nw d a imm s
  | .sari nw d a imm => Sys2Proof.Machine.execSari nw d a imm s
  | .andi nw d a imm => Sys2Proof.Machine.execAndi nw d a imm s
  | .ori nw d a imm => Sys2Proof.Machine.execOri nw d a imm s
  | .xori nw d a imm => Sys2Proof.Machine.execXori nw d a imm s
  | .fadd nw d a b => Sys2Proof.Machine.execFadd nw d a b s
  | .faddExt nw d a fmt b => Sys2Proof.Machine.execFaddExt nw d a fmt b s
  | .fsub nw d a b => Sys2Proof.Machine.execFsub nw d a b s
  | .fsubExt nw d a fmt b => Sys2Proof.Machine.execFsubExt nw d a fmt b s
  | .fmul nw d a b => Sys2Proof.Machine.execFmul nw d a b s
  | .fmulExt nw d a fmt b => Sys2Proof.Machine.execFmulExt nw d a fmt b s
  | .ffma nw d a b => Sys2Proof.Machine.execFfma nw d a b s
  | .ffmaExt nw d a c fmt b => Sys2Proof.Machine.execFfmaExt nw d a c fmt b s
  | .fmin nw d a b => Sys2Proof.Machine.execFmin nw d a b s
  | .fminExt nw d a fmt b => Sys2Proof.Machine.execFminExt nw d a fmt b s
  | .fmax nw d a b => Sys2Proof.Machine.execFmax nw d a b s
  | .fmaxExt nw d a fmt b => Sys2Proof.Machine.execFmaxExt nw d a fmt b s
  | .fminn nw d a b => Sys2Proof.Machine.execFminn nw d a b s
  | .fminnExt nw d a fmt b => Sys2Proof.Machine.execFminnExt nw d a fmt b s
  | .fmaxn nw d a b => Sys2Proof.Machine.execFmaxn nw d a b s
  | .fmaxnExt nw d a fmt b => Sys2Proof.Machine.execFmaxnExt nw d a fmt b s
  | .fcmp nw d a b c cond fmt => Sys2Proof.Machine.execFcmp nw d a b c cond fmt s
  | .fclass nw d a => Sys2Proof.Machine.execFclass nw d a s
  | .fclassExt nw d a fmt => Sys2Proof.Machine.execFclassExt nw d a fmt s
  | .frcp nw d a => Sys2Proof.Machine.execFrcp nw d a s
  | .frcpExt nw d a fmt => Sys2Proof.Machine.execFrcpExt nw d a fmt s
  | .frsq nw d a => Sys2Proof.Machine.execFrsq nw d a s
  | .frsqExt nw d a fmt => Sys2Proof.Machine.execFrsqExt nw d a fmt s
  | .fexp2 nw d a => Sys2Proof.Machine.execFexp2 nw d a s
  | .fexp2Ext nw d a fmt => Sys2Proof.Machine.execFexp2Ext nw d a fmt s
  | .flog2 nw d a => Sys2Proof.Machine.execFlog2 nw d a s
  | .flog2Ext nw d a fmt => Sys2Proof.Machine.execFlog2Ext nw d a fmt s
  | .fsinpi nw d a => Sys2Proof.Machine.execFsinpi nw d a s
  | .fsinpiExt nw d a fmt => Sys2Proof.Machine.execFsinpiExt nw d a fmt s
  | .fcospi nw d a => Sys2Proof.Machine.execFcospi nw d a s
  | .fcospiExt nw d a fmt => Sys2Proof.Machine.execFcospiExt nw d a fmt s
  | .fsqrt nw d a => Sys2Proof.Machine.execFsqrt nw d a s
  | .fsqrtExt nw d a fmt => Sys2Proof.Machine.execFsqrtExt nw d a fmt s
  | .frnd nw d a => Sys2Proof.Machine.execFrnd nw d a s
  | .frndExt nw d a fmt => Sys2Proof.Machine.execFrndExt nw d a fmt s
  | .cvt nw d a fmt six sfmt => Sys2Proof.Machine.execCvt nw d a fmt six sfmt s
  | .cvtsc nw d a b fmt six sfmt => Sys2Proof.Machine.execCvtsc nw d a b fmt six sfmt s
  | .pack nw d a b fmt idx => Sys2Proof.Machine.execPack nw d a b fmt idx s
  | .unpk nw d a fmt idx => Sys2Proof.Machine.execUnpk nw d a fmt idx s
  | .idot4 nw d a b => Sys2Proof.Machine.execIdot4 nw d a b s
  | .idot4Ext nw d a c fmt b => Sys2Proof.Machine.execIdot4Ext nw d a c fmt b s
  | .fdot2 nw d a b => Sys2Proof.Machine.execFdot2 nw d a b s
  | .fdot2Ext nw d a c fmt b => Sys2Proof.Machine.execFdot2Ext nw d a c fmt b s
  | .shfl nw d a b => Sys2Proof.Machine.execShfl nw d a b s
  | .shflExt nw d a c fmt b => Sys2Proof.Machine.execShflExt nw d a c fmt b s
  | .shflup nw d a b => Sys2Proof.Machine.execShflup nw d a b s
  | .shflupExt nw d a c fmt b => Sys2Proof.Machine.execShflupExt nw d a c fmt b s
  | .shfldn nw d a b => Sys2Proof.Machine.execShfldn nw d a b s
  | .shfldnExt nw d a c fmt b => Sys2Proof.Machine.execShfldnExt nw d a c fmt b s
  | .shflx nw d a b => Sys2Proof.Machine.execShflx nw d a b s
  | .shflxExt nw d a c fmt b => Sys2Proof.Machine.execShflxExt nw d a c fmt b s
  | .lred nw d a fmt opr => Sys2Proof.Machine.execLred nw d a fmt opr s
  | .lscan nw d a c fmt excl opr => Sys2Proof.Machine.execLscan nw d a c fmt excl opr s
  | .vote nw d a mode => Sys2Proof.Machine.execVote nw d a mode s
  | .bcast nw d a b c => Sys2Proof.Machine.execBcast nw d a b c s
  | .rvsend a n1 slot => Sys2Proof.Machine.execRvsend a n1 slot s
  | .rvrecv d c n1 slot => Sys2Proof.Machine.execRvrecv d c n1 slot s
  | .xchgx d a n1 ch => Sys2Proof.Machine.execXchgx d a n1 ch s
  | .lnsadd nw d a b => Sys2Proof.Machine.execLnsadd nw d a b s
  | .lnsmul nw d a b => Sys2Proof.Machine.execLnsmul nw d a b s
  | .ld d a strm fmt scope ord imm => Sys2Proof.Machine.execLd d a strm fmt scope ord imm s
  | .st a b strm fmt scope ord imm => Sys2Proof.Machine.execSt a b strm fmt scope ord imm s
  | .lds d a strm fmt level fe imm => Sys2Proof.Machine.execLds d a strm fmt level fe imm s
  | .sts a b strm fmt level fe imm => Sys2Proof.Machine.execSts a b strm fmt level fe imm s
  | .atom d a b strm fmt scope ord aop off => Sys2Proof.Machine.execAtom d a b strm fmt scope ord aop off s
  | .red a b strm fmt scope ord aop off => Sys2Proof.Machine.execRed a b strm fmt scope ord aop off s
  | .cas d a b c strm fmt scope ord w64 off => Sys2Proof.Machine.execCas d a b c strm fmt scope ord w64 off s
  | .kvmap d a b c strm scope ord sel => Sys2Proof.Machine.execKvmap d a b c strm scope ord sel s
  | .kvapp a b c strm scope ord => Sys2Proof.Machine.execKvapp a b c strm scope ord s
  | .qadd d a b => Sys2Proof.Machine.execQadd d a b s
  | .qsub d a b => Sys2Proof.Machine.execQsub d a b s
  | .qmul d a b => Sys2Proof.Machine.execQmul d a b s
  | .qdiv d a b => Sys2Proof.Machine.execQdiv d a b s
  | .qneg d a => Sys2Proof.Machine.execQneg d a s
  | .qenc d a b => Sys2Proof.Machine.execQenc d a b s
  | .qdec d a => Sys2Proof.Machine.execQdec d a s
  | .nop => Sys2Proof.Machine.execNop s
  | .sadd nw d a b => Sys2Proof.Machine.execSadd nw d a b s
  | .ssub nw d a b => Sys2Proof.Machine.execSsub nw d a b s
  | .smul nw d a b => Sys2Proof.Machine.execSmul nw d a b s
  | .sand nw d a b => Sys2Proof.Machine.execSand nw d a b s
  | .sor nw d a b => Sys2Proof.Machine.execSor nw d a b s
  | .sxor nw d a b => Sys2Proof.Machine.execSxor nw d a b s
  | .sshl nw d a b => Sys2Proof.Machine.execSshl nw d a b s
  | .sshr nw d a b => Sys2Proof.Machine.execSshr nw d a b s
  | .ssar nw d a b => Sys2Proof.Machine.execSsar nw d a b s
  | .smin nw d a b => Sys2Proof.Machine.execSmin nw d a b s
  | .smax nw d a b => Sys2Proof.Machine.execSmax nw d a b s
  | .smov nw d a => Sys2Proof.Machine.execSmov nw d a s
  | .spopc nw d a => Sys2Proof.Machine.execSpopc nw d a s
  | .sclz nw d a => Sys2Proof.Machine.execSclz nw d a s
  | .sffs nw d a => Sys2Proof.Machine.execSffs nw d a s
  | .saddi nw d imm => Sys2Proof.Machine.execSaddi nw d imm s
  | .smovi nw d imm => Sys2Proof.Machine.execSmovi nw d imm s
  | .smovl nw d imm => Sys2Proof.Machine.execSmovl nw d imm s
  | .smovh nw d imm => Sys2Proof.Machine.execSmovh nw d imm s
  | .scmp nw d a b cond => Sys2Proof.Machine.execScmp nw d a b cond s
  | .mfs nw d imm => Sys2Proof.Machine.execMfs nw d imm s
  | .mts d imm => Sys2Proof.Machine.execMts d imm s
  | .mvtcTo d a => Sys2Proof.Machine.execMvtcTo d a s
  | .mvtcFrom nw d a => Sys2Proof.Machine.execMvtcFrom nw d a s
  | .bra off => Sys2Proof.Machine.execBra off s
  | .call off => Sys2Proof.Machine.execCall off s
  | .brz d imm => Sys2Proof.Machine.execBrz d imm s
  | .brnz d imm => Sys2Proof.Machine.execBrnz d imm s
  | .brany d imm => Sys2Proof.Machine.execBrany d imm s
  | .brall d imm => Sys2Proof.Machine.execBrall d imm s
  | .brnone d imm => Sys2Proof.Machine.execBrnone d imm s
  | .loop d imm => Sys2Proof.Machine.execLoop d imm s
  | .ret a => Sys2Proof.Machine.execRet a s
  | .jmpr nw d a => Sys2Proof.Machine.execJmpr nw d a s
  | .exit => Sys2Proof.Machine.execExit s
  | .exmand a => Sys2Proof.Machine.execExmand a s
  | .exmset a => Sys2Proof.Machine.execExmset a s
  | .trap imm => Sys2Proof.Machine.execTrap imm s
  | .tret => Sys2Proof.Machine.execTret s
  | .ckpt => Sys2Proof.Machine.execCkpt s
  | .rep cnt sd sa sb str => Sys2Proof.Machine.execRep cnt sd sa sb str s
  | .mcall d a b => Sys2Proof.Machine.execMcall d a b s
  | .yield_ => Sys2Proof.Machine.execYield s
  | .elect nw d a => Sys2Proof.Machine.execElect nw d a s
  | .bar scope ord id => Sys2Proof.Machine.execBar scope ord id s
  | .bararv scope ord id => Sys2Proof.Machine.execBararv scope ord id s
  | .barwt scope ord id => Sys2Proof.Machine.execBarwt scope ord id s
  | .fence strm scope ord => Sys2Proof.Machine.execFence strm scope ord s
  | .sfence a scope ord => Sys2Proof.Machine.execSfence a scope ord s
  | .qfence d scope ord qmask => Sys2Proof.Machine.execQfence d scope ord qmask s
  | .qpush a b => Sys2Proof.Machine.execQpush a b s
  | .qpop d b => Sys2Proof.Machine.execQpop d b s
  | .evset a scope ord win => Sys2Proof.Machine.execEvset a scope ord win s
  | .evclr a scope ord win => Sys2Proof.Machine.execEvclr a scope ord win s
  | .evwait a scope ord any win => Sys2Proof.Machine.execEvwait a scope ord any win s
  | .acqtok b => Sys2Proof.Machine.execAcqtok b s
  | .reltok b => Sys2Proof.Machine.execReltok b s
  | .tld d a b c strm scope ord q dr dc => Sys2Proof.Machine.execTld d a b c strm scope ord q dr dc s
  | .tst d a b c strm scope ord q dr dc => Sys2Proof.Machine.execTst d a b c strm scope ord q dr dc s
  | .tzero d kind => Sys2Proof.Machine.execTzero d kind s
  | .mma d a b => Sys2Proof.Machine.execMma d a b s
  | .mmas d a b sb sa => Sys2Proof.Machine.execMmas d a b sb sa s
  | .mmam d a b tm => Sys2Proof.Machine.execMmam d a b tm s
  | .accrd d a b row => Sys2Proof.Machine.execAccrd d a b row s
  | .accwr a b c row => Sys2Proof.Machine.execAccwr a b c row s
  | .ttask d a strm scope ord q => Sys2Proof.Machine.execTtask d a strm scope ord q s
  | .tdesc d a c strm scope ord q => Sys2Proof.Machine.execTdesc d a c strm scope ord q s
  | .remap d a c strm scope ord q => Sys2Proof.Machine.execRemap d a c strm scope ord q s
  | .cpy d a b c strm scope ord q sloc dloc => Sys2Proof.Machine.execCpy d a b c strm scope ord q sloc dloc s
  | .cpyTensor d a b c strm scope ord q => Sys2Proof.Machine.execCpyTensor d a b c strm scope ord q s
  | .cpyacc d a b c strm fmt scope ord q sloc dloc => Sys2Proof.Machine.execCpyacc d a b c strm fmt scope ord q sloc dloc s
  | .cpydd d a b c strm scope ord q sloc => Sys2Proof.Machine.execCpydd d a b c strm scope ord q sloc s
  | .gather d a strm scope ord q sloc dloc => Sys2Proof.Machine.execGather d a strm scope ord q sloc dloc s
  | .mcast d a b c strm scope ord q sloc dlev => Sys2Proof.Machine.execMcast d a b c strm scope ord q sloc dlev s
  | .mcastTensor d a b c strm scope ord q dlev => Sys2Proof.Machine.execMcastTensor d a b c strm scope ord q dlev s
  | .bclose => Sys2Proof.Machine.execBclose s
  | .bwait scope ord n => Sys2Proof.Machine.execBwait scope ord n s
  | .crmerge d a b c strm scope ord q slot => Sys2Proof.Machine.execCrmerge d a b c strm scope ord q slot s
  | .crfin d a b c strm scope ord q slot => Sys2Proof.Machine.execCrfin d a b c strm scope ord q slot s
  | .cvopen d a strm scope ord => Sys2Proof.Machine.execCvopen d a strm scope ord s
  | .cvbind a strm scope ord rr role => Sys2Proof.Machine.execCvbind a strm scope ord rr role s
  | .cvsend a b strm scope ord im rr kind => Sys2Proof.Machine.execCvsend a b strm scope ord im rr kind s
  | .cvrecv d a strm scope ord rr => Sys2Proof.Machine.execCvrecv d a strm scope ord rr s
  | .cvchoose strm scope ord rr kind => Sys2Proof.Machine.execCvchoose strm scope ord rr kind s
  | .cvdeleg strm scope ord rrp rr kind => Sys2Proof.Machine.execCvdeleg strm scope ord rrp rr kind s
  | .cvclose strm scope ord rr => Sys2Proof.Machine.execCvclose strm scope ord rr s
  | .ttclr a => Sys2Proof.Machine.execTtclr a s
  | .ttadd d a b => Sys2Proof.Machine.execTtadd d a b s
  | .ttanc a b => Sys2Proof.Machine.execTtanc a b s
  | .ttpos d a sel => Sys2Proof.Machine.execTtpos d a sel s
  | .ttprune d a c => Sys2Proof.Machine.execTtprune d a c s
  | .instructionFetchFault crew => Sys2Proof.Machine.execInstructionFetchFault crew s
  | .chainAbandon crew => Sys2Proof.Machine.execChainAbandon crew s
  | .chainResume crew => Sys2Proof.Machine.execChainResume crew s
  | .pickerUrgent crew => Sys2Proof.Machine.execPickerUrgent crew s
  | .handlerInstructionLimit crew => Sys2Proof.Machine.execHandlerInstructionLimit crew s
  | .handlerWaitLimit crew => Sys2Proof.Machine.execHandlerWaitLimit crew s
  | .crewInterruptDelivery crew => Sys2Proof.Machine.execCrewInterruptDelivery crew s
  | .teamRetire slot => Sys2Proof.Machine.execTeamRetire slot s
  | .evecWriteback ctx => Sys2Proof.Machine.execEvecWriteback ctx s
  | .almanacSchedule act launch slot => Sys2Proof.Machine.execAlmanacSchedule act launch slot s
  | .slotBind slot => Sys2Proof.Machine.execSlotBind slot s
  | .slotRestore slot => Sys2Proof.Machine.execSlotRestore slot s
  | .slotPreempt slot => Sys2Proof.Machine.execSlotPreempt slot s
  | .slotOpReserved slot => Sys2Proof.Machine.execSlotOpReserved slot s
  | .slotHoldUpdate slot hold prio => Sys2Proof.Machine.execSlotHoldUpdate slot hold prio s
  | .forcedSaveExpiry slot => Sys2Proof.Machine.execForcedSaveExpiry slot s
  | .saveComplete slot => Sys2Proof.Machine.execSaveComplete slot s
  | .faultDomainEnd ctx fdom => Sys2Proof.Machine.execFaultDomainEnd ctx fdom s
  | .unitFence core => Sys2Proof.Machine.execUnitFence core s
  | .granuleService crew granule => Sys2Proof.Machine.execGranuleService crew granule s
  | .queueService crew => Sys2Proof.Machine.execQueueService crew s
  | .barrierRelease launch phase => Sys2Proof.Machine.execBarrierRelease launch phase s
  | .rendezvousMatch team slot => Sys2Proof.Machine.execRendezvousMatch team slot s
  | .xchgxPair launch ch => Sys2Proof.Machine.execXchgxPair launch ch s
  | .remoteReply req refusal data => Sys2Proof.Machine.execRemoteReply req refusal data s
  | .remoteRequestArrive src tag sec kind va size aop fmt data data2 => Sys2Proof.Machine.execRemoteRequestArrive src tag sec kind va size aop fmt data data2 s
  | .requestLost req => Sys2Proof.Machine.execRequestLost req s
  | .leaseGrant cluster line size => Sys2Proof.Machine.execLeaseGrant cluster line size s
  | .leaseIdleRelease cluster line => Sys2Proof.Machine.execLeaseIdleRelease cluster line s
  | .cowPath ctx page => Sys2Proof.Machine.execCowPath ctx page s
  | .engineCommandStart team q => Sys2Proof.Machine.execEngineCommandStart team q s
  | .engineCommandComplete team q => Sys2Proof.Machine.execEngineCommandComplete team q s
  | .matrixStep core party => Sys2Proof.Machine.execMatrixStep core party s
  | .remapPass crew team q => Sys2Proof.Machine.execRemapPass crew team q s
  | .tileTaskDispatch cluster task => Sys2Proof.Machine.execTileTaskDispatch cluster task s
  | .taskDependencePoll cluster task => Sys2Proof.Machine.execTaskDependencePoll cluster task s
  | .tileTaskComplete cluster task => Sys2Proof.Machine.execTileTaskComplete cluster task s
  | .cpyaccContribution team q => Sys2Proof.Machine.execCpyaccContribution team q s
  | .mergeSessionMerge cluster launch slot => Sys2Proof.Machine.execMergeSessionMerge cluster launch slot s
  | .crfinComplete team q => Sys2Proof.Machine.execCrfinComplete team q s
  | .cpyddPageStep team q => Sys2Proof.Machine.execCpyddPageStep team q s
  | .convHomeRequest crew => Sys2Proof.Machine.execConvHomeRequest crew s
  | .convAccept conv => Sys2Proof.Machine.execConvAccept conv s
  | .convDeliver crew => Sys2Proof.Machine.execConvDeliver crew s
  | .kick fn ring v => Sys2Proof.Machine.execKick fn ring v s
  | .rctlWrite fn ring v => Sys2Proof.Machine.execRctlWrite fn ring v s
  | .ringRecordRead fn ring hostRec => Sys2Proof.Machine.execRingRecordRead fn ring hostRec s
  | .ringStaleTimeout fn ring => Sys2Proof.Machine.execRingStaleTimeout fn ring s
  | .evdataRead fn win => Sys2Proof.Machine.execEvdataRead fn win s
  | .hostBar2Read fn addr size => Sys2Proof.Machine.execHostBar2Read fn addr size s
  | .hostBar2Write fn addr size data => Sys2Proof.Machine.execHostBar2Write fn addr size data s
  | .invcmd v => Sys2Proof.Machine.execInvcmd v s
  | .invalidationDrainDone => Sys2Proof.Machine.execInvalidationDrainDone s
  | .attcmd v => Sys2Proof.Machine.execAttcmd v s
  | .attestationReportDone => Sys2Proof.Machine.execAttestationReportDone s
  | .rsvbase v => Sys2Proof.Machine.execRsvbase v s
  | .rsvtail v => Sys2Proof.Machine.execRsvtail v s
  | .fdcmd v => Sys2Proof.Machine.execFdcmd v s
  | .cirqcmd v => Sys2Proof.Machine.execCirqcmd v s
  | .seclimitWrite stack range limit sec v => Sys2Proof.Machine.execSeclimitWrite stack range limit sec v s
  | .eqtrig v => Sys2Proof.Machine.execEqtrig v s
  | .equinoxBufferDone => Sys2Proof.Machine.execEquinoxBufferDone s
  | .vigilClr m v => Sys2Proof.Machine.execVigilClr m v s
  | .vigilSample m v => Sys2Proof.Machine.execVigilSample m v s
  | .registerWrite fn off v => Sys2Proof.Machine.execRegisterWrite fn off v s
  | .i3cHealthRead => Sys2Proof.Machine.execI3cHealthRead s
  | .boot => Sys2Proof.Machine.execBoot s
  | .thermalTrip die => Sys2Proof.Machine.execThermalTrip die s
  | .powerWindow watts => Sys2Proof.Machine.execPowerWindow watts s
  | .linkReplay link => Sys2Proof.Machine.execLinkReplay link s
  | .linkRetrain link ok => Sys2Proof.Machine.execLinkRetrain link ok s
  | .crossbarAging die port input => Sys2Proof.Machine.execCrossbarAging die port input s
  | .errorWindowEnd kind => Sys2Proof.Machine.execErrorWindowEnd kind s
  | .copyEngineError team q => Sys2Proof.Machine.execCopyEngineError team q s
  | .matrixEngineError core => Sys2Proof.Machine.execMatrixEngineError core s
  | .loadResultReturn crew reg => Sys2Proof.Machine.execLoadResultReturn crew reg s
  | .remoteAcknowledgement req => Sys2Proof.Machine.execRemoteAcknowledgement req s

end Sys2Proof.Machine
end

