-- ==== Sys2Proof/Machine/Sched.lean ====
section
/-! DEFINITION. One step of the package: an event that the outside supplies, or one of the part's own moves that can
come about (log entries 4 and 7). -/
namespace Sys2Proof.Machine

/-- A move of the part: a crew issues its next instruction, or an event comes about. -/
inductive Move where
  | issue (crew : Nat)
  | event (i : Instr)
  /-- Entry j of a crew's list of accesses is performed, or its request sent (R313). -/
  | perform (crew j : Nat)
  /-- The head command of a queue writes a granule that it owes, reads one ahead, or has its status word early (R266, R311). -/
  | owed (slot q j : Nat)
  | readAhead (slot q key : Nat)
  | taskOwed (cluster task j : Nat)
  | taskAhead (cluster task key : Nat)
  | status (slot q : Nat)
  /-- LOAD_RESULT_RETURN. -/
  | loaded (crew reg : Nat)
  /-- LEASE_GRANT and LEASE_IDLE_RELEASE. -/
  | grant (cluster line size : Nat)
  | release (cluster line : Nat)
  /-- EVEC_WRITEBACK. -/
  | writeback (ctx : Nat)
  /-- RING_RECORD_READ, the record being what the host's memory holds for a ring there, and RING_STALE_TIMEOUT. -/
  | record (fn ring : Nat)
  | stale (fn ring : Nat)
  /-- REQUEST_LOST. -/
  | lost (req : Nat)
  /-- The device's own endpoint serves a request through a REMOTE page of the device itself (R362). -/
  | selfServe (req i : Nat)
deriving DecidableEq, Repr

/-! The picker (R38, R51, R334). -/

/-- The physical crew slot of a crew: one for both groups of a hardware crew (R49). -/
def crewSlot (s : State) (k : Nat) : Nat :=
  (s.slotAt (slotOf k)).crewbase + (if (s.teamAt (slotOf k)).compat then k % 16 / 2 else k % 16)

/-- Of two crews that are ready for a pipe, the first goes before the second (R38, R334): urgent crews first, the longest wait
and then the lower slot first; else by priority, and round robin, the one that issued there less recently first. -/
def goesBefore (s : State) (u : Bool) (j k : Nat) : Bool :=
  let cj := s.crewAt j
  let ck := s.crewAt k
  let pj := (s.slotAt (slotOf j)).prio
  let pk := (s.slotAt (slotOf k)).prio
  let lower := decide (crewSlot s j < crewSlot s k) || (crewSlot s j == crewSlot s k && decide (j < k))
  if cj.urgent u != ck.urgent u then cj.urgent u
  else if cj.urgent u then decide (ck.waited u < cj.waited u) || (cj.waited u == ck.waited u && lower)
  else decide (pk < pj) || (pj == pk && (decide (cj.lastIssue u < ck.lastIssue u) || (cj.lastIssue u == ck.lastIssue u && lower)))

/-- The two groups of a hardware crew are both ready with equal PCs, at the same place of a REP unit or MCALL: one issue serves
both (R51, R226). -/
def joined (s : State) (k : Nat) : Option Nat :=
  match otherGroup s k with
  | none => none
  | some j => if sameUnit s k j && s.readyFor k == s.readyFor j && (s.readyFor j).isSome then some j else none

/-- The crews that could take a pipe in this cycle: those that are ready for it, less those whose operands the cycle finds on their
way (log entry 88); all of them where it finds none ready. -/
def contenders (s : State) (u : Bool) (ks : List Nat) : List Nat :=
  let ready := ks.filter fun j => s.readyFor j == some u
  let now := ready.filter fun j => !Config.operandsLate s.fresh j
  if now.isEmpty then ready else now

/-- Of a list of crews the one that goes before the others. -/
def firstOf (s : State) (u : Bool) (cs : List Nat) : Option Nat :=
  match cs with
  | [] => none
  | c :: r => some (r.foldl (fun b j => if goesBefore s u j b then j else b) c)

/-- The crew that takes a pipe among its contenders: the first of them, or, where the other group of its hardware crew wants the pipe
too and has issued there less recently, that group; the lower group where both last issued in one cycle (R51, R382). -/
def winner (s : State) (u : Bool) (cs : List Nat) : Option Nat :=
  (firstOf s u cs).map fun b =>
    match otherGroup s b with
    | some j =>
      let lb := (s.crewAt b).lastIssue u
      let lj := (s.crewAt j).lastIssue u
      if cs.contains j && (decide (lj < lb) || (lj == lb && decide (j < b))) then j else b
    | none => b

/-- The other group of crew k's hardware crew stands inside a chain which the picker does not leave for it (R51): crew k is in none,
or that group was the last to issue. -/
def groupHeld (s : State) (k : Nat) : Bool :=
  match otherGroup s k with
  | some j =>
    let last (k : Nat) : Nat := max (s.crewAt k).lastL (s.crewAt k).lastS
    (chainPipe s j).isSome && ((chainPipe s k).isNone || decide (last k < last j))
  | none => false

/-- The picker may issue crew k to the pipe of its next instruction (R38, R51, R334). A crew whose wait count has reached 64 is marked
urgent first. A chain keeps the pipe of its next instruction, and the other group of its hardware crew waits; of two chains that want
one pipe either goes (log entry 88). -/
def mayPick (s : State) (k : Nat) (u : Bool) : Bool :=
  match coreMates s k with
  | [] => true
  | ms =>
    let all := k :: ms
    let holders := all.filter fun j => chainPipe s j == some u
    if groupHeld s k || all.any (fun j => s.readyFor j == some u && decide (64 ≤ (s.crewAt j).waited u) && !(s.crewAt j).urgent u) then false
    else if !holders.isEmpty then holders.contains k
    else
      match winner s u (contenders s u all) with
      | some j => j == k || joined s k == some j
      | none => false

/-- A crew's next move: its instruction, or the trap of a word that is rejected (R61). What both groups of a hardware crew share is the
lower group's move. -/
def crewMoves (s : State) (k : Nat) : List Move :=
  let lower (j : Option Nat) : Bool := match j with
    | some j => decide (k < j)
    | none => true
  if (s.at_ k).canIssue then
    match (s.at_ k).rejects, s.readyFor k with
    | some code, _ =>
      let twin := (otherGroup s k).filter fun j => sameUnit s k j && (s.at_ j).canIssue && (s.at_ j).rejects == some code
      if lower twin then [.event (.instructionFetchFault k)] else []
    | none, some u => if mayPick s k u && lower (joined s k) then [.issue k] else []
    | none, none => []
  else []

/-- What a crew may do next: issue, or one of the events that concern it. -/
def crewCandidates (s : State) (k : Nat) (c : Crew) : List Move :=
  let ev (i : Instr) : List Move := [.event i]
  crewMoves s k ++
    ((List.range c.pend.length).filter (fun j => (c.pass j).isSome) |>.map fun j => .perform k j) ++
    ((c.loads.filter (·.left == 0)).map fun x => .loaded k x.reg) ++
    (if !c.pendS.isEmpty || !c.loads.isEmpty then ev (.chainAbandon k) else []) ++
    (if (coreMates s k).isEmpty then [] else ev (.pickerUrgent k)) ++
    (if c.spent then ev (.handlerInstructionLimit k) else []) ++
    (if c.irq then ev (.crewInterruptDelivery k) else []) ++
    (if c.inHandler then ev (.handlerWaitLimit k) else []) ++
    (match c.block with
      | some (.abandoned _ _) => ev (.chainResume k)
      | some (.granules g) => g.wait.map fun gr => .event (.granuleService k gr)
      | some (.qpush _ _) | some (.qpop _ _) => ev (.queueService k)
      | some (.rvsend slot _ _) | some (.rvrecv slot _ _ _) => ev (.rendezvousMatch (slotOf k) slot)
      | some (.xchgx ch _ _ _) => ev (.xchgxPair (s.teamAt (slotOf k)).launch ch)
      | some (.remap _ _) => ev (.remapPass (some k) 0 0)
      | some (.cow va _ _) => ev (.cowPath (s.teamAt (slotOf k)).ctx (va / 4096))
      | some (.conv _) => ev (.convHomeRequest k)
      | some (.cvrecv _ _ _ _) => ev (.convDeliver k)
      | _ => [])

/-- What may come about in a team's slot. -/
def teamCandidates (s : State) (slot : Nat) (t : Team) : List Move :=
  (t.queues.flatMap fun q =>
    match q.2 with
    | [] => []
    | c :: _ =>
      [.event (.engineCommandStart slot q.1), .event (.engineCommandComplete slot q.1), .event (.remapPass none slot q.1),
        .event (.cpyaccContribution slot q.1), .event (.cpyddPageStep slot q.1), .event (.crfinComplete slot q.1)] ++
        ((List.range c.owed.length).map fun j => .owed slot q.1 j) ++
        (if c.run = .started then [.readAhead slot q.1 (Config.aheadKey s.fresh)] else []) ++
        (if c.told then [] else [.status slot q.1]) ++
        (match c.cow with
          | some va => [.event (.cowPath t.ctx (va / 4096))]
          | none => [])) ++
    (if t.matrix.isEmpty then [] else [.event (.matrixStep (coreOf slot) (slot % 2))]) ++
    (if (List.range t.ncrew).all fun c => (s.crewAt (16 * slot + c)).live == 0 then [.event (.teamRetire slot)] else []) ++
    (if s.teamSaves slot then [.event (.forcedSaveExpiry slot), .event (.saveComplete slot)] else [])

/-- What may come about in a cluster. -/
def clusterCandidates (fresh k : Nat) (c : Cluster) : List Move :=
  ((List.range c.tasks.length).flatMap fun i =>
    [.event (.tileTaskDispatch k i), .event (.taskDependencePoll k i), .event (.tileTaskComplete k i)] ++
      (match c.tasks[i]? with
        | some t => ((List.range t.owed.length).map fun j => .taskOwed k i j) ++ (match t.core with
            | some core => [.event (.matrixStep core 2), .taskAhead k i (Config.aheadKey fresh)]
            | none => []) ++ (match t.cow with
            | some va => [.event (.cowPath t.ctx (va / 4096))]
            | none => [])
        | none => [])) ++
    (c.sessions.map fun x => .event (.mergeSessionMerge k x.launch x.slot)) ++
    (c.wants.map fun w => .grant k w.1 w.2) ++
    (c.leases.map fun l => .release k l.line)

/-- What dispatch and Almanac may do. -/
def placementCandidates (s : State) : List Move :=
  (s.slots.filterMap fun e =>
    match e.2.op with
    | 0 => none
    | 1 => some (.event (.slotBind e.1))
    | 2 => some (.event (.slotRestore e.1))
    | 3 => some (.event (.slotPreempt e.1))
    | _ => some (.event (.slotOpReserved e.1))) ++
    (s.launches.flatMap fun e =>
      let l := e.2
      let prio := s.prioOf l
      let place (op : Nat) (teamid addr : Nat) : Nat := ((s.placeTeam e.1 teamid op addr prio).map (·.1)).getD 0
      if l.ended then []
      else if !l.read then [.event (.almanacSchedule 0 e.1 0)]
      else
        ((List.range l.phases.length).map fun i => .event (.barrierRelease e.1 i)) ++
          (match l.nextTeam with
            | some t => if l.live then [.event (.almanacSchedule 1 e.1 (if l.coresident then 0 else place 1 t 0))] else []
            | none => []) ++
          (if s.starving e.1 l then [.event (.almanacSchedule 2 e.1 ((s.victim prio).getD 0))] else []) ++
          (match l.firstSaved with
            | some x => [.event (.almanacSchedule 3 e.1 (if l.coresident then 0 else place 2 x.1 x.2.addr.toNat))]
            | none => []) ++
          (if l.coresident then [.event (.almanacSchedule 4 e.1 0)] else [])) ++
    (s.ends.map fun d => .event (.faultDomainEnd d.ctx d.fdom)) ++
    (s.fencing.map fun c => .event (.unitFence c)) ++
    (s.vectors.map fun e => .writeback e.1)

/-- What the conversation homes, the rings, the fabric, the host's commands and the monitors wait for. -/
def unitCandidates (s : State) : List Move :=
  (s.convs.filterMap fun e => if e.2.queue.isEmpty then none else some (.event (.convAccept e.1))) ++
    (s.rings.flatMap fun e =>
      let (fn, ring) := (e.1 / 8, e.1 % 8)
      if s.ringWaits fn ring then
        [.record fn ring, .stale fn ring]
      else []) ++
    (s.fabric.filterMap fun e =>
      if !s.toSelf e.2 && (s.reg 0 0x6020).getLsbD e.2.plane then some (.lost e.1) else none) ++
    (s.fabric.flatMap fun e =>
      if s.toSelf e.2 then (if e.2.bytes.isEmpty then [0] else e.2.bytes).map (.selfServe e.1) else []) ++
    (if (s.reg 0 0x3020).getLsbD 0 then [.event .invalidationDrainDone] else []) ++
    (s.cowHold.map fun h => .event (.cowPath h.ctx h.page)) ++
    (if s.attest.isSome then [.event .attestationReportDone] else []) ++
    (if s.capture.isSome then [.event .equinoxBufferDone] else [])

/-- A lane instruction in F64 arithmetic, which holds the lane pipe for two cycles (R17, R334). -/
def holdsTwo : Instr → Bool
  | .faddExt _ _ _ f _ | .fsubExt _ _ _ f _ | .fmulExt _ _ _ f _ | .ffmaExt _ _ _ _ f _ | .fminExt _ _ _ f _ | .fmaxExt _ _ _ f _
  | .fminnExt _ _ _ f _ | .fmaxnExt _ _ _ f _ | .fcmp _ _ _ _ _ _ f | .fclassExt _ _ _ f | .frcpExt _ _ _ f | .frsqExt _ _ _ f
  | .fexp2Ext _ _ _ f | .flog2Ext _ _ _ f | .fsinpiExt _ _ _ f | .fcospiExt _ _ _ f | .fsqrtExt _ _ _ f | .frndExt _ _ _ f
  | .lred _ _ _ f _ => f == 0#4
  | .lscan _ _ _ _ f _ _ => f == 0#4
  | .cvt _ _ _ f _ g => f == 0#4 || g == 0#4
  | .cvtsc _ _ _ _ f _ g => f == 0#4 || g == 0#4
  | _ => false

/-- What the picker keeps of an issue of the crews ks to a pipe (R51, R334), and the sample that a monitor takes of the wait (R436): one that found every instruction not ready changes nothing;
the wait counts of the others that were ready for the pipe rise by the cycles that the issue held it. -/
def keepPick (before : State) (ks : List Nat) (u : Bool) (n : Nat) (s : State) : State :=
  match ks with
  | [] => s
  | k :: _ =>
    let others := (coreMates before k).filter fun j => !ks.contains j && (lookup s.crews j).isSome
    let waits := if others.isEmpty then [] else
      (contenders { before with fresh := before.fresh - 1 } u (k :: coreMates before k)).filter others.contains
    ((ks.foldl (fun t j => t.sample (dieOf (slotOf j)) 4 (coreOf (slotOf j) % 96) ((s.crewAt j).waited u)) s).picked ks u).rose waits u n

/-- The state in which the second group of a shared issue performs its instruction: an MFS of CLOCK is read in the cycle of the first
(R51, R217). -/
def sameCycle (before : State) (i : Instr) (s : State) : State :=
  match i with
  | .mfs _ _ n => if n.toNat = 0x1E then { s with clock := before.clock, fresh := before.fresh } else s
  | _ => s

/-- Performing an instruction from a state has come to nothing: it was not ready after all. -/
def stood (o : Out) (s : State) : Bool :=
  match o with
  | .next t => t.fresh == s.fresh
  | _ => true

/-- Issue crew k's next instruction, and with it that of the group that shares the issue: the lower group is applied first (R51; log
entry 8). A repeat of a shared REP unit for which one group is not ready after all is issued for neither (R226). -/
def State.issue (s : State) (k : Nat) : Out :=
  let s := s.at_ k
  match s.fetch with
  | .error _ => .next s
  | .ok i =>
    let u := toUniform i
    let n := if holdsTwo i then 2 else 1
    match joined s k, exec i s with
    | some j, .next t =>
      let first := if t.fresh = s.fresh then [] else [k]
      let s2 := sameCycle s i (t.at_ j)
      let one := s.crew.run.isSome && s.crew.together && (s.crewAt j).together
      if one ∧ (t.fresh = s.fresh ∨ stood (exec i (s.at_ j)) s) then .next s
      else if (t.at_ j).canIssue ∧ (t.crewAt j).pc = (s.crewAt j).pc then
        match (t.at_ j).fetch with
        | .ok i1 =>
          match exec i1 s2 with
          | .next t2 =>
            let both := first ++ (if t2.fresh = s2.fresh then [] else [j])
            .next (keepPick s both u n { t2 with fresh := max t.fresh t2.fresh, clock := max t.clock t2.clock })
          | o => o
        | .error _ => .next (keepPick s first u n t)
      else .next (keepPick s first u n t)
    | none, .next t => .next (if t.fresh = s.fresh then t else keepPick s [k] u n t)
    | _, o => o

/-- What a move does by itself. -/
def State.doMove (s : State) (m : Move) : Out :=
  match m with
  | .issue k => s.issue k
  | .event i => exec i s
  | .perform k j => s.perform1Acc k j
  | .owed slot q j => execOwedWrite slot q j s
  | .readAhead slot q key => execEngineRead slot q key s
  | .taskOwed cl k j => execTaskWrite cl k j s
  | .taskAhead cl k key => execTaskRead cl k key s
  | .status slot q => execEarlyStatus slot q s
  | .loaded k reg => execLoadResultReturn k reg s
  | .grant cl line size => execLeaseGrant cl line size s
  | .release cl line => execLeaseIdleRelease cl line s
  | .writeback ctx => execEvecWriteback ctx s
  | .record fn ring => execRingRecordRead fn ring (BitVec.ofNat 1024 (Config.hostData s.fresh (s.ringSlot fn ring))) s
  | .stale fn ring => execRingStaleTimeout fn ring s
  | .lost req => execRequestLost req s
  | .selfServe req i => execSelfServe req i s

/-- The place in device memory of a granule that a command or task owes. -/
def State.commitOwed (s : State) (o : Option Owed) : State :=
  match o with
  | some o => if o.key < 2 ^ 64 then s.commitRange (16 * o.key) 16 else s
  | none => s

/-- The event touches no memory that a crew's access can reach. -/
def untouching : Instr → Bool
  | .instructionFetchFault .. | .chainAbandon .. | .chainResume .. | .pickerUrgent .. | .handlerInstructionLimit .. | .handlerWaitLimit ..
  | .crewInterruptDelivery .. | .granuleService .. | .queueService .. | .barrierRelease .. | .rendezvousMatch .. | .xchgxPair .. => true
  | .matrixStep _ party => decide (party < 2)
  | _ => false

/-- What comes before a start or a completion of the head command of a queue: a TDESC or a REMAP writes its entry in it. -/
def State.commitCmd (s : State) (slot q : Nat) : State :=
  if ((s.teamAt slot).queue q).head?.any fun c => [0xD9, 0xDA].contains (opOf c.w) then s.commitAll else s.commitSeen slot

/-- The late stores that a move comes after, performed first (R321): of a command's reads those within whose scope its team lies, of a
granule that is written those that meet it, and all where the package itself works on memory. -/
def State.forMove (s : State) (m : Move) : State :=
  match m with
  | .issue _ | .perform _ _ | .status _ _ | .loaded _ _ | .grant _ _ _ | .release _ _ | .lost _ => s
  | .readAhead slot _ _ => s.commitSeen slot
  | .event (.engineCommandStart slot q) | .event (.engineCommandComplete slot q) => s.commitCmd slot q
  | .owed slot q j => s.commitOwed ((s.teamAt slot).queue q |>.head?.bind (·.owed[j]?))
  | .taskOwed cl k j => s.commitOwed ((s.taskAt cl k).bind (·.owed[j]?))
  | .event i => if untouching i then s else s.commitAll
  | _ => s.commitAll

/-- What a move does. -/
def State.act (s : State) (m : Move) : Out := (s.forMove m).doMove m

/-- The move can come about: a crew's issue, or an event whose meaning is not refused. -/
def enabled (s : State) (m : Move) : Bool :=
  match m with
  | .issue _ => true
  | m =>
    match s.act m with
    | .refused _ => false
    | _ => true

/-- The moves that can come about. Nothing issues once the package has stopped (R19, R427); the management cores still write the
snapshot buffer of the capture that the stop fired (R427, R438; log entry 75). -/
def moves (s : State) : List Move :=
  if !s.booted then [.event .boot]
  else if s.halted then (if s.capture.isSome then [.event .equinoxBufferDone] else [])
  else
    ((s.crews.flatMap fun e => crewCandidates s e.1 e.2) ++ (s.teams.flatMap fun e => teamCandidates s e.1 e.2) ++
      (s.clusters.flatMap fun e => clusterCandidates s.fresh e.1 e.2) ++ placementCandidates s ++ unitCandidates s).filter (enabled s)

/-- Time passes and nothing else (R217). -/
def State.idle (s : State) : State := { s with fresh := s.fresh + 1 }

/-- A move that does not come about after all leaves the state as it is. -/
def orIdle (s : State) (o : Out) : Out :=
  match o with
  | .refused (.notEnabled _) => .next s.idle
  | o => o

/-- Perform a move. -/
def perform1 (s : State) (m : Move) : Out := orIdle s (s.idle.act m)

/-- One move of the part: the only one, or the one chosen (log entry 7). -/
def internal (s : State) : Out :=
  match moves s with
  | [] => .next s.idle
  | [m] => perform1 s m
  | m :: ms => perform1 s ((m :: ms).getD (Config.pick s.fresh % (ms.length + 1)) m)

/-- The events that the outside supplies: host accesses, fabric traffic, the board, power, links, errors. -/
def isInput : Instr → Bool
  | .remoteReply .. | .remoteRequestArrive .. | .requestLost .. | .remoteAcknowledgement .. => true
  | .kick .. | .rctlWrite .. | .ringRecordRead .. | .evdataRead .. | .hostBar2Read .. | .hostBar2Write .. => true
  | .invcmd .. | .attcmd .. | .rsvbase .. | .rsvtail .. | .fdcmd .. | .cirqcmd .. | .seclimitWrite .. => true
  | .eqtrig .. | .vigilClr .. | .vigilSample .. | .registerWrite .. | .i3cHealthRead => true
  | .thermalTrip .. | .powerWindow .. | .linkReplay .. | .linkRetrain .. | .errorWindowEnd .. => true
  | .copyEngineError .. | .matrixEngineError .. | .slotHoldUpdate .. | .crossbarAging .. | .unitFence .. => true
  | _ => false

/-- A ring or fabric request, which bring-up holds until its step 6 is over (R372). -/
def isRequest : Instr → Bool
  | .kick .. | .remoteRequestArrive .. => true
  | _ => false

/-- One step (log entry 4): a storage error or the next input, if there is one; otherwise a move of the part. What arrives before the part
has come up is held, and a ring or fabric request until the launch rings are enabled (R372). -/
def stepOf (s : State) : Out :=
  if !s.booted then internal s
  else
    match s.upsets, s.inputs with
    | u :: r, _ => .next (({ s with upsets := r }).idle.strike u)
    | [], [] => internal s
    | [], none :: r => internal { s with inputs := r }
    | [], some e :: r =>
      let s := { s with inputs := r }
      if isRequest e && !s.opened then .next { s.idle with early := s.early ++ [e] }
      else if isInput e then orIdle s (exec e s.idle) else .next s.idle

/-- The machine with an instruction where the next step fetches: booted, one team of one crew with all its lanes live
in slot 0, whose image's text is the instruction, padded with words of zero (log entry 3). -/
def placed (s : State) (w : Nat) : State :=
  let text := [w32 w, w32 (w / 4294967296), 0#32, 0#32]
  { s with
    booted := true, halted := false, opened := true, upsets := [], inputs := [], cur := 0
    bar0 := fset 0 s.bar0 0x10 1
    crews := [(0, { bound := true, live := BitVec.allOnes 32, exm := BitVec.allOnes 32 })]
    teams := [(0, { ncrew := 1, nteams := 1, nvreg := 96, ntile := 16, nacc := 8, ttf := true, textsize := 16
                    tokhold := 0 })]
    slots := [(0, { st := 1 })]
    clusters := [(0, { images := [{ ctx := 0, va := 0, text := text, hdr := 0, window := none, macros := [] }] })] }

end Sys2Proof.Machine
end

