-- ==== Sys2Proof/Machine/Step.lean ====
section
/-! DEFINITION. The step, and placing an instruction where the step fetches its next one. -/
namespace Sys2Proof.Machine

/-- One step of the package. -/
def step (s : State) : Host.Outcome State Fault Refusal := stepOf s

/-- The state with an instruction of nbits bits, numbered as the opcode table numbers them, at the PC of the one crew
that issues next. -/
def State.withFetchWord (s : State) (_nbits w : Nat) : State := placed s w

end Sys2Proof.Machine
end

