-- ==== Sys2Proof/Safety.lean ====
section
/-! DEFINITION. What counts as a safe run, and the terms in which the statements speak of an instruction: when it may
run, where the crew stands after it, and what of the machine it leaves. -/
namespace Sys2Proof.Safety
open Sys2Proof.Machine

/-- The step goes on: it answers a next state. -/
def goesOn (s : State) : Prop := ∃ s', step s = .next s'

/-- No crew of the package has halted on a trap (R394). -/
def noHalt (s : State) : Prop := ∀ e ∈ s.crews, e.2.halted = false

/-- Stage 1 of R401 passes an instruction with these source codes, and every latch it reads has had its push (R159). -/
def mayRun (s : State) (srcs : List (BitVec 8)) : Prop :=
  readsLatch srcs = true → s.crew.fin = false ∧ pushed s.crew srcs = true

/-- Where the crew stands after an instruction of n words: outside a REP unit and an MCALL the PC moves past it; inside
one the next repeat (R162) or operation (R167) stands next, and after the last the PC moves past the whole. -/
def moved (s t : State) (chained : Bool) (n : Nat) : Prop :=
  match s.crew.run with
  | none => t.crew.run = none ∧ t.crew.pc = s.crew.pc + BitVec.ofNat 32 (4 * n)
  | some (.rep i cnt) =>
    if i < cnt then t.crew.run = some (.rep (i + 1) cnt) ∧ t.crew.pc = s.crew.pc
    else t.crew.run = none ∧ t.crew.pc = s.crew.pc + BitVec.ofNat 32 (4 + 4 * n)
  | some (.mcall op head) =>
    if op + n < entryEnd s.macroWords then
      t.crew.run = some (.mcall (op + n) (if chained then head else op)) ∧ t.crew.pc = s.crew.pc
    else t.crew.run = none ∧ t.crew.pc = s.crew.pc + 4

/-- Nothing but the current crew differs, and the model's own counter (log entry 2). -/
def onlyCrew (s t : State) : Prop :=
  t = { s with crews := t.crews, fresh := s.fresh + 1 } ∧ ∀ k, k ≠ s.cur → t.crewAt k = s.crewAt k

/-- A crew without its lane and uniform registers, its latches, FPSR and RXF, its place in the text, and the bookkeeping of an
instruction's start. What stands: EXM, LaneLive, FPCR, PSEL, STRMDEF, the trap registers but TRAPREP, the roles, the
generators, the handler state, what it waits on and what is outstanding. -/
def rest (c : Crew) : Crew :=
  { c with
    v := [], sr := [], fpsr := 0, rxf := 0, bl0 := [], bl1 := [], bl2 := [], bl3 := [], bs0 := 0, bs1 := 0, bs2 := 0, bs3 := 0
    nL := 0, nS := 0, fin := false, head := none, pc := 0, run := none, handlerCount := 0, traprep := 0, resuming := false
    reissue := false, served := [], got := [] }

/-- The crew's other registers and its state are as they were. -/
def crewKeeps (c c' : Crew) : Prop := rest c' = rest c

/-- The uniform latches are as they were, and no uniform register is written. -/
def uniformKept (c c' : Crew) : Prop :=
  c'.sr = c.sr ∧ c'.bs0 = c.bs0 ∧ c'.bs1 = c.bs1 ∧ c'.bs2 = c.bs2 ∧ c'.bs3 = c.bs3

/-- The lane latches are as they were, and no lane register is written. -/
def lanesKept (c c' : Crew) : Prop :=
  c'.v = c.v ∧ c'.bl0 = c.bl0 ∧ c'.bl1 = c.bl1 ∧ c'.bl2 = c.bl2 ∧ c'.bl3 = c.bl3

/-- Every stored lane register after a lane result f in D: an active lane's word of D, or of D and the register after it for
a pair, unless NW is set; every other word of every register as it was (R8, R53, R158). -/
def laneWritten (s : State) (wide nw : Bool) (d : Nat) (f : Nat → DWord) (c' : Crew) : Prop :=
  ∀ n, fget 0 c'.v n =
    if nw = false ∧ n / 32 = vIndex s.crew d ∧ n % 32 ∈ s.active then (f (n % 32)).extractLsb' 0 32
    else if nw = false ∧ wide = true ∧ n / 32 = vIndex s.crew (d + 1) ∧ n % 32 ∈ s.active then (f (n % 32)).extractLsb' 32 32
    else fget 0 s.crew.v n

/-- A lane result is pushed: BL0 holds it, 32-bit results extended with zeros, zero in inactive lanes; the others move up
(R156). -/
def lanePushed (s : State) (wide : Bool) (f : Nat → DWord) (c' : Crew) : Prop :=
  (∀ l, fget 0 c'.bl0 l = if l ∈ s.active then (if wide then f l else ((f l).setWidth 32).setWidth 64) else 0) ∧
    c'.bl1 = s.crew.bl0 ∧ c'.bl2 = s.crew.bl1 ∧ c'.bl3 = s.crew.bl2

/-- A uniform result x in S register d: that register unless NW is set, no other; the result pushed (R156, R158). -/
def uniformWritten (s : State) (nw : Bool) (d : Nat) (x : DWord) (c' : Crew) : Prop :=
  (∀ n, fget 0 c'.sr n = if nw = false ∧ n = sIndex s.crew d then x else fget 0 s.crew.sr n) ∧
    c'.bs0 = x ∧ c'.bs1 = s.crew.bs0 ∧ c'.bs2 = s.crew.bs1 ∧ c'.bs3 = s.crew.bs2

/-- The instruction completes with lane result f in D and flags fl, and leaves everything else. -/
def laneDone (o : Out) (s : State) (wide nw : Bool) (d : BitVec 7) (srcs : List (BitVec 8)) (words fl : Nat)
    (f : Nat → DWord) : Prop :=
  ∃ t, o = .next t ∧ onlyCrew s t ∧ crewKeeps s.crew t.crew ∧ moved s t (readsLatch srcs) words ∧
    uniformKept s.crew t.crew ∧ t.crew.rxf = s.crew.rxf ∧ t.crew.fpsr = s.crew.fpsr ||| dw fl ∧
    laneWritten s wide nw d.toNat f t.crew ∧ lanePushed s wide f t.crew

/-- The instruction completes with uniform result x in D and flags fl, and leaves everything else. -/
def uniformDone (o : Out) (s : State) (nw : Bool) (d : BitVec 7) (srcs : List (BitVec 8)) (words fl : Nat) (x : DWord) : Prop :=
  ∃ t, o = .next t ∧ onlyCrew s t ∧ crewKeeps s.crew t.crew ∧ moved s t (readsLatch srcs) words ∧
    lanesKept s.crew t.crew ∧ t.crew.rxf = s.crew.rxf ∧ t.crew.fpsr = s.crew.fpsr ||| dw fl ∧
    uniformWritten s nw (sNum d) x t.crew

/-- The crew moves on with nothing written but what other clauses name. -/
def quiet (s t : State) : Prop :=
  onlyCrew s t ∧ lanesKept s.crew t.crew ∧ t.crew.fpsr = s.crew.fpsr ∧ t.crew.rxf = s.crew.rxf

/-- The effect of R388 to R392 and R394 for a synchronous or software cause: the trap registers, the latches and counts zero; then
the handler, with HS0 holding the interrupted EXM and EXM every live lane, or a halt that ends the crew's fault domain. Lane and
uniform registers, FPSR, RXF, memory and the teams stay, HS0 apart. -/
def trapped (s t : State) (code : Nat) (lanes : BitVec 32) (addr : DWord) (info : Nat) (pc resume : BitVec 32) (rep : Nat) : Prop :=
  let c := t.crew
  c.trapcause = BitVec.ofNat 64 (code + info * 2 ^ 48) ∧ c.trappc = pc.setWidth 64 ∧ c.traplanes = lanes.setWidth 64 ∧
    c.trapaddr = addr ∧ c.resumepc = resume.setWidth 64 ∧ c.traprep = BitVec.ofNat 64 rep ∧
    (c.bl0 = [] ∧ c.bl1 = [] ∧ c.bl2 = [] ∧ c.bl3 = [] ∧ c.bs0 = 0 ∧ c.bs1 = 0 ∧ c.bs2 = 0 ∧ c.bs3 = 0) ∧
    (c.nL = 0 ∧ c.nS = 0 ∧ c.fin = false ∧ c.run = none ∧ c.block = none) ∧
    c.v = s.crew.v ∧ c.fpsr = s.crew.fpsr ∧ c.rxf = s.crew.rxf ∧ c.fpcr = s.crew.fpcr ∧ c.psel = s.crew.psel ∧
    c.live = s.crew.live ∧ t.mem = s.mem ∧ t.teams = s.teams ∧ t.cur = s.cur ∧ (∀ k, k ≠ s.cur → t.crewAt k = s.crewAt k) ∧
    if s.team.hndl = true ∧ s.crew.inHandler = false then
      c.inHandler = true ∧ c.halted = s.crew.halted ∧ c.pc = BitVec.ofNat 32 s.team.handler ∧ c.exm = s.liveMask ∧
        (∀ n, fget 0 c.sr n = if n = 32 then s.crew.exm.setWidth 64 else fget 0 s.crew.sr n) ∧ t.ends = s.ends
    else
      c.halted = true ∧ c.inHandler = s.crew.inHandler ∧ c.exm = s.crew.exm ∧ c.sr = s.crew.sr ∧
        t.ends = s.ends ++ [{ ctx := s.team.ctx, fdom := s.team.fdom, crew := some s.cur, driver := false }]

/-- Where an instruction outside REP and MCALL resumes after its trap: at the chain's head when it reads a latch (Table 22.4). -/
def resumeAt (s : State) (chained : Bool) : BitVec 32 := if chained then s.crew.head.getD s.crew.pc else s.crew.pc

end Sys2Proof.Safety
end

