-- ==== Sys2Proof/Certificates/Slice0/Obligations.lean ====
section
/-! DEFINITION. The statements for the provers, from the numbered rules of the spec. -/
open Sys2Proof Sys2Proof.Machine Sys2Proof.Safety

namespace Sys2Proof.Claims

/-- Element j of width w of a register. -/
def element (w j : Nat) (x : Word) : Nat := x.toNat / 2 ^ (w * j) % 2 ^ w

/-- SignExt(a, w) of R6. -/
def signed (w a : Nat) : Int := if a < 2 ^ (w - 1) then a else a - 2 ^ w

/-- Table 8.1: FMT and element width. -/
def intFormats : List (BitVec 4 × Nat) := [(0xD#4, 32), (0xB#4, 16), (0x8#4, 8)]

/-- Table 8.2: the one-word form, the two-word form, and the element result v from w, a and b. -/
def packedForms (nw : Bool) (d : BitVec 7) (a b : BitVec 8) (fmt : BitVec 4) : List (Instr × Instr × (Nat → Nat → Nat → Int)) :=
  [(.iadd nw d a b, .iaddExt nw d a fmt b, fun _ x y => (x : Int) + y),
   (.isub nw d a b, .isubExt nw d a fmt b, fun _ x y => (x : Int) - y),
   (.imul nw d a b, .imulExt nw d a fmt b, fun _ x y => (x : Int) * y),
   (.imulhs nw d a b, .imulhsExt nw d a fmt b, fun w x y => signed w x * signed w y / 2 ^ w),
   (.imulhu nw d a b, .imulhuExt nw d a fmt b, fun w x y => (x : Int) * y / 2 ^ w)]

/-- The number of bits k below 32 of a word that satisfy a test. -/
def countBits (x : Word) : Nat := (List.range 32).countP (fun k => x.getLsbD k)

/-- The leading zero bits of a word. -/
def leading (x : Word) : Nat := ((List.range 32).takeWhile (fun k => !x.getLsbD (31 - k))).length

/-- Table 8.3, two-operand instructions. -/
def wordForms (nw : Bool) (d : BitVec 7) (a b : BitVec 8) : List (Instr × (Word → Word → Word)) :=
  [(.imin nw d a b, fun x y => if x.toInt ≤ y.toInt then x else y),
   (.imax nw d a b, fun x y => if x.toInt ≤ y.toInt then y else x),
   (.umin nw d a b, fun x y => if x.toNat ≤ y.toNat then x else y),
   (.umax nw d a b, fun x y => if x.toNat ≤ y.toNat then y else x),
   (.vand nw d a b, fun x y => x &&& y), (.vor nw d a b, fun x y => x ||| y), (.vxor nw d a b, fun x y => x ^^^ y),
   (.vandn nw d a b, fun x y => x &&& ~~~y),
   (.shl nw d a b, fun x y => BitVec.ofNat 32 (x.toNat * 2 ^ y.toNat)),
   (.shr nw d a b, fun x y => BitVec.ofNat 32 (x.toNat / 2 ^ y.toNat)),
   (.sar nw d a b, fun x y => BitVec.ofInt 32 (x.toInt / 2 ^ min y.toNat 31)),
   (.rotl nw d a b, fun x y => x <<< (y.toNat % 32) ||| x >>> (32 - y.toNat % 32))]

/-- Table 8.3, one-operand instructions. -/
def unaryForms (nw : Bool) (d : BitVec 7) (a : BitVec 8) : List (Instr × (Word → Word)) :=
  [(.popc nw d a, fun x => BitVec.ofNat 32 (countBits x)), (.clz nw d a, fun x => BitVec.ofNat 32 (leading x)),
   (.brev nw d a, fun x => x.reverse)]

/-- Table 8.4. -/
def immForms (nw : Bool) (d : BitVec 7) (a imm : BitVec 8) : List (Instr × (Word → Word)) :=
  [(.iaddi nw d a imm, fun x => x + imm.signExtend 32),
   (.shli nw d a imm, fun x => BitVec.ofNat 32 (x.toNat * 2 ^ imm.toNat)),
   (.shri nw d a imm, fun x => BitVec.ofNat 32 (x.toNat / 2 ^ imm.toNat)),
   (.sari nw d a imm, fun x => BitVec.ofInt 32 (x.toInt / 2 ^ min imm.toNat 31)),
   (.andi nw d a imm, fun x => x &&& imm.signExtend 32), (.ori nw d a imm, fun x => x ||| imm.signExtend 32),
   (.xori nw d a imm, fun x => x ^^^ imm.signExtend 32)]

/-- Bit k of what BFX extracts (R181): the field at pos, len bits long, filled with zeros or the sign of A. -/
def bfxBit (sx : Bool) (x y : Word) (k : Nat) : Bool :=
  let pos := y.toNat % 256
  let len := min (y.toNat / 256 % 256) 32
  let raw (k : Nat) : Bool := if pos + k < 32 then x.getLsbD (pos + k) else sx && x.getLsbD 31
  if k < len then raw k else sx && decide (0 < len) && raw (len - 1)

/-- Bit k of what BFI forms (R181). -/
def bfiBit (x y z : Word) (k : Nat) : Bool :=
  let pos := y.toNat % 256
  let len := min (y.toNat / 256 % 256) 32
  if pos ≤ k ∧ k < pos + len then x.getLsbD (k - pos) else z.getLsbD k

/-- Bit i of byte j of what BPERM forms (R182). -/
def bpermBit (x y z : Word) (j i : Nat) : Bool :=
  let sel := z.toNat / 2 ^ (8 * j) % 256
  let byte (i : Nat) : Bool := (y ++ x).getLsbD (8 * (sel % 8) + i)
  let turned (i : Nat) : Bool := if sel.testBit 7 then byte (7 - i) else byte i
  let spread (i : Nat) : Bool := if sel.testBit 6 then turned 7 else turned i
  !sel.testBit 5 && spread i

end Sys2Proof.Claims

open Sys2Proof.Claims

/-- R177: the packed integer family, both forms, every element width. -/
def Obligations.PackedIntegerResults : Prop :=
  ∀ (s : State) (nw : Bool) (d : BitVec 7) (a b : BitVec 8), s.dV d = true → s.laneOk a = true → s.laneOk b = true →
    mayRun s [a, b] → ∀ f ∈ intFormats, ∀ e ∈ packedForms nw d a b f.1,
      ∃ r : Nat → Word,
        (∀ l ∈ s.active, ∀ j, j < 32 / f.2 →
          (element f.2 j (r l) : Int) = e.2.2 f.2 (element f.2 j (s.lane a l)) (element f.2 j (s.lane b l)) % 2 ^ f.2) ∧
        laneDone (exec e.2.1 s) s false nw d [a, b] 2 0 (fun l => (r l).setWidth 64) ∧
        (f.1 = 0xD#4 → laneDone (exec e.1 s) s false nw d [a, b] 1 0 (fun l => (r l).setWidth 64))

/-- R179, R180: logic, shifts, counts and the immediate forms. -/
def Sys2Proof.Claims.wordResults : Prop :=
  ∀ (s : State) (nw : Bool) (d : BitVec 7) (a b imm : BitVec 8), s.dV d = true → s.laneOk a = true → mayRun s [a] →
    (s.laneOk b = true → mayRun s [a, b] → ∀ e ∈ wordForms nw d a b,
      laneDone (exec e.1 s) s false nw d [a, b] 1 0 (fun l => (e.2 (s.lane a l) (s.lane b l)).setWidth 64)) ∧
    ∀ e ∈ unaryForms nw d a ++ immForms nw d a imm,
      laneDone (exec e.1 s) s false nw d [a] 1 0 (fun l => (e.2 (s.lane a l)).setWidth 64)

/-- R178, R181, R182, R183: IMAD, BFX, BFI, BPERM and BITF. -/
def Sys2Proof.Claims.bitFieldResults : Prop :=
  ∀ (s : State) (nw : Bool) (d : BitVec 7) (a b c : BitVec 8) (sx : BitVec 1) (f0 f1 : BitVec 4), s.dV d = true →
    s.laneOk a = true → s.laneOk b = true → mayRun s [a, b] →
    (∃ r : Nat → Word, (∀ l ∈ s.active, ∀ k, k < 32 → (r l).getLsbD k = bfxBit (sx == 1#1) (s.lane a l) (s.lane b l) k) ∧
      laneDone (exec (.bfx nw d a b sx) s) s false nw d [a, b] 2 0 (fun l => (r l).setWidth 64)) ∧
    (s.laneOk c = true → mayRun s [a, b, c] →
      laneDone (exec (.imad nw d a b c) s) s false nw d [a, b, c] 2 0
        (fun l => (s.lane a l * s.lane b l + s.lane c l).setWidth 64) ∧
      (∃ r : Nat → Word, (∀ l ∈ s.active, ∀ k, k < 32 → (r l).getLsbD k = bfiBit (s.lane a l) (s.lane b l) (s.lane c l) k) ∧
        laneDone (exec (.bfi nw d a b c) s) s false nw d [a, b, c] 2 0 (fun l => (r l).setWidth 64)) ∧
      (∃ r : Nat → Word, (∀ l ∈ s.active, ∀ j i, j < 4 → i < 8 →
          (r l).getLsbD (8 * j + i) = bpermBit (s.lane a l) (s.lane b l) (s.lane c l) j i) ∧
        laneDone (exec (.bperm nw d a b c) s) s false nw d [a, b, c] 2 0 (fun l => (r l).setWidth 64)) ∧
      (∃ r : Nat → Word, (∀ l ∈ s.active, ∀ k, k < 32 → (r l).getLsbD k =
          (if (s.lane c l).getLsbD k then f1 else f0).getLsbD
            (2 * ((s.lane b l).getLsbD k).toNat + ((s.lane a l).getLsbD k).toNat)) ∧
        laneDone (exec (.bitf nw d a b c f1 f0) s) s false nw d [a, b, c] 2 0 (fun l => (r l).setWidth 64)))

/-- R178 to R183: the logic, shift, count, immediate, multiply-add and bit-field instructions. -/
def Obligations.IntegerWordResults : Prop :=
  Claims.wordResults ∧ Claims.bitFieldResults

/-- R184, R186, R187: 64-bit integers on pairs, SEL, MOV and MOVI. -/
def Sys2Proof.Claims.pairAndMoveResults : Prop :=
  ∀ (s : State) (nw : Bool) (d : BitVec 7) (a b c : BitVec 8) (imm : BitVec 32),
    (s.dPair d = true → s.pairOk a = true → s.pairOk b = true → mayRun s [a, b] →
      laneDone (exec (.iadd64 nw d a b) s) s true nw d [a, b] 1 0 (fun l => s.pair a l + s.pair b l) ∧
      laneDone (exec (.isub64 nw d a b) s) s true nw d [a, b] 1 0 (fun l => s.pair a l - s.pair b l)) ∧
    (s.dPair d = true → s.laneOk a = true → s.laneOk b = true → mayRun s [a, b] →
      laneDone (exec (.imulw nw d a b) s) s true nw d [a, b] 1 0
        (fun l => BitVec.ofInt 64 ((s.lane a l).toInt * (s.lane b l).toInt))) ∧
    (s.dV d = true → laneDone (exec (.movi nw d imm) s) s false nw d [] 2 0 (fun _ => imm.setWidth 64)) ∧
    (s.dV d = true → s.laneOk a = true → mayRun s [a] →
      laneDone (exec (.mov nw d a) s) s false nw d [a] 1 0 (fun l => (s.lane a l).setWidth 64)) ∧
    (s.dV d = true → s.laneOk a = true → s.laneOk b = true → s.laneOk c = true → mayRun s [a, b, c] →
      laneDone (exec (.sel nw d a b c 0#1) s) s false nw d [a, b, c] 2 0 (fun l =>
        (if (if isUniform c then (s.uni c).getLsbD l else s.lane c l != 0) then s.lane a l else s.lane b l).setWidth 64)) ∧
    (s.dPair d = true → s.pairOk a = true → s.pairOk b = true → s.laneOk c = true → mayRun s [a, b, c] →
      laneDone (exec (.sel nw d a b c 1#1) s) s true nw d [a, b, c] 2 0 (fun l =>
        if (if isUniform c then (s.uni c).getLsbD l else s.lane c l != 0) then s.pair a l else s.pair b l))

/-! Floating point. -/

namespace Sys2Proof.Claims

/-- Table 8.7: FMT, the elements of an operand and their width. -/
def floatFormats : List (BitVec 4 × Nat × Nat) := [(1#4, 1, 32), (0#4, 1, 64), (3#4, 2, 16), (2#4, 2, 16)]

/-- Element j of width z of what a lane reads from a source. -/
def laneElement (s : State) (wide : Bool) (z : Nat) (x : BitVec 8) (l j : Nat) : Nat :=
  (s.laneW wide x l).toNat / 2 ^ (z * j) % 2 ^ z

/-- r holds the results g of n elements of width z in every active lane, and fl the flags that any of them raises (R106). -/
def elementwise (s : State) (n z : Nat) (g : Nat → Nat → Res) (r : Nat → DWord) (fl : Nat) : Prop :=
  (∀ l ∈ s.active, ∀ j, j < n → (r l).toNat / 2 ^ (z * j) % 2 ^ z = (g l j).code % 2 ^ z) ∧
    ∀ k, fl.testBit k = true ↔ ∃ l ∈ s.active, ∃ j, j < n ∧ (g l j).fl.testBit k = true

/-- The binary instructions of R189: the one-word form, the two-word form, and the operation on elements. -/
def floatForms2 (nw : Bool) (d : BitVec 7) (a b : BitVec 8) (fmt : BitVec 4) :
    List (Instr × Instr × (Nat → Mode → Nat → Nat → Res)) :=
  [(.fadd nw d a b, .faddExt nw d a fmt b, fAdd), (.fsub nw d a b, .fsubExt nw d a fmt b, fSub),
   (.fmul nw d a b, .fmulExt nw d a fmt b, fMul),
   (.fmin nw d a b, .fminExt nw d a fmt b, fun k _ => fminmax k false false),
   (.fmax nw d a b, .fmaxExt nw d a fmt b, fun k _ => fminmax k true false),
   (.fminn nw d a b, .fminnExt nw d a fmt b, fun k _ => fminmax k false true),
   (.fmaxn nw d a b, .fmaxnExt nw d a fmt b, fun k _ => fminmax k true true)]

/-- The unary instructions of R191. -/
def floatForms1 (nw : Bool) (d : BitVec 7) (a : BitVec 8) (fmt : BitVec 4) :
    List (Instr × Instr × (Nat → Mode → Nat → Res)) :=
  [(.frcp nw d a, .frcpExt nw d a fmt, fun k _ => fRcp k), (.frsq nw d a, .frsqExt nw d a fmt, fun k _ => fRsq k),
   (.fexp2 nw d a, .fexp2Ext nw d a fmt, fun k _ => fExp2 k), (.flog2 nw d a, .flog2Ext nw d a fmt, fun k _ => fLog2 k),
   (.fsinpi nw d a, .fsinpiExt nw d a fmt, fun k _ => fSinPi k),
   (.fcospi nw d a, .fcospiExt nw d a fmt, fun k _ => fCosPi k),
   (.fsqrt nw d a, .fsqrtExt nw d a fmt, fSqrt), (.frnd nw d a, .frndExt nw d a fmt, fRnd)]

/-- The class bit of Table 8.8 for an element: its sign, exponent field and fraction field. -/
def classBit (fmt : BitVec 4) (z x : Nat) : Nat :=
  let m := (floatFmt fmt.toNat).m
  let neg := x / 2 ^ (z - 1) % 2 = 1
  let e := x / 2 ^ m % 2 ^ (z - 1 - m)
  let f := x % 2 ^ m
  if e = 2 ^ (z - 1 - m) - 1 then
    if f = 0 then (if neg then 2 else 9) else if f / 2 ^ (m - 1) % 2 = 0 then 0 else 1
  else if e = 0 then
    if f = 0 then (if neg then 5 else 6) else if neg then 4 else 7
  else if neg then 3 else 8

end Sys2Proof.Claims

/-- R188, R189, R115: the binary floating-point instructions in both forms and every format. -/
def Obligations.FloatBinaryResults : Prop :=
  ∀ (s : State) (nw : Bool) (d : BitVec 7) (a b : BitVec 8), mayRun s [a, b] → ∀ k ∈ floatFormats,
    s.dstOk (k.1 == 0#4) d = true → s.srcOk (k.1 == 0#4) a = true → s.srcOk (k.1 == 0#4) b = true →
    ∀ e ∈ floatForms2 nw d a b k.1, ∃ (r : Nat → DWord) (fl : Nat),
      elementwise s k.2.1 k.2.2 (fun l j => e.2.2 k.1.toNat s.crew.mode (laneElement s (k.1 == 0#4) k.2.2 a l j)
        (laneElement s (k.1 == 0#4) k.2.2 b l j)) r fl ∧
      laneDone (exec e.2.1 s) s (k.1 == 0#4) nw d [a, b] 2 fl r ∧
      (k.1 = 1#4 → laneDone (exec e.1 s) s false nw d [a, b] 1 fl r)

/-- R190: FFMA, with the old D as its addend in one word and C in two. -/
def Obligations.FusedMultiplyAdd : Prop :=
  ∀ (s : State) (nw : Bool) (d : BitVec 7) (a b c : BitVec 8),
    (mayRun s [a, b, c] → ∀ k ∈ floatFormats, s.dstOk (k.1 == 0#4) d = true → s.srcOk (k.1 == 0#4) a = true →
      s.srcOk (k.1 == 0#4) b = true → s.srcOk (k.1 == 0#4) c = true → ∃ (r : Nat → DWord) (fl : Nat),
        elementwise s k.2.1 k.2.2 (fun l j => fFma k.1.toNat s.crew.mode (laneElement s (k.1 == 0#4) k.2.2 a l j)
          (laneElement s (k.1 == 0#4) k.2.2 b l j) (laneElement s (k.1 == 0#4) k.2.2 c l j)) r fl ∧
        laneDone (exec (.ffmaExt nw d a c k.1 b) s) s (k.1 == 0#4) nw d [a, b, c] 2 fl r) ∧
    (mayRun s [a, b] → s.dV d = true → s.laneOk a = true → s.laneOk b = true → ∃ (r : Nat → DWord) (fl : Nat),
      elementwise s 1 32 (fun l _ => fFma 1 s.crew.mode (s.lane a l).toNat (s.lane b l).toNat
        (s.crew.getV d.toNat l).toNat) r fl ∧
      laneDone (exec (.ffma nw d a b) s) s false nw d [a, b] 1 fl r)

/-- R191, R192: the unary functions and FCLASS, in both forms and every format. -/
def Obligations.FloatUnaryResults : Prop :=
  ∀ (s : State) (nw : Bool) (d : BitVec 7) (a : BitVec 8), mayRun s [a] → ∀ k ∈ floatFormats,
    s.srcOk (k.1 == 0#4) a = true →
    (s.dstOk (k.1 == 0#4) d = true → ∀ e ∈ floatForms1 nw d a k.1, ∃ (r : Nat → DWord) (fl : Nat),
      elementwise s k.2.1 k.2.2
        (fun l j => e.2.2 k.1.toNat s.crew.mode (laneElement s (k.1 == 0#4) k.2.2 a l j)) r fl ∧
      laneDone (exec e.2.1 s) s (k.1 == 0#4) nw d [a] 2 fl r ∧
      (k.1 = 1#4 → laneDone (exec e.1 s) s false nw d [a] 1 fl r)) ∧
    (s.dstOk (k.1 == 0#4) d = true → ∃ r : Nat → DWord,
      (∀ l ∈ s.active, (r l).toNat = ((List.range k.2.1).map fun j =>
        2 ^ (16 * j + classBit k.1 k.2.2 (laneElement s (k.1 == 0#4) k.2.2 a l j))).sum) ∧
      laneDone (exec (.fclassExt nw d a k.1) s) s false nw d [a] 2 0 r ∧
      (k.1 = 1#4 → laneDone (exec (.fclass nw d a) s) s false nw d [a] 1 0 r))

/-- R102, R113: a NaN operand gives the default NaN, with IV only for a signalling one. -/
def Obligations.NaNOperands : Prop :=
  ∀ f ∈ [0, 1, 2, 3], ∀ (mode : Mode) (x y : Nat), ((valOf f x).isNaN || (valOf f y).isNaN) = true →
    (∀ g ∈ [fAdd f mode, fSub f mode, fMul f mode], (g x y).code = (defaultNaN f).getD 0 ∧
      (g x y).fl = if (valOf f x).isSNaN || (valOf f y).isSNaN then 1 else 0) ∧
    (∀ z : Nat, (fFma f mode x y z).code = (defaultNaN f).getD 0)

/-- The place of a code that is no NaN in the order of its format, −0 below +0: the codes with the sign fall from −1. -/
def Sys2Proof.Claims.place (z x : Nat) : Int := if x < 2 ^ (z - 1) then x else 2 ^ (z - 1) - 1 - x

/-- R115: FMIN, FMAX, FMINN and FMAXN on codes of z bits: the lesser or the greater of two numbers, −0 below +0; with one NaN
the default NaN or the number, with two the default NaN; IV if a NaN signals. -/
def Obligations.MinimumMaximum : Prop :=
  ∀ k ∈ [(0, 64), (1, 32), (2, 16), (3, 16)], ∀ (number : Bool) (x y : Nat), x < 2 ^ k.2 → y < 2 ^ k.2 →
    let nan := (defaultNaN k.1).getD 0
    let low := fminmax k.1 false number x y
    let high := fminmax k.1 true number x y
    if (valOf k.1 x).isNaN || (valOf k.1 y).isNaN then
      let code := if (valOf k.1 x).isNaN && (valOf k.1 y).isNaN then nan
        else if number then (if (valOf k.1 x).isNaN then y else x) else nan
      let fl := if (valOf k.1 x).isSNaN || (valOf k.1 y).isSNaN then 1 else 0
      low.code = code ∧ high.code = code ∧ low.fl = fl ∧ high.fl = fl
    else
      low.code = (if place k.2 x ≤ place k.2 y then x else y) ∧ high.code = (if place k.2 x ≤ place k.2 y then y else x) ∧
        low.fl = 0 ∧ high.fl = 0

/-- R108, R109: the lower of the two members next to a value is the greatest member at most the value, and in every mode a rounding that
does not overflow gives one of the two. -/
def Sys2Proof.Claims.roundingNeighbours : Prop :=
  ∀ f ∈ [0, 1, 2, 3, 4, 5, 6], ∀ (a : Nat) (e : Int), 0 < a →
    let x : Ex := { a := (a : Int), e := e }
    (memberOf f (floorIndex f x)).le x = true ∧ x.lt (memberOf f (floorIndex f x + 1)) = true ∧
      ∀ (mode : Mode) (neg : Bool), floorIndex f x < maxIndex f neg → (memberOf f (maxIndex f neg)).lt x = false →
        ∃ k, (k = floorIndex f x ∨ k = floorIndex f x + 1) ∧
          (roundTo f mode (.num neg x)).code = (if neg = true then 2 ^ (zOf f - 1) else 0) + k

/-! Conversions, dot products and L6. -/

namespace Sys2Proof.Claims

/-- fl holds the flags that the results g raise in some active lane (R106). -/
def anyFlags (s : State) (g : Nat → Res) (fl : Nat) : Prop :=
  ∀ k, fl.testBit k = true ↔ ∃ l ∈ s.active, (g l).fl.testBit k = true

/-- What PACK reads and converts in a lane, by its target (R196). -/
def packed (s : State) (a : BitVec 8) (fmt l : Nat) : Res :=
  if fmt = 15 then { code := (s.lane a l).toNat % 256 }
  else if 8 ≤ fmt ∧ fmt ≤ 13 then cvt 13 fmt s.crew.mode (valOf 13 (s.lane a l).toNat)
  else cvt 1 fmt s.crew.mode (valOf 1 (s.lane a l).toNat)

/-- What UNPK makes of an element (R197). -/
def unpacked (fmt e : Nat) : Res :=
  if fmt = 15 ∨ fmt = 10 ∨ fmt = 12 then { code := e }
  else if 8 ≤ fmt ∧ fmt ≤ 13 then { code := (signed (zOf fmt) e % 2 ^ 32).toNat }
  else cvt fmt 1 .rne (valOf fmt e)

/-- SIX is allowed for a source format, and IDX for a target (R194, R196). -/
def placeOk (fmt six : Nat) : Prop := if fmt = 0 then six = 0 else six < 32 / zOf fmt

/-- The source element of CVT in a lane (R194). -/
def source (s : State) (a : BitVec 8) (src six l : Nat) : Nat :=
  (s.laneW (src == 0) a l).toNat / 2 ^ (zOf src * six) % 2 ^ zOf src

/-- The sum of the products of IDOT4: n elements of width w, signed or not (R198). -/
def dotSum (n w : Nat) (sg : Bool) (x y : Word) : Int :=
  ((List.range n).map fun j =>
    if sg then signed w (element w j x) * signed w (element w j y) else (element w j x : Int) * element w j y).sum

/-- FMT of IDOT4: elements, width, signed. -/
def dotFormats : List (BitVec 4 × Nat × Nat × Bool) := [(8#4, 4, 8, true), (10#4, 4, 8, false), (9#4, 8, 4, true)]

end Sys2Proof.Claims

/-- R194, R111: CVT without stochastic rounding, RAW included. That an integer that saturates raises OF and NX is the model's
reading (log entry 31). -/
def Obligations.ConversionResults : Prop :=
  ∀ (s : State) (nw : Bool) (d : BitVec 7) (a : BitVec 8) (fmt sfmt : BitVec 4) (six : BitVec 3), mayRun s [a] →
    s.dstOk (fmt.toNat == 0) d = true → s.srcOk (sfmt.toNat == 0) a = true → placeOk sfmt.toNat six.toNat →
    (sfmt.toNat = 15 ∨ fmt.toNat = 15 →
      laneDone (exec (.cvt nw d a fmt six sfmt) s) s (fmt.toNat == 0) nw d [a] 2 0
        (fun l => dw (source s a sfmt.toNat six.toNat l % 256))) ∧
    (sfmt.toNat ≠ 15 → fmt.toNat ≠ 15 → s.crew.sre = false ∨ widening sfmt.toNat fmt.toNat = true →
      ∃ (r : Nat → DWord) (fl : Nat),
        elementwise s 1 64 (fun l _ => cvt sfmt.toNat fmt.toNat s.crew.mode
          (valOf sfmt.toNat (source s a sfmt.toNat six.toNat l))) r fl ∧
        laneDone (exec (.cvt nw d a fmt six sfmt) s) s (fmt.toNat == 0) nw d [a] 2 fl r)

/-- R195 to R197: CVTSC without stochastic rounding, PACK and UNPK. An infinite product saturates: the model's reading (log entry
32). -/
def Obligations.ScalePackUnpack : Prop :=
  ∀ (s : State) (nw : Bool) (d : BitVec 7) (a b : BitVec 8) (fmt sfmt : BitVec 4) (six : BitVec 3),
    (mayRun s [a, b] → s.dstOk (fmt.toNat == 0) d = true → s.srcOk (sfmt.toNat == 0) a = true → s.laneOk b = true →
      placeOk sfmt.toNat six.toNat → sfmt.toNat ≠ 15 → fmt.toNat ≠ 15 → s.crew.sre = false →
      ∃ (r : Nat → DWord) (fl : Nat),
        elementwise s 1 64 (fun l _ =>
          let p := vMul (valOf sfmt.toNat (source s a sfmt.toNat six.toNat l)) (valOf 1 (s.lane b l).toNat)
          let c := cvtNarrow fmt.toNat s.crew.mode p.v
          { code := c.code, fl := c.fl ||| p.fl }) r fl ∧
        laneDone (exec (.cvtsc nw d a b fmt six sfmt) s) s (fmt.toNat == 0) nw d [a, b] 2 fl r) ∧
    (mayRun s [a, b] → s.dV d = true → s.laneOk a = true → s.laneOk b = true → fmt.toNat ≠ 0 →
      placeOk fmt.toNat six.toNat → ∃ (r : Nat → Word) (fl : Nat),
        anyFlags s (packed s a fmt.toNat) fl ∧
        (∀ l ∈ s.active, ∀ j, j < 32 / zOf fmt.toNat → element (zOf fmt.toNat) j (r l) =
          if j = six.toNat then (packed s a fmt.toNat l).code % 2 ^ zOf fmt.toNat
          else element (zOf fmt.toNat) j (s.lane b l)) ∧
        laneDone (exec (.pack nw d a b fmt six) s) s false nw d [a, b] 2 fl (fun l => (r l).setWidth 64)) ∧
    (mayRun s [a] → s.dV d = true → s.laneOk a = true → fmt.toNat ≠ 0 → placeOk fmt.toNat six.toNat →
      ∃ (r : Nat → DWord) (fl : Nat),
        anyFlags s (fun l => unpacked fmt.toNat (element (zOf fmt.toNat) six.toNat (s.lane a l))) fl ∧
        (∀ l ∈ s.active, (r l).toNat = (unpacked fmt.toNat (element (zOf fmt.toNat) six.toNat (s.lane a l))).code) ∧
        laneDone (exec (.unpk nw d a fmt six) s) s false nw d [a] 2 fl r)

/-- R108 to R110: a narrowing CVT under SRE advances the generator of each lane whose value is rounded, and rounds with its
new low 16 bits. -/
def Sys2Proof.Claims.stochasticRounding : Prop :=
  ∀ (s : State) (d : BitVec 7) (a : BitVec 8) (fmt sfmt : BitVec 4) (six : BitVec 3), mayRun s [a] →
    s.dV d = true → s.srcOk (sfmt.toNat == 0) a = true → placeOk sfmt.toNat six.toNat → sfmt.toNat ≠ 15 →
    fmt.toNat ≠ 15 → fmt.toNat ≠ 0 → s.crew.sre = true → widening sfmt.toNat fmt.toNat = false →
    ∃ t, exec (.cvt false d a fmt six sfmt) s = .next t ∧
      (∀ l ∈ s.active, (t.crew.getV d.toNat l).toNat =
        (cvt sfmt.toNat fmt.toNat (.sr ((seedNext (fget 0 s.crew.seed l)).toNat % 65536))
          (valOf sfmt.toNat (source s a sfmt.toNat six.toNat l))).code) ∧
      ∀ l, fget 0 t.crew.seed l =
        if l ∈ s.active ∧ rounds fmt.toNat (valOf sfmt.toNat (source s a sfmt.toNat six.toNat l)) = true then
          seedNext (fget 0 s.crew.seed l)
        else fget 0 s.crew.seed l

/-- R108 to R110: what a rounding gives, and what it draws. Which values draw is the model's reading (log entry 33). -/
def Obligations.Rounding : Prop :=
  Claims.roundingNeighbours ∧ Claims.stochasticRounding

/-- R198, R199: IDOT4 and FDOT2, with the old D as the accumulator in one word and C in two. The sign of an exact zero sum is the
model's reading (log entry 37). -/
def Obligations.DotProductResults : Prop :=
  ∀ (s : State) (nw : Bool) (d : BitVec 7) (a b c : BitVec 8), s.dV d = true → s.laneOk a = true → s.laneOk b = true →
    (mayRun s [a, b] →
      laneDone (exec (.idot4 nw d a b) s) s false nw d [a, b] 1 0 (fun l =>
        BitVec.ofInt 64 (((s.crew.getV d.toNat l).toNat + dotSum 4 8 true (s.lane a l) (s.lane b l)) % 2 ^ 32)) ∧
      ∃ (r : Nat → DWord) (fl : Nat),
        elementwise s 1 32 (fun l _ => fdot2 2 s.crew.mode (s.lane a l).toNat (s.lane b l).toNat
          (s.crew.getV d.toNat l).toNat) r fl ∧
        laneDone (exec (.fdot2 nw d a b) s) s false nw d [a, b] 1 fl r) ∧
    (mayRun s [a, b, c] → s.laneOk c = true →
      (∀ k ∈ dotFormats, laneDone (exec (.idot4Ext nw d a c k.1 b) s) s false nw d [a, b, c] 2 0 (fun l =>
        BitVec.ofInt 64 (((s.lane c l).toNat + dotSum k.2.1 k.2.2.1 k.2.2.2 (s.lane a l) (s.lane b l)) % 2 ^ 32))) ∧
      ∀ fmt ∈ [2#4, 3#4], ∃ (r : Nat → DWord) (fl : Nat),
        elementwise s 1 32 (fun l _ => fdot2 fmt.toNat s.crew.mode (s.lane a l).toNat (s.lane b l).toNat
          (s.lane c l).toNat) r fl ∧
        laneDone (exec (.fdot2Ext nw d a c fmt b) s) s false nw d [a, b, c] 2 fl r)

/-- R200: LNSADD and LNSMUL on four bytes, and the product's field, saturation and underflow. The flags of an underflow are the
model's reading (log entry 35). -/
def Obligations.L6Arithmetic : Prop :=
  (∀ (s : State) (nw : Bool) (d : BitVec 7) (a b : BitVec 8), s.dV d = true → s.laneOk a = true → s.laneOk b = true →
    mayRun s [a, b] → ∀ e ∈ [(Instr.lnsadd nw d a b, lnsAdd), (Instr.lnsmul nw d a b, lnsMul)],
      ∃ (r : Nat → DWord) (fl : Nat),
        elementwise s 4 8 (fun l j => e.2 s.crew.mode (element 8 j (s.lane a l)) (element 8 j (s.lane b l))) r fl ∧
        laneDone (exec e.1 s) s false nw d [a, b] 1 fl r) ∧
  ∀ (mode : Mode) (x y : Nat), mode ∈ [Mode.rne, .rz, .ru, .rd] → x < 64 → y < 64 →
    (x = 32 ∨ y = 32 → lnsMul mode x y = { code := 32, fl := 0 }) ∧
    (x ≠ 32 → y ≠ 32 → (x = 0 ∨ y = 0) → lnsMul mode x y = { code := 0, fl := 0 }) ∧
    (x % 32 ≠ 0 → y % 32 ≠ 0 →
      let sg := if x / 32 = y / 32 then 0 else 32
      let l := x % 32 + y % 32
      (17 ≤ l → l ≤ 47 → lnsMul mode x y = { code := sg + (l - 16), fl := 0 }) ∧
      (47 < l → lnsMul mode x y = { code := sg + 31, fl := 20 }) ∧
      (l < 17 → (lnsMul mode x y).fl = 24 ∧ ((lnsMul mode x y).code = 0 ∨ (lnsMul mode x y).code = sg + 1)))

/-! Values between lanes. -/

namespace Sys2Proof.Claims

/-- Table 8.11: the one-word form, the two-word form, and the source lane from WIDTH, l and B[l]. -/
def shuffleForms (nw : Bool) (d : BitVec 7) (a c : BitVec 8) (fmt : BitVec 4) (b : BitVec 8) :
    List (Instr × Instr × (Nat → Nat → Nat → Option Nat)) :=
  [(.shfl nw d a b, .shflExt nw d a c fmt b, fun w _ x => some (x % w)),
   (.shflup nw d a b, .shflupExt nw d a c fmt b, fun _ l x => if l < x then none else some (l - x)),
   (.shfldn nw d a b, .shfldnExt nw d a c fmt b, fun w l x => if w ≤ l + x then none else some (l + x)),
   (.shflx nw d a b, .shflxExt nw d a c fmt b, fun w l x => if w ≤ l ^^^ x then none else some (l ^^^ x))]

/-- The reduction of R203 at step s: the value of lane l. -/
def reduced (f : Nat → Nat → Res) (v : Nat → Part_) : Nat → Nat → Part_
  | 0, l => v l
  | s + 1, l => comb f (reduced f v s (min l (l ^^^ 2 ^ s))) (reduced f v s (max l (l ^^^ 2 ^ s)))

/-- The scan of R204 at step s: t, and what p or e has become from its first value. -/
def scanT (f : Nat → Nat → Res) (v : Nat → Part_) : Nat → Nat → Part_
  | 0, l => v l
  | s + 1, l =>
    if l ^^^ 2 ^ s < l then comb f (scanT f v s (l ^^^ 2 ^ s)) (scanT f v s l)
    else comb f (scanT f v s l) (scanT f v s (l ^^^ 2 ^ s))
def scanP (f : Nat → Nat → Res) (v : Nat → Part_) (p : Nat → Part_) : Nat → Nat → Part_
  | 0, l => p l
  | s + 1, l => if l ^^^ 2 ^ s < l then comb f (scanT f v s (l ^^^ 2 ^ s)) (scanP f v p s l) else scanP f v p s l

/-- What lane l brings (R203). -/
def brought (s : State) (wide : Bool) (a : BitVec 8) (l : Nat) : Part_ :=
  if l ∈ s.active then (some (s.laneW wide a l).toNat, 0) else (none, 0)

/-- OPR and FMT of Table 8.13. -/
def reductionOk (opr fmt : Nat) : Prop := (opr < 8 ∧ fmt = 13) ∨ (8 ≤ opr ∧ opr ≤ 12 ∧ fmt ≤ 1)

/-- A test over the active lanes as a mask (R185). -/
def isMask (s : State) (x : DWord) (p : Nat → Bool) : Prop := ∀ l, x.getLsbD l = true ↔ l ∈ s.active ∧ p l = true

end Sys2Proof.Claims

/-- R201: the shuffles; every lane reads its source lane's A as it stood before, and a missing or exited source gives the fill. -/
def Sys2Proof.Claims.shuffleResults : Prop :=
  ∀ (s : State) (nw : Bool) (d : BitVec 7) (a b c : BitVec 8), ∀ fmt ∈ [0xD#4, 0#4], s.dstOk (fmt == 0#4) d = true →
    s.srcOk (fmt == 0#4) a = true → s.laneOk b = true → ∀ e ∈ shuffleForms nw d a c fmt b,
      let moved (fill : DWord) (l : Nat) : DWord := match e.2.2 s.width l (s.lane b l).toNat with
        | some q => if s.crew.live.getLsbD q then s.laneW (fmt == 0#4) a q else fill
        | none => fill
      (mayRun s [a, b, c] → s.srcOk (fmt == 0#4) c = true →
        laneDone (exec e.2.1 s) s (fmt == 0#4) nw d [a, b, c] 2 0 (fun l => moved (s.laneW (fmt == 0#4) c l) l)) ∧
      (mayRun s [a, b] → fmt = 0xD#4 → laneDone (exec e.1 s) s false nw d [a, b] 1 0 (fun l => moved 0 l))

/-- R203: LRED into a lane or a uniform register; every lane holds the same value after the last step. -/
def Sys2Proof.Claims.reductionResult : Prop :=
  ∀ (s : State) (nw : Bool) (d : BitVec 7) (a : BitVec 8) (fmt opr : BitVec 4), mayRun s [a] →
    reductionOk opr.toNat fmt.toNat → s.srcOk (fmt == 0#4) a = true →
    ∃ fl,
      let r := reduced (redOp opr.toNat fmt.toNat s.crew.mode) (brought s (fmt == 0#4) a) s.width.log2
      (∀ k, fl.testBit k = true ↔ ∃ l, l < s.width ∧ (r l).2.testBit k = true) ∧
      (∀ l, l < s.width → (r l).1 = (r 0).1) ∧
      (s.dstOk (fmt == 0#4) d = true →
        laneDone (exec (.lred nw d a fmt opr) s) s (fmt == 0#4) nw d [a] 2 fl (fun _ => dw ((r 0).1.getD 0))) ∧
      (dS d = true →
        uniformDone (exec (.lred nw d a fmt opr) s) s (nw || s.active.isEmpty) d [a] 2 fl (dw ((r 0).1.getD 0)))

/-- R204: LSCAN, inclusive and exclusive. -/
def Sys2Proof.Claims.scanResult : Prop :=
  ∀ (s : State) (nw : Bool) (d : BitVec 7) (a c : BitVec 8) (fmt opr : BitVec 4), mayRun s [a, c] →
    reductionOk opr.toNat fmt.toNat → s.srcOk (fmt == 0#4) a = true → s.srcOk (fmt == 0#4) c = true →
    s.dstOk (fmt == 0#4) d = true →
    let f := redOp opr.toNat fmt.toNat s.crew.mode
    let v := brought s (fmt == 0#4) a
    let e : Nat → Part_ := fun _ => (none, 0)
    let n := s.width.log2
    ∃ fl : Nat, (∀ k, fl.testBit k = true ↔ ∃ l, l < s.width ∧ ((scanP f v v n l).2.testBit k = true ∨
        (scanP f v e n l).2.testBit k = true ∨ (scanT f v n l).2.testBit k = true)) ∧
      laneDone (exec (.lscan nw d a c fmt 0#1 opr) s) s (fmt == 0#4) nw d [a, c] 2 fl
        (fun l => dw ((scanP f v v n l).1.getD 0)) ∧
      laneDone (exec (.lscan nw d a c fmt 1#1 opr) s) s (fmt == 0#4) nw d [a, c] 2 fl
        (fun l => match (scanP f v e n l).1 with
          | some x => dw x
          | none => s.laneW (fmt == 0#4) c l)

/-- R203 for the wrapping integer add: every active lane receives the sum over the active lanes. -/
def Sys2Proof.Claims.reductionSum : Prop :=
  ∀ (s : State) (d : BitVec 7) (a : BitVec 8), mayRun s [a] → s.dV d = true → s.laneOk a = true →
    ∃ t, exec (.lred false d a 13#4 0#4) s = .next t ∧ ∀ l ∈ s.active,
      (t.crew.getV d.toNat l).toNat = (s.active.map fun q => (s.lane a q).toNat).sum % 2 ^ 32

/-- R203: LRED; a wrapping integer add gives every active lane the sum over the active lanes. -/
def Obligations.Reductions : Prop :=
  Claims.reductionResult ∧ Claims.reductionSum

/-- R205, R206: VOTE in its four modes and BCAST into a lane or a uniform register. -/
def Sys2Proof.Claims.voteAndBroadcast : Prop :=
  ∀ (s : State) (nw : Bool) (d : BitVec 7) (a b c : BitVec 8),
    (mayRun s [a] → dS d = true → s.laneOk a = true →
      (∃ m, isMask s m (fun l => s.lane a l != 0) ∧
        uniformDone (exec (.vote nw d a 0#2) s) s nw d [a] 2 0 m ∧
        uniformDone (exec (.vote nw d a 1#2) s) s nw d [a] 2 0 (if m = 0 then 0 else 1)) ∧
      uniformDone (exec (.vote nw d a 2#2) s) s nw d [a] 2 0 (if ∀ l ∈ s.active, s.lane a l ≠ 0 then 1 else 0) ∧
      uniformDone (exec (.vote nw d a 3#2) s) s nw d [a] 2 0
        (if ∀ l ∈ s.active, ∀ k ∈ s.active, s.lane a l = s.lane a k then 1 else 0)) ∧
    (mayRun s [a, b, c] → isUniform b = true → s.laneOk a = true →
      let q := (s.uni b).toNat
      let taken := q < s.width ∧ s.crew.live.getLsbD q = true
      (s.dV d = true → s.laneOk c = true →
        laneDone (exec (.bcast nw d a b c) s) s false nw d [a, b, c] 2 0
          (fun l => (if taken then s.lane a q else s.lane c l).setWidth 64)) ∧
      (dS d = true → isUniform c = true →
        uniformDone (exec (.bcast nw d a b c) s) s nw d [a, b, c] 2 0
          ((if taken then s.lane a q else (s.uni c).setWidth 32).setWidth 64)))

/-- R184, R186, R187, R201, R204, R205, R206: the instructions on pairs, the moves, the shuffles, LSCAN, VOTE and BCAST. That LSCAN
raises the flags of every operation of its network is the model's reading (log entry 38). -/
def Obligations.LaneMoves : Prop :=
  Claims.pairAndMoveResults ∧ Claims.shuffleResults ∧ Claims.scanResult ∧ Claims.voteAndBroadcast

/-- R185, R193, R214: the compares; masks of the active lanes ANDed with C, and the uniform compare's 0 or 1. -/
def Obligations.CompareResults : Prop :=
  ∀ (s : State) (nw : Bool) (d : BitVec 7) (a b c : BitVec 8), dS d = true →
    let tests {w : Nat} : List (BitVec 4 × (BitVec w → BitVec w → Bool)) :=
      [(0#4, fun x y => decide (x = y)), (1#4, fun x y => decide (x ≠ y)), (2#4, fun x y => decide (x.toInt < y.toInt)),
       (3#4, fun x y => decide (x.toInt ≤ y.toInt)), (4#4, fun x y => decide (y.toInt < x.toInt)),
       (5#4, fun x y => decide (y.toInt ≤ x.toInt)), (6#4, fun x y => decide (x.toNat < y.toNat)),
       (7#4, fun x y => decide (x.toNat ≤ y.toNat)), (8#4, fun x y => decide (y.toNat < x.toNat)),
       (9#4, fun x y => decide (y.toNat ≤ x.toNat))]
    (mayRun s [a, b, c] → s.laneOk a = true → s.laneOk b = true → isUniform c = true → ∀ k ∈ tests,
      ∃ m, isMask s m (fun l => k.2 (s.lane a l) (s.lane b l)) ∧
        uniformDone (exec (.icmp nw d a b c k.1) s) s nw d [a, b, c] 2 0 (m &&& s.uni c)) ∧
    (mayRun s [a, b] → isUniform a = true → isUniform b = true → ∀ k ∈ tests,
      uniformDone (exec (.scmp nw d a b k.1) s) s nw d [a, b] 2 0 (if k.2 (s.uni a) (s.uni b) then 1 else 0)) ∧
    (mayRun s [a, b, c] → isUniform c = true → ∀ fmt ∈ [0#4, 1#4], s.srcOk (fmt == 0#4) a = true →
      s.srcOk (fmt == 0#4) b = true → ∀ cond : BitVec 4, cond.toNat < 8 →
      let x (l : Nat) : Val := valOf fmt.toNat (s.laneW (fmt == 0#4) a l).toNat
      let y (l : Nat) : Val := valOf fmt.toNat (s.laneW (fmt == 0#4) b l).toNat
      let nan (l : Nat) : Bool := (x l).isNaN || (y l).isNaN
      let less (l : Nat) : Bool := !nan l && !vEq (x l) (y l) && vLess (x l) (y l)
      let same (l : Nat) : Bool := !nan l && vEq (x l) (y l)
      let holds (l : Nat) : Bool := match cond.toNat with
        | 0 => same l
        | 1 => !same l
        | 2 => less l
        | 3 => less l || same l
        | 4 => !nan l && !less l && !same l
        | 5 => !nan l && !less l
        | 6 => nan l
        | _ => !nan l
      ∃ (m : DWord) (fl : Nat), isMask s m holds ∧
        (fl = if ∃ l ∈ s.active, ((x l).isSNaN || (y l).isSNaN || (nan l && decide (2 ≤ cond.toNat) &&
          decide (cond.toNat ≤ 5))) = true then 1 else 0) ∧
        uniformDone (exec (.fcmp nw d a b c cond fmt) s) s nw d [a, b, c] 2 fl (m &&& s.uni c))

/-! Exact rationals. -/

namespace Sys2Proof.Claims

/-- The residue that a quad holds in a lane (R122). -/
def residueOf (c : Crew) (q l : Nat) : Nat :=
  ((List.range c.kq).map fun i => (c.getV (q + i) l).toNat % 2 ^ 31 * c.prime ^ i).sum % c.prime ^ c.kq

/-- The height that a quad holds in a lane (R122). -/
def heightOf (c : Crew) (q l : Nat) : Nat :=
  ((List.range 4).map fun i => (c.getV (q + i) l).toNat / 2 ^ 31 * 2 ^ i).sum

/-- A quad instruction completes with residue and height r in D: canonical digits, the height capped at 15, RXF.OV where it
exceeds Hmax (R122, R123, R292); nothing else of the machine changes, and nothing is pushed. -/
def quadDone (o : Out) (s : State) (d : BitVec 7) (srcs : List (BitVec 8)) (r : Nat → Nat × Nat) : Prop :=
  ∃ t, o = .next t ∧ onlyCrew s t ∧ crewKeeps s.crew t.crew ∧ moved s t (readsLatch srcs) 1 ∧
    uniformKept s.crew t.crew ∧ t.crew.fpsr = s.crew.fpsr ∧
    t.crew.bl0 = s.crew.bl0 ∧ t.crew.bl1 = s.crew.bl1 ∧ t.crew.bl2 = s.crew.bl2 ∧ t.crew.bl3 = s.crew.bl3 ∧
    (t.crew.rxf = if ∃ l ∈ s.active, 4 * s.crew.kq - 1 < (r l).2 then s.crew.rxf ||| 1 else s.crew.rxf) ∧
    (∀ i, i < 4 → ∀ l ∈ s.active, (t.crew.getV (d.toNat + i) l).toNat =
      (if i < s.crew.kq then (r l).1 / s.crew.prime ^ i % s.crew.prime else 0) + min (r l).2 15 / 2 ^ i % 2 * 2 ^ 31) ∧
    ∀ n, ¬ (∃ i, i < 4 ∧ n / 32 = vIndex s.crew (d.toNat + i) ∧ n % 32 ∈ s.active) → fget 0 t.crew.v n = fget 0 s.crew.v n

/-- bitlen of R123. -/
def bitLength (v : Int) : Nat := if v = 0 then 0 else v.natAbs.log2 + 1

end Sys2Proof.Claims

/-- R122, R123, R292: QADD, QSUB, QMUL, QDIV, QNEG and QENC. -/
def Sys2Proof.Claims.rationalOperations : Prop :=
  ∀ (s : State) (d : BitVec 7) (a b : BitVec 8),
    let c := s.crew
    let m := c.prime ^ c.kq
    s.quadOk d.toNat = true →
    (s.quadOk a.toNat = true → s.quadOk b.toNat = true → mayRun s [a, b] →
      quadDone (exec (.qadd d a b) s) s d [a, b] (fun l => ((residueOf c a.toNat l + residueOf c b.toNat l) % m,
        heightOf c a.toNat l + heightOf c b.toNat l + 1)) ∧
      quadDone (exec (.qsub d a b) s) s d [a, b] (fun l => ((residueOf c a.toNat l + m - residueOf c b.toNat l) % m,
        heightOf c a.toNat l + heightOf c b.toNat l + 1)) ∧
      quadDone (exec (.qmul d a b) s) s d [a, b] (fun l => (residueOf c a.toNat l * residueOf c b.toNat l % m,
        heightOf c a.toNat l + heightOf c b.toNat l)) ∧
      ((∀ l ∈ s.active, (c.getV b.toNat l).toNat % 2 ^ 31 % c.prime ≠ 0) →
        quadDone (exec (.qdiv d a b) s) s d [a, b] (fun l => (residueOf c a.toNat l * invMod (residueOf c b.toNat l) m % m,
          heightOf c a.toNat l + heightOf c b.toNat l)))) ∧
    (s.quadOk a.toNat = true → mayRun s [a] →
      quadDone (exec (.qneg d a) s) s d [a] (fun l => ((m - residueOf c a.toNat l) % m, heightOf c a.toNat l))) ∧
    (s.pairOk a = true → s.pairOk b = true → mayRun s [a, b] →
      (∀ l ∈ s.active, (s.pair b l).toInt % (c.prime : Int) ≠ 0) →
      quadDone (exec (.qenc d a b) s) s d [a, b] (fun l =>
        (((s.pair a l).toInt % (m : Int)).toNat * invMod ((s.pair b l).toInt % (m : Int)).toNat m % m,
          (max (bitLength (s.pair a l).toInt) (bitLength (s.pair b l).toInt) + 3) / 4)))

/-- R124: QDEC writes what the reconstruction finds, a in D and D + 1 and b in the two after, and RXF.OV where it fails; what it
finds is a fraction equal to the residue, in lowest terms, with a positive denominator within the bound. -/
def Sys2Proof.Claims.rationalDecode : Prop :=
  (∀ (s : State) (d : BitVec 7) (a : BitVec 8), s.quadOk d.toNat = true → s.quadOk a.toNat = true → mayRun s [a] →
    ∃ t, exec (.qdec d a) s = .next t ∧ onlyCrew s t ∧ crewKeeps s.crew t.crew ∧ moved s t (readsLatch [a]) 1 ∧
      uniformKept s.crew t.crew ∧ t.crew.fpsr = s.crew.fpsr ∧
      (t.crew.rxf = if ∀ l ∈ s.active, (decodeRational (s.crew.prime ^ s.crew.kq) (residueOf s.crew a.toNat l)).2.2 = true
        then s.crew.rxf else s.crew.rxf ||| 1) ∧
      ∀ l ∈ s.active,
        let r := decodeRational (s.crew.prime ^ s.crew.kq) (residueOf s.crew a.toNat l)
        t.crew.getPair d.toNat l = BitVec.ofInt 64 r.1 ∧ t.crew.getPair (d.toNat + 2) l = BitVec.ofInt 64 r.2.1) ∧
  ∀ (m x : Nat) (a b : Int), x < m → decodeRational m x = (a, b, true) →
    0 < b ∧ (b * x - a) % (m : Int) = 0 ∧ Nat.gcd a.natAbs b.natAbs = 1 ∧ 2 * (b.natAbs * b.natAbs) ≤ m - 1

/-- R122 to R124, R292, R293: the exact-rational instructions. -/
def Obligations.RationalResults : Prop :=
  Claims.rationalOperations ∧ Claims.rationalDecode

/-! Uniform instructions. -/

namespace Sys2Proof.Claims

/-- The index of the least significant set bit; 64 when there is none. -/
def lowest (x : DWord) : Nat := ((List.range 64).takeWhile (fun k => !x.getLsbD k)).length

/-- Table 9.2, two operands. -/
def scalarForms (nw : Bool) (d : BitVec 7) (a b : BitVec 8) : List (Instr × (DWord → DWord → DWord)) :=
  [(.sadd nw d a b, fun x y => x + y), (.ssub nw d a b, fun x y => x - y), (.smul nw d a b, fun x y => x * y),
   (.sand nw d a b, fun x y => x &&& y), (.sor nw d a b, fun x y => x ||| y), (.sxor nw d a b, fun x y => x ^^^ y),
   (.sshl nw d a b, fun x y => BitVec.ofNat 64 (x.toNat * 2 ^ y.toNat)),
   (.sshr nw d a b, fun x y => BitVec.ofNat 64 (x.toNat / 2 ^ y.toNat)),
   (.ssar nw d a b, fun x y => BitVec.ofInt 64 (x.toInt / 2 ^ min y.toNat 63)),
   (.smin nw d a b, fun x y => if x.toInt ≤ y.toInt then x else y),
   (.smax nw d a b, fun x y => if x.toInt ≤ y.toInt then y else x)]

/-- Table 9.2, one operand, and ELECT (R228) from the mask of the active lanes. -/
def scalarUnary (act : BitVec 32) (nw : Bool) (d : BitVec 7) (a : BitVec 8) : List (Instr × (DWord → DWord)) :=
  [(.smov nw d a, fun x => x),
   (.spopc nw d a, fun x => BitVec.ofNat 64 ((List.range 64).countP (fun k => x.getLsbD k))),
   (.sclz nw d a, fun x => BitVec.ofNat 64 ((List.range 64).takeWhile (fun k => !x.getLsbD (63 - k))).length),
   (.sffs nw d a, fun x => BitVec.ofNat 64 (lowest x)),
   (.elect nw d a, fun x => BitVec.ofNat 64 (lowest ((x.setWidth 32 &&& act).setWidth 64)))]

/-- Table 9.3. -/
def scalarImmediates (nw : Bool) (d : BitVec 7) (imm : BitVec 16) : List (Instr × (DWord → DWord)) :=
  [(.saddi nw d imm, fun x => x + imm.signExtend 64), (.smovi nw d imm, fun _ => imm.signExtend 64),
   (.smovl nw d imm, fun x => (x * 65536#64) ||| imm.setWidth 64),
   (.smovh nw d imm, fun x => BitVec.ofNat 64 (x.toNat % 2 ^ 48 + imm.toNat * 2 ^ 48))]

/-- The branch conditions of Table 9.7 on a register's value and ActMask. -/
def branchForms (d : BitVec 7) (imm : BitVec 16) (act : BitVec 32) : List (Instr × (DWord → Prop)) :=
  [(.brz d imm, fun v => v = 0), (.brnz d imm, fun v => v ≠ 0), (.brany d imm, fun v => v.setWidth 32 &&& act ≠ 0),
   (.brall d imm, fun v => v.setWidth 32 &&& act = act), (.brnone d imm, fun v => v.setWidth 32 &&& act = 0)]

/-- A target in words from the instruction's PC, within the text (R220). -/
def inText (s : State) (off : Int) (pc : BitVec 32) : Prop :=
  (s.crew.pc.toNat : Int) + 4 * off = pc.toNat ∧ pc.toNat < s.team.textsize

end Sys2Proof.Claims

/-- R212, R213, R228: scalar arithmetic, the immediate forms and ELECT. -/
def Obligations.ScalarResults : Prop :=
  ∀ (s : State) (nw : Bool) (d : BitVec 7) (a b : BitVec 8) (imm : BitVec 16), dS d = true →
    (isUniform a = true → isUniform b = true → mayRun s [a, b] → ∀ e ∈ scalarForms nw d a b,
      uniformDone (exec e.1 s) s nw d [a, b] 1 0 (e.2 (s.uni a) (s.uni b))) ∧
    (isUniform a = true → mayRun s [a] → ∀ e ∈ scalarUnary s.actMask nw d a,
      uniformDone (exec e.1 s) s nw d [a] 1 0 (e.2 (s.uni a))) ∧
    ∀ e ∈ scalarImmediates nw d imm, uniformDone (exec e.1 s) s nw d [] 1 0 (e.2 (s.crew.getS (sNum d)))

/-- R229, R232, R233: NOP changes nothing but the PC, and so does CKPT while no pre-emption is pending; with one pending the crew stops
past the CKPT. YIELD makes its crew the one that issued last on both pipes, by the step's number (log entry 2), so that it stands
last in the round-robin order, and changes nothing else. -/
def Obligations.QuietInstructions : Prop :=
  ∀ (s : State),
    (∃ t, exec .nop s = .next t ∧ quiet s t ∧ uniformKept s.crew t.crew ∧ moved s t false 1 ∧ rest t.crew = rest s.crew) ∧
    (∃ t, exec .yield_ s = .next t ∧ quiet s t ∧ uniformKept s.crew t.crew ∧ moved s t false 1 ∧
      rest t.crew = { rest s.crew with lastL := s.fresh + 1, lastS := s.fresh + 1 }) ∧
    (s.teamSaves (slotOf s.cur) = false ∨ s.crew.inHandler = true → ∃ t, exec .ckpt s = .next t ∧ quiet s t ∧
      uniformKept s.crew t.crew ∧ moved s t false 1 ∧ rest t.crew = rest s.crew) ∧
    (s.teamSaves (slotOf s.cur) = true → s.crew.inHandler = false → s.crew.run = none → ∃ t, exec .ckpt s = .next t ∧ onlyCrew s t ∧
      t.crew.stop = .atCkpt s.crew.pc ∧ t.crew.pc = s.crew.pc + 4 ∧ t.crew.v = s.crew.v ∧ t.crew.sr = s.crew.sr)

/-- R220 to R222: the branches, taken and not taken, and a taken target outside the text. -/
def Sys2Proof.Claims.branchTargets : Prop :=
  ∀ (s : State) (d : BitVec 7) (imm : BitVec 16) (off : BitVec 24), s.crew.run = none →
    (∀ pc, inText s off.toInt pc → ∃ t, exec (.bra off) s = .next t ∧ quiet s t ∧ crewKeeps s.crew t.crew ∧
      uniformKept s.crew t.crew ∧ t.crew.run = none ∧ t.crew.pc = pc) ∧
    (s.team.textsize ≤ 2 ^ 32 → (∀ pc, ¬ inText s off.toInt pc) → ∃ t, exec (.bra off) s = .next t ∧
      trapped s t 1 s.actMask 0 0 s.crew.pc s.crew.pc 0) ∧
    (dS d = true → ∀ e ∈ branchForms d imm s.actMask,
      (¬ e.2 (s.crew.getS (sNum d)) → ∃ t, exec e.1 s = .next t ∧ quiet s t ∧ crewKeeps s.crew t.crew ∧
        uniformKept s.crew t.crew ∧ t.crew.run = none ∧ t.crew.pc = s.crew.pc + 4) ∧
      (e.2 (s.crew.getS (sNum d)) → ∀ pc, inText s imm.toInt pc → ∃ t, exec e.1 s = .next t ∧ quiet s t ∧
        crewKeeps s.crew t.crew ∧ uniformKept s.crew t.crew ∧ t.crew.run = none ∧ t.crew.pc = pc) ∧
      (s.team.textsize ≤ 2 ^ 32 → e.2 (s.crew.getS (sNum d)) → (∀ pc, ¬ inText s imm.toInt pc) → ∃ t, exec e.1 s = .next t ∧
        trapped s t 1 s.actMask 0 0 s.crew.pc s.crew.pc 0))

/-- R220 to R222: LOOP, CALL, RET and JMPR with a target within the text, and outside it. -/
def Sys2Proof.Claims.linkResults : Prop :=
  ∀ (s : State) (nw : Bool) (d : BitVec 7) (a : BitVec 8) (imm : BitVec 16) (off : BitVec 24) (pc : BitVec 32),
    s.crew.run = none →
    (dS d = true → let v := s.crew.getS (sNum d) - 1
      (v = 0 ∨ inText s imm.toInt pc) → ∃ t, exec (.loop d imm) s = .next t ∧ quiet s t ∧ crewKeeps s.crew t.crew ∧
        uniformWritten s false (sNum d) v t.crew ∧ t.crew.run = none ∧ t.crew.pc = if v = 0 then s.crew.pc + 4 else pc) ∧
    (inText s off.toInt pc → ∃ t, exec (.call off) s = .next t ∧ quiet s t ∧ crewKeeps s.crew t.crew ∧
      uniformWritten s false 31 (BitVec.ofNat 64 (s.actMask.toNat * 2 ^ 32 + (s.crew.pc + 4).toNat)) t.crew ∧
      t.crew.run = none ∧ t.crew.pc = pc) ∧
    (isUniform a = true → mayRun s [a] → pc = (s.uni a).setWidth 32 → pc.toNat % 4 = 0 → pc.toNat < s.team.textsize →
      (∃ t, exec (.ret a) s = .next t ∧ quiet s t ∧ uniformKept s.crew t.crew ∧ t.crew.run = none ∧ t.crew.pc = pc ∧
        t.crew.exm = (s.uni a).extractLsb' 32 32 &&& s.liveMask ∧
        rest t.crew = { rest s.crew with exm := t.crew.exm }) ∧
      (dS d = true → ∃ t, exec (.jmpr nw d a) s = .next t ∧ quiet s t ∧ crewKeeps s.crew t.crew ∧
        uniformWritten s nw (sNum d) ((s.crew.pc + 4).setWidth 64) t.crew ∧ t.crew.run = none ∧ t.crew.pc = pc)) ∧
    (s.team.textsize ≤ 2 ^ 32 →
      (dS d = true → s.crew.getS (sNum d) ≠ 1 → (∀ p, ¬ inText s imm.toInt p) → ∃ t, exec (.loop d imm) s = .next t ∧
        trapped s t 1 s.actMask 0 0 s.crew.pc s.crew.pc 0) ∧
      ((∀ p, ¬ inText s off.toInt p) → ∃ t, exec (.call off) s = .next t ∧
        trapped s t 1 s.actMask 0 0 s.crew.pc s.crew.pc 0)) ∧
    (isUniform a = true → mayRun s [a] →
      ((s.uni a).toNat % 4 ≠ 0 ∨ s.team.textsize ≤ (s.uni a).toNat % 2 ^ 32) →
      (∃ t, exec (.ret a) s = .next t ∧ trapped s t 1 s.actMask 0 0 s.crew.pc (resumeAt s (readsLatch [a])) 0) ∧
      (dS d = true → ∃ t, exec (.jmpr nw d a) s = .next t ∧
        trapped s t 1 s.actMask 0 0 s.crew.pc (resumeAt s (readsLatch [a])) 0))

/-- R220 to R222: the branches, LOOP, CALL, RET and JMPR. -/
def Obligations.BranchResults : Prop :=
  Claims.branchTargets ∧ Claims.linkResults

/-- R223, R224: EXIT, EXMAND and EXMSET on the lanes. -/
def Obligations.ExecutionMask : Prop :=
  ∀ (s : State) (a : BitVec 8),
    (∃ t, exec .exit s = .next t ∧ t.crew.live = s.crew.live &&& ~~~s.actMask ∧ t.crew.exm = s.crew.exm &&& t.crew.live ∧
      moved s t false 1 ∧ t.crew.v = s.crew.v ∧ t.crew.sr = s.crew.sr ∧ t.mem = s.mem ∧ t.teams = s.teams ∧
      ∀ k, k ≠ s.cur → t.crewAt k = s.crewAt k) ∧
    (isUniform a = true → mayRun s [a] →
      (∃ t, exec (.exmand a) s = .next t ∧ quiet s t ∧ uniformKept s.crew t.crew ∧ moved s t (readsLatch [a]) 1 ∧
        t.crew.exm = s.crew.exm &&& (s.uni a).setWidth 32 ∧ rest t.crew = { rest s.crew with exm := t.crew.exm }) ∧
      ∃ t, exec (.exmset a) s = .next t ∧ quiet s t ∧ uniformKept s.crew t.crew ∧ moved s t (readsLatch [a]) 1 ∧
        t.crew.exm = (s.uni a).setWidth 32 &&& s.liveMask ∧ rest t.crew = { rest s.crew with exm := t.crew.exm })

/-- R230, R388 to R394: TRAP takes the software trap and resumes after itself. -/
def Sys2Proof.Claims.softwareTrap : Prop :=
  ∀ (s : State) (imm : BitVec 16), s.crew.run = none → ∃ t, exec (.trap imm) s = .next t ∧
    trapped s t 0x11 s.actMask 0 imm.toNat s.crew.pc (s.crew.pc + 4) 0

/-- R231, R393: TRET returns in a handler; the banked registers keep their values and step back, and a pre-emption that the handler
has put off stops the crew there. Outside a handler it is illegal. -/
def Sys2Proof.Claims.trapReturn : Prop :=
  ∀ (s : State),
    (s.crew.inHandler = true → ∃ t, exec .tret s = .next t ∧ onlyCrew s t ∧ t.crew.inHandler = false ∧
      t.crew.pc = s.crew.resumepc.setWidth 32 ∧ t.crew.exm = (fget 0 s.crew.sr 32).setWidth 32 &&& s.liveMask ∧
      t.crew.v = s.crew.v ∧ t.crew.sr = s.crew.sr ∧ t.crew.fpsr = s.crew.fpsr ∧ t.crew.live = s.crew.live ∧
      t.crew.resuming = true ∧ t.crew.trapcause = s.crew.trapcause ∧
      t.crew.stop = if s.teamSaves (slotOf s.cur) = true then .atTret else s.crew.stop) ∧
    (s.crew.inHandler = false → s.crew.run = none → ∃ t, exec .tret s = .next t ∧
      trapped s t 1 s.actMask 0 0 s.crew.pc s.crew.pc 0)

/-- R230, R231, R388 to R394: TRAP and TRET. -/
def Obligations.SoftwareTrapAndReturn : Prop :=
  Claims.softwareTrap ∧ Claims.trapReturn

/-- R401 stages 1 and 2, R159, R390, R391: a latch read after a chain-ending instruction is an illegal instruction, a register
beyond the allocation, an odd pair, a code that the field does not accept and a latch not yet pushed are illegal operands; the
trap is taken at the instruction and nothing is performed. -/
def Sys2Proof.Claims.operandTraps : Prop :=
  ∀ (s : State) (nw : Bool) (d : BitVec 7) (a b : BitVec 8), s.crew.run = none →
    (readsLatch [a, b] = true → s.crew.fin = true →
      ∀ i ∈ [Instr.iadd nw d a b, .iadd64 nw d a b, .fadd nw d a b, .sadd nw d a b], ∃ t, exec i s = .next t ∧
        trapped s t 1 s.actMask 0 0 s.crew.pc (resumeAt s true) 0) ∧
    (¬ (readsLatch [a, b] = true ∧ s.crew.fin = true) →
      (s.dV d = false ∨ s.laneOk a = false ∨ s.laneOk b = false ∨ pushed s.crew [a, b] = false ∧ readsLatch [a, b] = true →
        ∀ i ∈ [Instr.iadd nw d a b, .fadd nw d a b, .vand nw d a b], ∃ t, exec i s = .next t ∧
          trapped s t 2 s.actMask 0 0 s.crew.pc (resumeAt s (readsLatch [a, b])) 0) ∧
      (s.dPair d = false ∨ s.pairOk a = false ∨ s.pairOk b = false → ∃ t, exec (.iadd64 nw d a b) s = .next t ∧
        trapped s t 2 s.actMask 0 0 s.crew.pc (resumeAt s (readsLatch [a, b])) 0) ∧
      (dS d = false ∨ isUniform a = false ∨ isUniform b = false → ∃ t, exec (.sadd nw d a b) s = .next t ∧
        trapped s t 2 s.actMask 0 0 s.crew.pc (resumeAt s (readsLatch [a, b])) 0))

/-- Table 22.4: a trap in a REP unit holds the target's PC, resumes at the REP, and keeps the repeat's number in TRAPREP; in an
MCALL both are the MCALL's PC, with MC and the word of the chain's head. -/
def Sys2Proof.Claims.runTraps : Prop :=
  ∀ (s : State) (nw : Bool) (d : BitVec 7) (a : BitVec 8), s.laneOk a = false → readsLatch [a] = false →
    (∀ i cnt, s.crew.run = some (.rep i cnt) → ∃ t, exec (.mov nw d a) s = .next t ∧
      trapped s t 2 s.actMask 0 0 (s.crew.pc + 4) s.crew.pc i) ∧
    (∀ op head, s.crew.run = some (.mcall op head) → ∃ t, exec (.mov nw d a) s = .next t ∧
      trapped s t 2 s.actMask 0 0 s.crew.pc s.crew.pc (2 ^ 15 + op * 2 ^ 8))

/-- R159, R390, R391, R401, Table 22.4: the traps that an instruction takes before it is performed, alone, in a REP unit and in an MCALL. -/
def Obligations.IssueTraps : Prop :=
  Claims.operandTraps ∧ Claims.runTraps

/-! Special registers, TC registers, REP and MCALL. -/

namespace Sys2Proof.Claims

/-- Table 7.11: the registers that MFS reads without asking a unit outside the crew, with their values. -/
def specialValues (s : State) : List (Nat × DWord) :=
  [(0x00, s.actMask.setWidth 64), (0x01, BitVec.ofNat 64 s.width), (0x02, BitVec.ofNat 64 (s.cur % 16)),
   (0x03, BitVec.ofNat 64 s.team.teamid), (0x04, BitVec.ofNat 64 s.team.nteams), (0x05, BitVec.ofNat 64 s.coreid),
   (0x06, BitVec.ofNat 64 (s.coreid / 8 % 12)), (0x07, BitVec.ofNat 64 (s.coreid / 96)), (0x08, s.crew.fpcr), (0x09, s.crew.fpsr),
   (0x0A, s.crew.psel), (0x0B, s.crew.rxf), (0x0C, ((s.active.head?.map (fget 0 s.crew.seed)).getD 0).setWidth 64),
   (0x0D, s.crew.strmdef), (0x0E, s.crew.trapcause), (0x0F, s.crew.trappc), (0x10, s.crew.traplanes), (0x11, s.crew.trapaddr),
   (0x12, if s.crew.resuming then 0 else s.crew.traprep), (0x13, s.crew.resumepc), (0x14, fget 0 s.crew.cvrole 0),
   (0x15, fget 0 s.crew.cvrole 1), (0x16, fget 0 s.crew.cvrole 2), (0x17, fget 0 s.crew.cvrole 3),
   (0x18, s.team.tokhold.setWidth 64), (0x1F, if s.team.compat then 1 else 0)]

/-- Table 9.4: the registers of the crew that MTS writes, the bits of v that must be zero, and the crew with the register set. -/
def specialWrites (s : State) (v : DWord) : List (Nat × DWord × Crew) :=
  [(0x00, 0#64, { s.crew with exm := v.setWidth 32 &&& s.liveMask }), (0x08, ~~~7#64, { s.crew with fpcr := v }),
   (0x09, ~~~0x1F#64, { s.crew with fpsr := v }), (0x0A, ~~~0x3F#64, { s.crew with psel := v }),
   (0x0B, ~~~1#64, { s.crew with rxf := v }), (0x0D, ~~~15#64, { s.crew with strmdef := v }),
   (0x12, ~~~0x9F3F#64, { s.crew with traprep := v }), (0x14, 0xF8E00000#64, { s.crew with cvrole := fset 0 s.crew.cvrole 0 v }),
   (0x15, 0xF8E00000#64, { s.crew with cvrole := fset 0 s.crew.cvrole 1 v }),
   (0x16, 0xF8E00000#64, { s.crew with cvrole := fset 0 s.crew.cvrole 2 v }),
   (0x17, 0xF8E00000#64, { s.crew with cvrole := fset 0 s.crew.cvrole 3 v })]

/-- The crew is c again, but for its place in the text and the bookkeeping of an instruction's start. -/
def crewIs (c c' : Crew) : Prop :=
  rest c' = rest c ∧ c'.v = c.v ∧ c'.sr = c.sr ∧ c'.fpsr = c.fpsr ∧ c'.rxf = c.rxf ∧ lanesKept c c' ∧ uniformKept c c'

end Sys2Proof.Claims

/-- R171, R215: MFS of every register of the crew, of the event windows and of CLOCK; no other number is accepted. CLOCK's value is
free (log entry 6). -/
def Obligations.SpecialReads : Prop :=
  ∀ (s : State) (nw : Bool) (d : BitVec 7) (imm : BitVec 16), dS d = true →
    (∀ e ∈ specialValues s, imm.toNat = e.1 → uniformDone (exec (.mfs nw d imm) s) s nw d [] 1 0 e.2) ∧
    (∀ w, w < 4 → imm.toNat = 0x1A + w → ∃ t, exec (.mfs nw d imm) s = .next t ∧
      uniformWritten s nw (sNum d) ((s.vector s.team.ctx).extractLsb' (64 * w) 64) t.crew ∧ crewKeeps s.crew t.crew ∧
      lanesKept s.crew t.crew ∧ moved s t false 1 ∧ (∀ ctx, t.vector ctx = s.vector ctx) ∧
      t = { s with crews := t.crews, vectors := t.vectors, fresh := s.fresh + 1 } ∧ ∀ k, k ≠ s.cur → t.crewAt k = s.crewAt k) ∧
    (imm.toNat = 0x1E → ∃ t, exec (.mfs nw d imm) s = .next t ∧ s.clock ≤ t.clock ∧
      uniformWritten s nw (sNum d) (BitVec.ofNat 64 t.clock) t.crew ∧ crewKeeps s.crew t.crew ∧ lanesKept s.crew t.crew ∧
      moved s t false 1 ∧ t = { s with crews := t.crews, clock := t.clock, fresh := s.fresh + 1 } ∧
      ∀ k, k ≠ s.cur → t.crewAt k = s.crewAt k) ∧
    (imm.toNat = 0x19 ∨ 0x20 ≤ imm.toNat → s.crew.run = none → ∃ t, exec (.mfs nw d imm) s = .next t ∧
      trapped s t 2 s.actMask 0 0 s.crew.pc s.crew.pc 0)

/-- R216, Table 9.4: MTS of every register of the crew, and its checks; R110 gives the generators of SRSEED. -/
def Obligations.SpecialWrites : Prop :=
  ∀ (s : State) (d : BitVec 7) (imm : BitVec 16), dS d = true →
    (∀ e ∈ specialWrites s (s.crew.getS (sNum d)), imm.toNat = e.1 →
      (s.crew.getS (sNum d) &&& e.2.1 = 0 → ∃ t, exec (.mts d imm) s = .next t ∧ onlyCrew s t ∧ moved s t false 1 ∧
        crewIs e.2.2 t.crew ∧ (e.1 = 0x12 → t.crew.traprep = s.crew.getS (sNum d))) ∧
      (s.crew.getS (sNum d) &&& e.2.1 ≠ 0 → s.crew.run = none → ∃ t, exec (.mts d imm) s = .next t ∧
        trapped s t 2 s.actMask 0 0 s.crew.pc s.crew.pc 0)) ∧
    (imm.toNat = 0x13 → let v := s.crew.getS (sNum d)
      (v.toNat % 4 = 0 ∧ v.toNat < s.team.textsize → ∃ t, exec (.mts d imm) s = .next t ∧ onlyCrew s t ∧ moved s t false 1 ∧
        crewIs { s.crew with resumepc := v } t.crew) ∧
      (v.toNat % 4 ≠ 0 ∨ s.team.textsize ≤ v.toNat → s.crew.run = none → ∃ t, exec (.mts d imm) s = .next t ∧
        trapped s t 2 s.actMask 0 0 s.crew.pc s.crew.pc 0)) ∧
    (imm.toNat = 0x0C → ∃ t, exec (.mts d imm) s = .next t ∧ onlyCrew s t ∧ moved s t false 1 ∧
      crewIs { s.crew with seed := t.crew.seed } t.crew ∧ ∀ l, l < s.width →
        let x := (s.crew.getS (sNum d)).setWidth 32 ^^^ BitVec.ofNat 32 (l * 0x9E3779B9)
        fget 0 t.crew.seed l = if x = 0 then 1 else x) ∧
    (imm.toNat ∈ [1, 2, 3, 4, 5, 6, 7, 0x0E, 0x0F, 0x10, 0x11, 0x18, 0x19, 0x1E, 0x1F] ∨ 0x20 ≤ imm.toNat → s.crew.run = none → ∃ t,
      exec (.mts d imm) s = .next t ∧ trapped s t 2 s.actMask 0 0 s.crew.pc s.crew.pc 0)

/-- R219: both forms of MVTC, and the reserved bits of Table 9.5. -/
def Obligations.TileControl : Prop :=
  ∀ (s : State) (nw : Bool) (d : BitVec 7) (a : BitVec 8),
    (dS d = true → a.toNat < s.team.ntile → uniformDone (exec (.mvtcFrom nw d a) s) s nw d [] 2 0 (fget 0 s.team.tc a.toNat)) ∧
    (d.toNat < s.team.ntile → isUniform a = true → mayRun s [a] →
      (s.uni a &&& 0xFFFFFFFFFFF0C0F0#64 = 0 → ∃ t, exec (.mvtcTo d a) s = .next t ∧ quiet s { t with teams := s.teams } ∧
        crewIs s.crew t.crew ∧ moved s t (readsLatch [a]) 2 ∧
        (∀ n, fget 0 t.team.tc n = if n = d.toNat then s.uni a else fget 0 s.team.tc n) ∧
        t.team = { s.team with tc := t.team.tc } ∧ ∀ k, k ≠ slotOf s.cur → t.teamAt k = s.teamAt k) ∧
      (s.uni a &&& 0xFFFFFFFFFFF0C0F0#64 ≠ 0 → s.crew.run = none → ∃ t, exec (.mvtcTo d a) s = .next t ∧
        trapped s t 2 s.actMask 0 0 s.crew.pc (resumeAt s (readsLatch [a])) 0))

/-- R163, R167, R172: an accepted REP or MCALL begins its unit at repeat 0 or the entry's first word, or at the place that TRAPREP
gives when the crew resumes; the counts are zero and the PC stays. A REP without a target is an illegal instruction. That a unit is
rejected with a trap at its issue is the model's reading (log entry 28). -/
def Obligations.UnitEntry : Prop :=
  ∀ (s : State), s.crew.run = none →
    (∀ (cnt : BitVec 6) (sd sa sb : BitVec 1) (str : BitVec 2) (w : Word) (i : Instr) (len : Nat),
      s.textWord (s.crew.pc.toNat + 4) = some w → decode (some w) (s.textWord (s.crew.pc.toNat + 8)) = .ok (i, len) →
      notRepeated (w.toNat / 2 ^ 24 % 256) = false →
      (let f := regFields (w.toNat / 2 ^ 24 % 256) ((s.textWord (s.crew.pc.toNat + 8)).getD 0)
       let b := if w.toNat % 256 = 0x8F ∧ bInE (w.toNat / 2 ^ 24 % 256) = true then ((s.textWord (s.crew.pc.toNat + 8)).getD 0).toNat % 256 else w.toNat % 256
       (sd = 1#1 → f.1 = true ∧ w.toNat / 2 ^ 16 % 128 < 0x80) ∧ (sa = 1#1 → f.2.1 = true ∧ w.toNat / 2 ^ 8 % 256 < 0x80) ∧
         (sb = 1#1 → f.2.2 = true ∧ b < 0x80)) →
      let r := if s.crew.resuming then s.crew.traprep.toNat % 64 else 0
      ∃ t, exec (.rep cnt sd sa sb str) s = .next t ∧ quiet s t ∧ crewKeeps s.crew t.crew ∧ uniformKept s.crew t.crew ∧
        t.crew.nL = 0 ∧ t.crew.nS = 0 ∧ t.crew.fin = false ∧
        (r ≤ cnt.toNat → t.crew.run = some (.rep r cnt.toNat) ∧ t.crew.pc = s.crew.pc) ∧
        (cnt.toNat < r → t.crew.run = none ∧ t.crew.pc = s.crew.pc + BitVec.ofNat 32 (4 + 4 * len))) ∧
    (∀ (cnt : BitVec 6) (sd sa sb : BitVec 1) (str : BitVec 2), s.textWord (s.crew.pc.toNat + 4) = none →
      ∃ t, exec (.rep cnt sd sa sb str) s = .next t ∧ trapped s t 1 s.actMask 0 0 s.crew.pc s.crew.pc 0) ∧
    ∀ (d : BitVec 7) (a b : BitVec 8) (img : Image), s.image = some img → a.toNat < 0x80 → d.toNat / 8 = s.team.macwin →
      d.toNat < img.hdr.toNat / 2 ^ 288 % 256 →
      let e := s.macroEntry d.toNat
      let ops := e.1.take (entryEnd e.1)
      ops ≠ [] → s.marksOk a.toNat ops e.2 = true → opsOk a.toNat b.toNat 32 ops e.2 = true →
      let k := if s.crew.resuming && s.crew.traprep.getLsbD 15 then s.crew.traprep.toNat / 256 % 32 else 0
      ∃ t, exec (.mcall d a b) s = .next t ∧ quiet s t ∧ crewKeeps s.crew t.crew ∧ uniformKept s.crew t.crew ∧
        t.crew.nL = 0 ∧ t.crew.nS = 0 ∧ t.crew.fin = false ∧ t.crew.run = some (.mcall k k) ∧ t.crew.pc = s.crew.pc

/-! Device memory. -/

namespace Sys2Proof.Claims

/-- The physical address of byte i of an access whose parts are ps. -/
def physAt (ps : List Piece) (i : Nat) : Nat :=
  match ps.find? (fun p => decide (p.off ≤ i) && decide (i < p.off + p.n)) with
  | some p => p.page.pa + (i - p.off)
  | none => 0

/-- The state whose free values the instruction meets (log entry 2). -/
def issued (s : State) : State := { s with fresh := s.fresh + 1 }

/-- Every active lane's access of n bytes passes the checks of Table 3.5 with the parts ps, all of them in device memory. -/
def reaches (s : State) (need : Need) (ea : Nat → Nat) (n : Nat) (ps : Nat → List Piece) : Prop :=
  ∀ l ∈ s.active, (issued s).check need (ea l) n = .ok (ps l) ∧ ∀ p ∈ ps l, pteRemote p.page.pte = false ∧ p.page.pa + p.n ≤ memTop

/-- No part lies on a copy-on-write page (R70), or on a poisoned granule (R418). -/
def noCow (s : State) (ps : Nat → List Piece) : Prop := ∀ l ∈ s.active, ∀ p ∈ ps l, pteCow p.page.pte = false
def noPoison (s : State) (ps : Nat → List Piece) : Prop := ∀ l ∈ s.active, s.piecesPoisoned (ps l) = false

/-- Where ORD has a release part, the crew's accesses that it orders are performed: all but requests on their way to another device
under a scope below DOMAIN (R244, R266, R316, R317). -/
def mayIssue (s : State) (ord : BitVec 2) (scope : BitVec 3) : Prop :=
  ord.getLsbD 1 = true → ∀ a, Pend.acc a ∈ s.crew.pend → a.req ≠ none ∧ a.send = none ∧ a.dev ≠ none ∧ scope.toNat < 5

/-- What an instruction's accesses have in common: the number of the step that issues it, its stream and its qualifiers. -/
def accessOf (s : State) (rd wr : Bool) (strm : BitVec 4) (scope : BitVec 3) (ord : BitVec 2) : Acc :=
  { seq := s.fresh + 1, rd := rd, wr := wr, strm := strm.toNat, acq := ord.getLsbD 0, rel := ord.getLsbD 1, scope := scope.toNat }

/-- The parts of the lanes' accesses of n bytes, lane by lane: one where the address is aligned, else one for each byte (R325): lane,
physical address, bytes, offset in the element, and ORD of the page. -/
def partsOf (n : Nat) (ea : Nat → Nat) (ps : Nat → List Piece) (ls : List Nat) : List (Nat × Nat × Nat × Nat × Nat) :=
  ls.flatMap fun l => (ps l).flatMap fun p =>
    if ea l % n = 0 then [(l, p.page.pa, p.n, p.off, pteOrd p.page.pte)]
    else (List.range p.n).map fun i => (l, p.page.pa + i, 1, p.off + i, pteOrd p.page.pte)

/-- The access of a part. -/
def partAcc (x : Acc) (q : Nat × Nat × Nat × Nat × Nat) : Acc :=
  { x with lane := q.1, pa := q.2.1, n := q.2.2.1, off := q.2.2.2.1, kind := q.2.2.2.2 }

/-- An access that is performed at issue has nothing to wait for and passes nothing (R313, R321). -/
def accessFree (s : State) (x : Acc) : Prop := passList s.crew.pend [x.target 8] = some s.crew.pend

/-- So for every access of a stream, and for the reads of some parts. -/
def streamFree (s : State) (strm : BitVec 4) : Prop := ∀ x : Acc, x.strm = strm.toNat → accessFree s x
def readsFree (s : State) (x : Acc) (ps : List Piece) : Prop :=
  ∀ p ∈ ps, accessFree s { x with pa := p.page.pa, n := p.n, kind := pteOrd p.page.pte }

/-- No store of any crew has been passed for the observers of a scope. -/
def noneLate (s : State) : Prop := ∀ e ∈ s.crews, ∀ a, Pend.acc a ∈ e.2.pend → a.late = 0

/-! The edges of Table 13.2, from an access a to a later one b of the crew. An observer stands within CREW, TEAM, CLUSTER or DIE of the
crew, 1 to 4, or outside all of them, 8; an edge that counts for one counts for every nearer one (R321). -/

/-- The ranges of two accesses to one memory meet in (p, q). -/
def bytesMeet (a b : Acc) (p q : Nat × Nat × Nat) : Prop := a.dev = b.dev ∧ p.1 < q.1 + q.2.1 ∧ q.1 < p.1 + p.2.1

/-- The two accesses have a common byte. -/
def common (a b : Acc) : Prop := ∃ p ∈ a.spans, ∃ q ∈ b.spans, bytesMeet a b p q

/-- Table 3.6 for the kinds of two pages: a common byte orders them unless UO pages are met by different lanes; without one only two
accesses to SO pages are ordered, and two requests to the fabric only where they go to one device (R67, R69, R317). -/
def kindsOrder (a b : Acc) : Prop :=
  ∃ p ∈ a.spans, ∃ q ∈ b.spans, (bytesMeet a b p q ∧ (a.lane = b.lane ∨ p.2.2 ≠ 2 ∧ q.2.2 ≠ 2)) ∨
    (¬ bytesMeet a b p q ∧ p.2.2 = 1 ∧ q.2.2 = 1 ∧ (a.req = none ∨ b.req = none ∨ a.dev = b.dev))

/-- A release or fence of a scope counts for an observer: a request on its way to another device is ordered by DOMAIN and SYSTEM alone
(R244, R317); of a store here the scope tells for whom it counts; from any other access the edge counts for every observer (the
model's choice; log entry 5). -/
def scopeCounts (o : Nat) (a : Acc) (scope : Nat) : Prop :=
  if a.req ≠ none ∧ a.send = none ∧ a.dev ≠ none then 5 ≤ scope
  else if a.wr = true ∧ a.rd = false ∧ a.req = none ∧ a.op = .plain ∧ scope < 4 then o ≤ scope + 1
  else True

/-- Rows 1 to 3: Table 3.6, an acquire a, or a release b; of two lanes of one instruction, writes of a common byte (R327). A request
that follows one to the same bytes on its way is kept in order by the path (R362). -/
def rowOrders (o : Nat) (a b : Acc) : Prop :=
  ¬ (a.req ≠ none ∧ a.send = none ∧ b.req ≠ none ∧ common a b) ∧
    if a.seq = b.seq then a.wr = true ∧ b.wr = true ∧ common a b
    else a.strm = b.strm ∧ (kindsOrder a b ∨ a.acq = true ∨ (b.rel = true ∧ scopeCounts o a b.scope))

/-- Row 4 with Table 10.5: a fence f between a and b. -/
def fenceOrder (o : Nat) (f : Pend) (a b : Acc) : Prop :=
  ∃ m ord scope, f = .fence m ord scope ∧ m.getLsbD a.strm = true ∧ m.getLsbD b.strm = true ∧ scopeCounts o a scope ∧
    (if ord = 1 then a.rd = true else if ord = 2 then b.wr = true else if ord = 3 then a.rd = true ∨ b.wr = true else True)

/-- Entry i of a list is ordered before entry j, for an observer. -/
def comesBefore (o : Nat) (l : List Pend) (i j : Nat) : Prop :=
  ∃ a b, i < j ∧ l[i]? = some (.acc a) ∧ l[j]? = some (.acc b) ∧
    (rowOrders o a b ∨ ∃ m f, i < m ∧ m < j ∧ l[m]? = some f ∧ fenceOrder o f a b)

/-- The bytes of an access after its value has landed. -/
def landed (a : Acc) (m : Nat → Byte) (x : Nat) : Byte :=
  if a.pa ≤ x ∧ x < a.pa + a.n then BitVec.ofNat 8 (a.data / 2 ^ (8 * (x - a.pa))) else m x

/-- The list of accesses without the fences before its first access, which order nothing any more. -/
def standing (l : List Pend) : List Pend := l.dropWhile fun p => match p with
  | .fence _ _ _ => true
  | .acc _ => false

/-- The number that n bytes hold, lowest first (R1). -/
def littleEndian (n : Nat) (byte : Nat → Byte) : Nat := ((List.range n).map fun i => (byte i).toNat * 2 ^ (8 * i)).sum

/-- Bytes after n bytes of the value v have been stored at the addresses at_. -/
def stored (n : Nat) (at_ : Nat → Nat) (v : Nat) (m : Nat → Byte) (x : Nat) : Byte :=
  match (List.range n).reverse.find? (fun i => at_ i == x) with
  | some i => BitVec.ofNat 8 (v / 2 ^ (8 * i))
  | none => m x

/-- Bytes after the lanes' stores, lane by lane, so that the highest lane's value remains (R239). -/
def storeLoop (n : Nat) (at_ : Nat → Nat → Nat) (v : Nat → Nat) : List Nat → (Nat → Byte) → Nat → Byte
  | [], m => m
  | l :: ls, m => storeLoop n at_ v ls (stored n (at_ l) (v l) m)

/-- Table 10.2: the bytes of an element, what a load's lane receives, and what a store sends. -/
def elementSize (fmt : BitVec 4) : Option Nat :=
  if fmt = 0 then some 8 else if fmt = 1 ∨ fmt = 13 then some 4 else if fmt = 2 ∨ fmt = 3 ∨ fmt = 11 ∨ fmt = 12 then some 2
  else if fmt = 6 ∨ fmt = 9 then none else some 1
def loadRow (fmt : BitVec 4) (v : Nat) : Res :=
  if fmt = 8 then { code := ((BitVec.ofNat 8 v).signExtend 32).toNat }
  else if fmt = 11 then { code := ((BitVec.ofNat 16 v).signExtend 32).toNat }
  else if fmt = 2 ∨ fmt = 3 ∨ fmt = 4 ∨ fmt = 5 ∨ fmt = 7 ∨ fmt = 14 then cvtCode fmt.toNat 1 .rne v
  else { code := v }
def storeRow (fmt : BitVec 4) (mode : Mode) (b : Nat) : Res :=
  if fmt = 0 ∨ fmt = 1 ∨ fmt = 13 then { code := b } else if fmt = 15 then { code := b % 256 }
  else if fmt = 8 ∨ fmt = 10 ∨ fmt = 11 ∨ fmt = 12 then cvtCode 13 fmt.toNat mode b
  else cvtCode 1 fmt.toNat mode b

/-- The flags of the active lanes together. -/
def orFlags (ls : List Nat) (f : Nat → Nat) : Nat := ls.foldl (fun x l => x ||| f l) 0

/-- The latches are as they were. -/
def latchesKept (c c' : Crew) : Prop :=
  c'.bl0 = c.bl0 ∧ c'.bl1 = c.bl1 ∧ c'.bl2 = c.bl2 ∧ c'.bl3 = c.bl3 ∧ c'.bs0 = c.bs0 ∧ c'.bs1 = c.bs1 ∧ c'.bs2 = c.bs2 ∧ c'.bs3 = c.bs3

/-- An access to device memory changes the crew, memory, and, in the clusters, only translation buffers and leases, which
carry no value (R66, R73). -/
def memoryFrame (s t : State) : Prop :=
  t = { s with crews := t.crews, clusters := t.clusters, mem := t.mem, poison := t.poison, fresh := s.fresh + 1 } ∧
    (∀ k, k ≠ s.cur → t.crewAt k = s.crewAt k) ∧
    ∀ k, t.clusterAt k = { s.clusterAt k with tlb := (t.clusterAt k).tlb, leases := (t.clusterAt k).leases,
                                              wants := (t.clusterAt k).wants, pred := (t.clusterAt k).pred }

/-- A granule's marker after bytes at the addresses of covered have been written (R418). -/
def clearedWhere (s t : State) (covered : Nat → Prop) : Prop :=
  ∀ g, fget false t.poison g = true ↔ fget false s.poison g = true ∧ ¬ ∀ i, i < 16 → covered (16 * g + i)

/-- The frame of an access that is issued and not performed: memory and its markers stay. -/
def issueFrame (s t : State) : Prop := memoryFrame s t ∧ t.mem = s.mem ∧ t.poison = s.poison

/-- Table 10.4: the operations, by AOP and FMT, with the bytes that each acts on. -/
def atomForms : List (Nat × Nat × Nat) :=
  ((List.range 9).map fun k => (k, 13, 4)) ++ ((List.range 9).map fun k => (k + 16, 13, 8)) ++
    ((List.range 5).flatMap fun k => [(k + 9, 0, 8), (k + 9, 1, 4), (k + 9, 2, 4), (k + 9, 3, 4)])

/-- The new value of Table 10.4; floating operations by the arithmetic of R98, R109 and R115 in RNE. -/
def atomResult (aop fmt old b : Nat) : Nat :=
  let n := if aop < 16 then 32 else 64
  let float (x y : Nat) : Nat := (match aop with
    | 9 => fAdd fmt .rne x y
    | 10 => fminmax fmt false false x y
    | 11 => fminmax fmt true false x y
    | 12 => fminmax fmt false true x y
    | _ => fminmax fmt true true x y).code
  if 9 ≤ aop ∧ aop ≤ 13 then
    if fmt = 2 ∨ fmt = 3 then float (old % 65536) (b % 65536) + 65536 * float (old / 65536 % 65536) (b / 65536 % 65536) else float old b
  else match aop % 16 with
    | 0 => (old + b) % 2 ^ n
    | 1 => if signed n old ≤ signed n b then old else b
    | 2 => if signed n old ≤ signed n b then b else old
    | 3 => min old b
    | 4 => max old b
    | 5 => old &&& b
    | 6 => old ||| b
    | 7 => old ^^^ b
    | _ => b

end Sys2Proof.Claims

/-- R237, R238, R313: LD leaves memory; its parts join the crew's accesses and its result waits for them. Without an active lane
nothing is accessed. -/
def Sys2Proof.Claims.loadIssue : Prop :=
  ∀ (s : State) (d : BitVec 7) (a : BitVec 8) (strm fmt : BitVec 4) (scope : BitVec 3) (ord : BitVec 2) (imm : BitVec 11)
      (n : Nat) (ps : Nat → List Piece), elementSize fmt = some n → fmt ≠ 7 → s.dstOk (fmt == 0) d = true → s.addrOk a = true →
    ord.toNat ≤ 1 → scope ≠ 7 → mayRun s [a] →
    let ea (l : Nat) : Nat := wrapInt 64 ((s.pair a l).toNat + imm.toInt)
    (s.active = [] → ∃ t, exec (.ld d a strm fmt scope ord imm) s = .next t ∧ quiet s t ∧ crewKeeps s.crew t.crew ∧
      uniformKept s.crew t.crew ∧ moved s t (readsLatch [a]) 2) ∧
    (s.active ≠ [] → reaches s { r := true } ea n ps → noPoison s ps → ∃ t, exec (.ld d a strm fmt scope ord imm) s = .next t ∧
      issueFrame s t ∧ moved s t (readsLatch [a]) 2 ∧ uniformKept s.crew t.crew ∧ lanesKept s.crew t.crew ∧
      t.crew.fpsr = s.crew.fpsr ∧ t.crew.rxf = s.crew.rxf ∧
      let parts := (partsOf n ea ps s.active).map (partAcc (accessOf s true false strm scope ord))
      rest t.crew = { rest s.crew with
        pend := s.crew.pend ++ parts.map .acc
        loads := s.crew.loads ++ [{ reg := vIndex s.crew d.toNat, pair := fmt == 0, data := s.active.map fun l => (l, 0)
                                    fmt := fmt.toNat, seq := s.fresh + 1, left := parts.length }] })

/-- R239, R313: ST leaves memory; its parts join the crew's accesses with the bytes that they will store. -/
def Sys2Proof.Claims.storeIssue : Prop :=
  ∀ (s : State) (a b : BitVec 8) (strm fmt : BitVec 4) (scope : BitVec 3) (ord : BitVec 2) (imm : BitVec 11) (n : Nat)
      (ps : Nat → List Piece), elementSize fmt = some n → fmt ≠ 7 → s.srcOk (fmt == 0) b = true → s.addrOk a = true →
    ord = 0 ∨ ord = 2 → scope ≠ 7 → mayRun s [a, b] →
    let ea (l : Nat) : Nat := wrapInt 64 ((s.pair a l).toNat + imm.toInt)
    reaches s { w := true } ea n ps → noCow s ps →
    let v (l : Nat) : Res := storeRow fmt s.crew.mode (s.laneW (fmt == 0) b l).toNat
    let parts := partsOf n ea ps s.active
    ∃ t, exec (.st a b strm fmt scope ord imm) s = .next t ∧ issueFrame s t ∧ moved s t (readsLatch [a, b]) 2 ∧
      uniformKept s.crew t.crew ∧ lanesKept s.crew t.crew ∧ t.crew.rxf = s.crew.rxf ∧
      t.crew.fpsr = s.crew.fpsr ||| BitVec.ofNat 64 (orFlags s.active fun l => (v l).fl) ∧
      let write (q : Nat × Nat × Nat × Nat × Nat) : Acc :=
        { partAcc (accessOf s false true strm scope ord) q with
          data := (v q.1).code / 2 ^ (8 * q.2.2.2.1) % 2 ^ (8 * q.2.2.1)
          full := (List.range 16).all fun i =>
            parts.any fun p => decide (p.2.1 ≤ 16 * (q.2.1 / 16) + i ∧ 16 * (q.2.1 / 16) + i < p.2.1 + p.2.2.1) }
      rest t.crew = { rest s.crew with pend := s.crew.pend ++ parts.map fun q => Pend.acc (write q) }

/-- R67, R69, R246, R313, R316, R317, R321, R327: which entry of a crew's list may be performed or sent. Where nothing before it is
ordered before it, it may. Where it may, nothing before it is ordered before it for every observer; an earlier store that is, for
the observers of a scope, is found by them from then on, and what is ordered before such a store for them too. -/
def Sys2Proof.Claims.accessOrder : Prop :=
  ∀ (c : Crew) (j : Nat) (b : Acc), c.pend[j]? = some (.acc b) → ¬ (b.req ≠ none ∧ b.send = none) →
    ((∀ i o, 1 ≤ o → ¬ comesBefore o c.pend i j) → c.pass j = some (b, c.pend.take j)) ∧
    ∀ x l, c.pass j = some (x, l) → x = b ∧ l.length = j ∧ (∀ i, ¬ comesBefore 8 c.pend i j) ∧
      (∀ i m ord scope, c.pend[i]? = some (.fence m ord scope) → i < j → l[i]? = some (.fence m ord scope)) ∧
      ∀ i a, i < j → c.pend[i]? = some (.acc a) → ∃ v, l[i]? = some (.acc { a with late := v }) ∧ a.late ≤ v ∧
        (∀ o, 1 ≤ o → o ≤ 4 → comesBefore o c.pend i j → o ≤ v) ∧
        ∀ i1 a1 v1, c.pend[i1]? = some (.acc a1) → l[i1]? = some (.acc { a1 with late := v1 }) → i1 < j → a1.late < v1 →
          ∀ o, 1 ≤ o → o ≤ v1 → comesBefore o c.pend i i1 → o ≤ v

/-- R246, R247, R266, R321: a release at CREW, TEAM, CLUSTER or DIE passes the crew's stores that are not performed: from then on they
are found within its scope. One of a wider scope, or a load that is not performed, makes it wait. -/
def Sys2Proof.Claims.releasePasses : Prop :=
  ∀ (s : State) (ord : BitVec 2) (scope : BitVec 3) (as : List Acc), ord.getLsbD 1 = true → s.crew.pend = as.map .acc →
    (scope.toNat < 4 → (∀ a ∈ as, a.wr = true ∧ a.rd = false ∧ a.req = none ∧ a.op = .plain) → ∃ t, s.ordered ord scope = some t ∧
      onlyCrew s { t with fresh := s.fresh + 1 } ∧
      crewIs { s.crew with pend := as.map fun a => .acc { a with late := max a.late (scope.toNat + 1) } } t.crew) ∧
    (4 ≤ scope.toNat → (∃ a ∈ as, a.req = none ∧ a.late < 8) → s.ordered ord scope = none) ∧
    ((∃ a ∈ as, a.rd = true ∧ a.req = none ∧ a.late < 8) → s.ordered ord scope = none)

/-- R57, R74, R238, R313, R418: a load's or store's part is performed whole: a write stores its bytes and no others, a read takes the
bytes that stand there for its load. A marker falls where a granule has been written whole by the part, or by the instruction whose
last part in the granule this is. -/
def Sys2Proof.Claims.accessPerformed : Prop :=
  ∀ (s : State) (k j : Nat) (a : Acc), (s.crewAt k).pass j = some (a, (s.crewAt k).pend.take j) → noneLate s →
    a.send = none → a.op = .plain → a.pa + a.n ≤ memTop → (∀ p, (s.crewAt k).block = some (.parked p) → p.seq ≠ a.seq) →
    let got (data : List (Nat × DWord)) : List (Nat × DWord) := data.map fun e => if e.1 = a.lane then
      (e.1, e.2 ||| BitVec.ofNat 64 ((littleEndian a.n fun i => s.byte (a.pa + i)) * 2 ^ (8 * a.off))) else e
    ∃ t, s.perform1Acc k j = .next t ∧
      t = { s with crews := t.crews, clusters := t.clusters, mem := t.mem, poison := t.poison } ∧ (∀ i, i ≠ k → t.crewAt i = s.crewAt i) ∧
      (∀ i, t.clusterAt i = { s.clusterAt i with leases := (t.clusterAt i).leases, pred := (t.clusterAt i).pred }) ∧
      (∀ x, t.byte x = if a.wr = true then landed a s.byte x else s.byte x) ∧
      (∀ g, fget false t.poison g = true ↔ fget false s.poison g = true ∧ ¬ (a.wr = true ∧
        ((a.pa ≤ 16 * g ∧ 16 * g + 16 ≤ a.pa + a.n) ∨ (a.full = true ∧ (s.crewAt k).lastIn a = true ∧ g = a.pa / 16)))) ∧
      t.crewAt k = { s.crewAt k with
        pend := standing ((s.crewAt k).pend.erase (.acc a))
        loads := (s.crewAt k).loads.map fun x =>
          if a.wr = false ∧ x.seq = a.seq ∧ 0 < x.left then ({ x with left := x.left - 1, data := got x.data } : PendingLoad) else x }

/-- R313, R321: a store x that crew i's later accesses of a scope have passed is found by a read within the scope, and performed first;
a read outside it may still find the old bytes; and a write comes after it. -/
def Sys2Proof.Claims.lateStores : Prop :=
  ∀ (s : State) (i k : Nat) (a x : Acc), i ≠ k → (s.crewAt i).pend = [.acc x] → (s.crewAt k).pend = [.acc a] →
    (∀ e ∈ s.crews, e.1 ≠ i → ∀ y, Pend.acc y ∈ e.2.pend → y.late = 0) → 1 ≤ x.late → x.late ≤ 4 →
    (∀ y ∈ [a, x], y.req = none ∧ y.send = none ∧ y.dev = none ∧ y.op = .plain ∧ 1 ≤ y.n ∧ y.pa + y.n ≤ memTop) →
    x.wr = true → x.rd = false → a.rd = !a.wr → x.pa < a.pa + a.n → a.pa < x.pa + x.n →
    (s.crewAt k).block = none → (lookup s.crews i).isSome = true →
    let near : Bool := match x.late with
      | 1 => false
      | 2 => slotOf i == slotOf k
      | 3 => slotOf i / 16 == slotOf k / 16
      | _ => slotOf i / 192 == slotOf k / 192
    let first : Prop := a.wr = true ∨ near = true
    ∃ t, s.perform1Acc k 0 = .next t ∧
      (first → (t.crewAt i).pend = [] ∧ ∀ b, t.byte b = if a.wr = true then landed a (landed x s.byte) b else landed x s.byte b) ∧
      (¬ first → t.crewAt i = s.crewAt i ∧ t.mem = s.mem) ∧
      ∀ y z, (s.crewAt k).loads = [y] → y.seq = a.seq → 0 < y.left → y.data = [(a.lane, 0)] → a.rd = true →
        z = (littleEndian a.n fun n => (if near then landed x s.byte (a.pa + n) else s.byte (a.pa + n))) →
        (t.crewAt k).loads = [{ y with left := y.left - 1, data := [(a.lane, BitVec.ofNat 64 (z * 2 ^ (8 * a.off)))] }]

/-- R112, R238, R388: the return of a load that has been read whole writes its lanes, converted, into the register of its issue. -/
def Sys2Proof.Claims.loadReturn : Prop :=
  ∀ (s : State) (k reg : Nat) (x : PendingLoad) (pre post : List PendingLoad), (s.crewAt k).loads = pre ++ x :: post →
    x.reg = reg → x.left = 0 → x.fmt < 16 → (∀ y ∈ pre, y.reg = reg → y.left ≠ 0) → (∀ e ∈ x.data, e.1 < 32) → (x.data.map (·.1)).Nodup →
    let v (l : Nat) : Res := loadRow (BitVec.ofNat 4 x.fmt) ((lookup x.data l).getD 0).toNat
    ∃ t, exec (.loadResultReturn k reg) s = .next t ∧ t = { s with crews := t.crews } ∧ (∀ j, j ≠ k → t.crewAt j = s.crewAt j) ∧
      t.crewAt k = { s.crewAt k with
        v := (t.crewAt k).v, loads := pre ++ post
        fpsr := (s.crewAt k).fpsr ||| BitVec.ofNat 64 (orFlags (x.data.map (·.1)) fun l => (v l).fl) } ∧
      ∀ m, fget 0 (t.crewAt k).v m =
        if m / 32 = reg ∧ m % 32 ∈ x.data.map (·.1) then BitVec.ofNat 32 (v (m % 32)).code
        else if x.pair = true ∧ m / 32 = reg + 1 ∧ m % 32 ∈ x.data.map (·.1) then BitVec.ofNat 32 ((v (m % 32)).code / 2 ^ 32)
        else fget 0 (s.crewAt k).v m

/-- R237 to R239, R313, R316, R317, R321, R325, R327: LD and ST are issued, their parts are performed in an order that preserved program
order allows, the edges of a scope count for its observers, and a load that has been read whole returns. That an edge which begins at a
read counts for every observer, and how a store is passed, is the model's choice (log entry 5). -/
def Obligations.LoadStore : Prop :=
  Claims.loadIssue ∧ Claims.storeIssue ∧ Claims.accessOrder ∧ Claims.releasePasses ∧ Claims.accessPerformed ∧ Claims.lateStores ∧
    Claims.loadReturn

/-- R242, R243, R311: ATOM, CAS and RED are issued: each lane's step joins the crew's accesses with its operand, and the old values of
ATOM and CAS are awaited in D. -/
def Sys2Proof.Claims.atomIssue : Prop :=
  ∀ (s : State) (d : BitVec 7) (a b c : BitVec 8) (strm fmt : BitVec 4) (scope : BitVec 3) (ord : BitVec 2) (aop : BitVec 5)
      (w64 : BitVec 1) (off : BitVec 6) (n : Nat) (ps : Nat → List Piece),
    s.addrOk a = true → s.srcOk (n == 8) b = true → scope ≠ 7 →
    let ea (l : Nat) : Nat := wrapInt 64 ((s.pair a l).toNat + off.toInt * n)
    (∀ l ∈ s.active, ea l % n = 0) → reaches s { r := true, w := true } ea n ps → noCow s ps →
    let operand (x : BitVec 8) (l : Nat) : Nat := (s.laneW (n == 8) x l).toNat
    let parts := partsOf n ea ps s.active
    let done (i : Instr) (srcs : List (BitVec 8)) (op : Nat → AccOp) (v : Nat → Nat) (ret : Bool) : Prop :=
      let step (q : Nat × Nat × Nat × Nat × Nat) : Acc := { partAcc (accessOf s ret true strm scope ord) q with
        data := v q.1 / 2 ^ (8 * q.2.2.2.1) % 2 ^ (8 * q.2.2.1), op := op q.1 }
      ∃ t, exec i s = .next t ∧ issueFrame s t ∧ moved s t (readsLatch srcs) 2 ∧ uniformKept s.crew t.crew ∧ lanesKept s.crew t.crew ∧
        t.crew.fpsr = s.crew.fpsr ∧ t.crew.rxf = s.crew.rxf ∧
        rest t.crew = { rest s.crew with
          pend := s.crew.pend ++ parts.map fun q => Pend.acc (step q)
          loads := s.crew.loads ++ (if ret = true ∧ s.active ≠ [] then [{
            reg := vIndex s.crew d.toNat, pair := n == 8, data := s.active.map fun l => (l, 0), fmt := 13, seq := s.fresh + 1
            left := parts.length }] else []) }
    let atom (_ : Nat) : AccOp := .atom aop.toNat fmt.toNat
    ((aop.toNat, fmt.toNat, n) ∈ atomForms →
      (s.dstOk (n == 8) d = true → noPoison s ps → mayRun s [a, b] → done (.atom d a b strm fmt scope ord aop off) [a, b] atom (operand b) true) ∧
      (aop ≠ 8 → aop ≠ 24 → ord = 0 ∨ ord = 2 → mayRun s [a, b] →
        done (.red a b strm fmt scope ord aop off) [a, b] atom (operand b) false)) ∧
    (fmt = 13 → n = (if w64 = 1 then 8 else 4) → s.dstOk (n == 8) d = true → s.srcOk (n == 8) c = true → noPoison s ps →
      mayRun s [a, b, c] → done (.cas d a b c strm fmt scope ord w64 off) [a, b, c] (fun l => .cas (operand b l)) (operand c) true)

/-- R72 to R75, R243, R418: an atomic's step replaces the old value by the new one of Table 10.4, or of CAS where it found the value
compared, and returns the old one; it changes nothing else, and no marker. Where it goes near and its cluster holds no lease on the line
it asks for one, and waits. -/
def Sys2Proof.Claims.atomPerformed : Prop :=
  ∀ (s : State) (k j : Nat) (a : Acc) (new : Nat → Option Nat), (s.crewAt k).pass j = some (a, (s.crewAt k).pend.take j) →
    noneLate s → a.send = none → a.pa + a.n ≤ memTop → (a.n = 4 ∨ a.n = 8) → a.pa % a.n = 0 →
    (∀ p, (s.crewAt k).block = some (.parked p) → p.seq ≠ a.seq) →
    ((∃ aop fmt, (aop, fmt, a.n) ∈ atomForms ∧ a.op = .atom aop fmt ∧ ∀ old, new old = some (atomResult aop fmt old a.data)) ∨
      ∃ b, a.op = .cas b ∧ ∀ old, new old = if old = b then some a.data else none) →
    let old := littleEndian a.n fun i => s.byte (a.pa + i)
    let cl := slotOf k / 16
    let near : Prop := fget 0 (s.clusterAt cl).pred (predIndex (64 * (a.pa / 64))) < 2
    let leased : Prop := ∃ l ∈ (s.clusterAt cl).leases, l.line = a.pa / 64
    let got (data : List (Nat × DWord)) : List (Nat × DWord) := data.map fun e =>
      if e.1 = a.lane then (e.1, e.2 ||| BitVec.ofNat 64 (old * 2 ^ (8 * a.off))) else e
    (¬ near ∨ leased → ∃ t, s.perform1Acc k j = .next t ∧
      t = { s with crews := t.crews, clusters := t.clusters, mem := t.mem, poison := t.poison } ∧ (∀ i, i ≠ k → t.crewAt i = s.crewAt i) ∧
      (∀ i, t.clusterAt i = { s.clusterAt i with
        leases := (t.clusterAt i).leases, pred := (t.clusterAt i).pred, wants := (t.clusterAt i).wants }) ∧
      (∀ x, t.byte x = match new old with
        | some v => stored a.n (fun i => a.pa + i) v s.byte x
        | none => s.byte x) ∧
      (∀ g, fget false t.poison g = fget false s.poison g) ∧
      t.crewAt k = { s.crewAt k with
        pend := standing ((s.crewAt k).pend.erase (.acc a))
        loads := (s.crewAt k).loads.map fun x =>
          if a.rd = true ∧ x.seq = a.seq ∧ 0 < x.left then ({ x with left := x.left - 1, data := got x.data } : PendingLoad) else x }) ∧
    (near → ¬ leased →
      (a.asked = false → (a.pa / 64, a.n) ∉ (s.clusterAt cl).wants → ∃ t, s.perform1Acc k j = .next t ∧ t.mem = s.mem ∧ t.poison = s.poison ∧
        (t.clusterAt cl).wants = (s.clusterAt cl).wants ++ [(a.pa / 64, a.n)] ∧ Pend.acc { a with asked := true } ∈ (t.crewAt k).pend ∧
        (t.crewAt k).loads = (s.crewAt k).loads) ∧
      (a.asked = true → (a.pa / 64, a.n) ∈ (s.clusterAt cl).wants → s.perform1Acc k j = .refused (.notEnabled "PERFORM")))

/-- R72 to R75, R242, R243, R311: the atomics are issued, and each lane's step is performed whole by itself. At which moment is the
model's free choice (log entries 5 and 7). -/
def Obligations.Atomics : Prop := Claims.atomIssue ∧ Claims.atomPerformed

/-- R236, R390, R401: the first failing check over all active lanes is the trap, its lanes are the trap's, and TRAPADDR is the
address of the lowest; nothing is performed. A read that meets poison waits for the crew's own stores to be performed. -/
def Sys2Proof.Claims.accessChecks : Prop :=
  ∀ (s : State) (d : BitVec 7) (a b : BitVec 8) (strm fmt : BitVec 4) (scope : BitVec 3) (ord : BitVec 2) (imm : BitVec 11)
      (n r low : Nat) (m : BitVec 32), s.crew.run = none → elementSize fmt = some n → fmt ≠ 7 → s.addrOk a = true → scope ≠ 7 →
    (let ea (l : Nat) : Nat := wrapInt 64 ((s.pair a l).toNat + imm.toInt)
     let fails (need : Need) (reg : Bool) (l : Nat) : Option Nat := match (issued s).check need (ea l) n with
      | .error q => some q
      | .ok ps => if reg && s.piecesPoisoned ps then some 5 else none
     let first (need : Need) (reg : Bool) : Prop := low ∈ s.active ∧ fails need reg low = some r ∧
       (∀ l ∈ s.active, ∀ q, fails need reg l = some q → r ≤ q) ∧ (∀ l ∈ s.active, l < low → fails need reg l ≠ some r) ∧
       ∀ l, l < 32 → (m.getLsbD l = true ↔ l ∈ s.active ∧ fails need reg l = some r)
     let taken (i : Instr) (srcs : List (BitVec 8)) : Prop :=
       ∃ t, exec i s = .next t ∧ ∀ e ∈ [(0, 0x03), (2, 0x04), (3, 0x05), (4, 0x05), (5, 0x06)], e.1 = r →
         trapped s t e.2 m (BitVec.ofNat 64 (ea low)) 0 s.crew.pc (resumeAt s (readsLatch srcs)) 0
     (s.dstOk (fmt == 0) d = true → ord.toNat ≤ 1 → mayRun s [a] → first { r := true } true →
       (r = 5 → ∀ x, Pend.acc x ∈ s.crew.pend → x.wr = true → x.dev ≠ none) → taken (.ld d a strm fmt scope ord imm) [a]) ∧
     (s.srcOk (fmt == 0) b = true → ord = 0 ∨ ord = 2 → mayRun s [a, b] → first { w := true } false →
       taken (.st a b strm fmt scope ord imm) [a, b]))

/-- Table 3.5, R369: an access that passes its checks meets on every page a valid leaf with the permission it needs; a team of the
normal world meets no secure page and no secure range. -/
def Sys2Proof.Claims.pagePermissions : Prop :=
  ∀ (s : State) (need : Need) (va n : Nat) (ps : List Piece), s.check need va n = .ok ps → ∀ p ∈ ps,
    p.va < 2 ^ 57 ∧ pteV p.page.pte = true ∧ pteLeaf p.page.pte = true ∧ (pteSec p.page.pte = true → s.team.sec = true) ∧
    (pteRemote p.page.pte = false → (need.r = true → pteR p.page.pte = true ∧ ptePor p.page.pte = false) ∧
      (need.w = true → pteW p.page.pte = true ∨ pteCow p.page.pte = true) ∧ (need.x = true → pteX p.page.pte = true) ∧
      (s.inSecure p.page.pa = true → s.team.sec = true))

/-- R236, R369, R390, R401, Table 3.5: the checks of an access. The rank of a poisoned read is the model's reading (log entry 43). -/
def Obligations.AccessTraps : Prop :=
  Claims.accessChecks ∧ Claims.pagePermissions

/-! Scratchpads, key-value caches, and the instructions that make crews wait. -/

namespace Sys2Proof.Claims

/-- The crew has become blocked on b: none of its registers is written, and the PC stays (R39). -/
def blocked (s t : State) (b : Block) : Prop :=
  lanesKept s.crew t.crew ∧ uniformKept s.crew t.crew ∧ t.crew.fpsr = s.crew.fpsr ∧ t.crew.rxf = s.crew.rxf ∧
    t.crew.pc = s.crew.pc ∧ rest t.crew = { rest s.crew with block := some b, since := s.clock, order := s.fresh + 1 }

/-- The crew waits on b and nothing else differs. -/
def waits (s t : State) (b : Block) : Prop := onlyCrew s t ∧ blocked s t b

/-- A blocked crew's instruction of n words is over: the wait is gone, and outside a unit the PC moves past it. -/
def released (c c' : Crew) (n : Nat) : Prop :=
  c'.block = none ∧ (c.run = none → c'.pc = c.pc + BitVec.ofNat 32 (4 * n))

/-- Only the crew and the scratchpad part of a level that its team reaches differ. -/
def partFrame (s t : State) (level : Nat) : Prop :=
  t = { s with crews := t.crews, teams := t.teams, parts := t.parts, fresh := s.fresh + 1 } ∧
    (∀ k, k ≠ s.cur → t.crewAt k = s.crewAt k) ∧ (∀ k, k ≠ slotOf s.cur ∨ level ≠ 0 → t.teamAt k = s.teamAt k) ∧
    t.team = { s.team with part := t.team.part } ∧
    ∀ key, level = 0 ∨ key ≠ partKey s.team.launch level (if level = 1 then clusterOf (slotOf s.cur) else dieOf (slotOf s.cur)) →
      fget {} t.parts key = fget {} s.parts key

/-- Crew and team differ, nothing else. -/
def teamFrame (s t : State) : Prop :=
  t = { s with crews := t.crews, teams := t.teams, fresh := s.fresh + 1 } ∧ (∀ k, k ≠ s.cur → t.crewAt k = s.crewAt k) ∧
    ∀ k, k ≠ slotOf s.cur → t.teamAt k = s.teamAt k

/-- No other crew waits on granules. -/
def noGranuleWait (s : State) : Prop := ∀ e ∈ s.crews, e.1 ≠ s.cur → ∀ g, e.2.block ≠ some (.granules g)

/-- R42: the phase that an arrival by a party opens or joins. -/
def arrivedPhases (ps : List Phase) (id scope inst party : Nat) : List Phase :=
  if ∃ p ∈ ps, p.id = id ∧ p.scope = scope ∧ p.inst = inst then
    ps.map fun p => if p.id = id ∧ p.scope = scope ∧ p.inst = inst then { p with arrived := p.arrived ++ [party] } else p
  else ps ++ [{ id := id, scope := scope, inst := inst, arrived := [party] }]

/-- The window of an event vector (R31). -/
def window (v : BitVec 256) (w : Nat) : DWord := v.extractLsb' (64 * w) 64

/-- The condition of an EVWAIT (R253). -/
def eventMet (v : BitVec 256) (w : Nat) (m : DWord) (any : Bool) : Prop :=
  if any = true then window v w &&& m ≠ 0 else window v w &&& m = m

/-- R32, R254, R360: one change of the event vector of context ctx to v: the launches whose condition it meets become eligible, the
crews whose EVWAIT it meets go on, and a function whose mask names a bit that rose has its vector 0 raised. -/
def vectorChanged (s t : State) (ctx : Nat) (v : BitVec 256) : Prop :=
  t.vector ctx = v ∧ (∀ c, c ≠ ctx → t.vector c = s.vector c) ∧ t.mem = s.mem ∧ t.teams = s.teams ∧ t.clusters = s.clusters ∧
    (∀ k, t.launchAt k = if (s.launchAt k).ctx = ctx ∧ (s.launchAt k).read = true ∧ (s.launchAt k).ended = false ∧
        v &&& (s.launchAt k).waitMask = (s.launchAt k).waitMask ∧ (lookup s.launches k).isSome = true then
      { s.launchAt k with eligible := true } else s.launchAt k) ∧
    (∀ k, k ≠ s.cur → ((∃ w m any, (s.crewAt k).block = some (.evwait w m any) ∧ (s.teamAt (slotOf k)).ctx = ctx ∧ eventMet v w m any) ∧
        released (s.crewAt k) (t.crewAt k) 2 ∨
      (∀ w m any, (s.crewAt k).block = some (.evwait w m any) → ¬ ((s.teamAt (slotOf k)).ctx = ctx ∧ eventMet v w m any)) ∧
        t.crewAt k = s.crewAt k)) ∧
    ∀ fn, fn < 2 → (8 * fn ∈ t.msix ↔ 8 * fn ∈ s.msix ∨ (s.reg fn 0x2000).toNat = ctx ∧
      ∃ w, w < 4 ∧ window (v &&& ~~~s.vector ctx) w &&& s.reg fn (0x2030 + 8 * w) ≠ 0)

end Sys2Proof.Claims

/-- R56, R58 to R60, R240, R241: LDS and STS whose granules can all be served; a qualifier whose condition holds in none of them
waits; a served granule ends the wait when it is the last. An access is performed at issue, once no access before it must be
performed first: the model's choice (log entry 5). -/
def Obligations.Scratchpad : Prop :=
  (∀ (s : State) (d : BitVec 7) (a b : BitVec 8) (strm fmt : BitVec 4) (level fe : BitVec 2) (imm : BitVec 11) (n : Nat),
    elementSize fmt = some n → level ≠ 3 → fe ≠ 3 → s.offsetOk a = true → s.crew.reissue = false → s.active ≠ [] →
    let p := s.partAt (slotOf s.cur) level.toNat
    let off (l : Nat) : Int := ((s.lane a l).toNat : Int) + imm.toInt
    (∀ l ∈ s.active, 0 ≤ off l ∧ off l % n = 0 ∧ off l + n ≤ p.size) →
    let at_ (l i : Nat) : Nat := (off l).toNat + i
    let x (load : Bool) : Acc := { seq := s.fresh + 1, rd := load, wr := !load, strm := strm.toNat, acq := load && fe != 0, rel := !load && fe != 0
                                   scope := level.toNat + 1 }
    (s.dstOk (fmt == 0) d = true → mayRun s [a] → accessFree s (x true) → (∀ l ∈ s.active, p.poisoned (off l).toNat n = false) →
      (fe = 0 ∨ (∀ l ∈ s.active, p.isEmpty ((off l).toNat / 16) = false) ∧ noGranuleWait s → ∃ t,
        exec (.lds d a strm fmt level fe imm) s = .next t ∧ partFrame s t level.toNat ∧ moved s t (readsLatch [a]) 2 ∧
        lanesKept s.crew t.crew ∧ uniformKept s.crew t.crew ∧
        (∀ x, fget 0 (t.partAt (slotOf s.cur) level.toNat).bytes x = fget 0 p.bytes x) ∧
        (∀ g, (t.partAt (slotOf s.cur) level.toNat).isEmpty g =
          (if fe = 2 ∧ ∃ l ∈ s.active, (off l).toNat / 16 = g then true else p.isEmpty g)) ∧
        let v (l : Nat) : Res := loadRow fmt (littleEndian n fun i => fget 0 p.bytes (at_ l i))
        t.crew.fpsr = s.crew.fpsr ||| BitVec.ofNat 64 (orFlags s.active fun l => (v l).fl) ∧
        rest t.crew = { rest s.crew with
          loads := s.crew.loads ++ [{ reg := vIndex s.crew d.toNat, pair := fmt == 0,
                                      data := s.active.map fun l => (l, BitVec.ofNat 64 (v l).code) }] }) ∧
      (fe ≠ 0 → (∀ l ∈ s.active, p.isEmpty ((off l).toNat / 16) = true) → ∃ t g,
        exec (.lds d a strm fmt level fe imm) s = .next t ∧ waits s t (.granules g) ∧ g.wait ≠ [])) ∧
    (s.srcOk (fmt == 0) b = true → mayRun s [a, b] → accessFree s (x false) →
      (fe = 2 → (∀ l ∈ s.active, p.isEmpty ((off l).toNat / 16) = true) ∧ noGranuleWait s) →
      let v (l : Nat) : Res := storeRow fmt s.crew.mode (s.laneW (fmt == 0) b l).toNat
      ∃ t, exec (.sts a b strm fmt level fe imm) s = .next t ∧ partFrame s t level.toNat ∧ moved s t (readsLatch [a, b]) 2 ∧
        crewKeeps s.crew t.crew ∧ lanesKept s.crew t.crew ∧ uniformKept s.crew t.crew ∧
        t.crew.fpsr = s.crew.fpsr ||| BitVec.ofNat 64 (orFlags s.active fun l => (v l).fl) ∧
        (∀ x, fget 0 (t.partAt (slotOf s.cur) level.toNat).bytes x =
          storeLoop n at_ (fun l => (v l).code) s.active (fget 0 p.bytes) x) ∧
        ∀ g, (t.partAt (slotOf s.cur) level.toNat).isEmpty g =
          (if fe ≠ 0 ∧ ∃ l ∈ s.active, (off l).toNat / 16 = g then false else p.isEmpty g))) ∧
  ∀ (s : State) (k gr : Nat) (g : GranWait), (s.crewAt k).block = some (.granules g) → gr ∈ g.wait → s.mayServe k g gr = true →
    (g.load = true → (s.partAt (slotOf k) g.level).poisoned (16 * gr) 16 = false) →
    ∃ t, exec (.granuleService k gr) s = .next t ∧ (∀ j, j ≠ k → t.crewAt j = s.crewAt j) ∧ t.mem = s.mem ∧
      (g.wait = [gr] → released (s.crewAt k) (t.crewAt k) 2) ∧
      (g.wait ≠ [gr] → ∃ g', (t.crewAt k).block = some (.granules g') ∧ g'.wait = g.wait.erase gr ∧ (t.crewAt k).pc = (s.crewAt k).pc)

/-- R255 to R260: KVMAP gives each lane the row of its position or zero, at issue, since its traps are precise; KVAPP is issued with the
rows of each lane that is not skipped. -/
def Sys2Proof.Claims.kvIssue : Prop :=
  ∀ (s : State) (d : BitVec 7) (a b c : BitVec 8) (strm : BitVec 4) (scope : BitVec 3) (ord : BitVec 2) (sel : BitVec 1) (kd : KvDesc),
    isUniform b = true → isUniform c = true → scope ≠ 7 → mayRun s [a, b, c] → s.active ≠ [] →
    (issued s).kvDesc (s.uni b).toNat (s.uni c).toNat = .ok kd →
    let layer := (s.uni c).toNat
    let bt := 2 ^ kd.bLog
    let slot (p : Nat) : Nat := if p < kd.s then p else kd.s + (p - kd.s) % kd.w
    let gen (p : Nat) : Nat := if p < kd.s then 0 else (p - kd.s) / kd.w
    (∀ (vl : Nat) (record page : Nat → Nat), s.dPair d = true → s.laneOk a = true → ord.toNat ≤ 1 →
      streamFree s strm → noneLate s → (issued s).kvRead { r := true } (kd.vl + 8 * layer) 8 = .ok vl →
      let pos (l : Nat) : Nat := (s.lane a l).toNat
      let inWindow (p : Nat) : Prop := p < vl ∧ (p < kd.s ∨ max kd.s (vl - kd.w) ≤ p)
      let valid (p : Nat) : Prop := inWindow p ∧ (p < kd.s ∨
        (gen p = record (slot p / bt) % 2 ^ 32 ∧ slot p % bt < record (slot p / bt) / 2 ^ 32 % 2 ^ 16) ∨
        (gen p + 1 = record (slot p / bt) % 2 ^ 32 ∧ record (slot p / bt) / 2 ^ 32 % 2 ^ 16 ≤ slot p % bt))
      (∀ l ∈ s.active, inWindow (pos l) → kd.s ≤ pos l →
        (issued s).kvRead { r := true } (kd.pr + 8 * (slot (pos l) / bt)) 8 = .ok (record (slot (pos l) / bt))) →
      (∀ l ∈ s.active, valid (pos l) → page (slot (pos l) / bt) ≠ 0 ∧
        (issued s).kvRead { r := true } (kd.bt + 8 * (slot (pos l) / bt)) 8 = .ok (page (slot (pos l) / bt))) →
      ∃ t, ∃ f : Nat → DWord, exec (.kvmap d a b c strm scope ord sel) s = .next t ∧ issueFrame s t ∧ crewKeeps s.crew t.crew ∧
        moved s t (readsLatch [a, b, c]) 2 ∧ latchesKept s.crew t.crew ∧ t.crew.sr = s.crew.sr ∧ t.crew.fpsr = s.crew.fpsr ∧
        laneWritten s true false d.toNat f t.crew ∧
        ∀ l ∈ s.active,
          let o := slot (pos l) % bt
          let base := page (slot (pos l) / bt) + layer * (2 * bt * kd.rowb)
          let addr := if sel = 0 then base + o * kd.rowb
            else if kd.mode = 0 then base + bt * kd.rowb + o * kd.rowb
            else base + bt * kd.rowb + (o / 16 * (kd.rowb / kd.es) * 16 + o % 16) * kd.es
          (valid (pos l) → f l = BitVec.ofNat 64 (addr % 2 ^ 64 ||| 1)) ∧ (¬ valid (pos l) → f l = 0)) ∧
    (isV a = true → s.pairOk a = true → s.vOk (a.toNat + 1) = true → ord = 0 ∨ ord = 2 →
      streamFree s strm → noneLate s →
      let pos (l : Nat) : Nat := (s.crew.getV a.toNat l).toNat
      let src (l : Nat) : Nat := (s.crew.getV (a.toNat + 1) l).toNat
      let lane (l : Nat) : List KvFail × Option KvPlan := (issued s).kvAppLane kd layer l (pos l) (src l)
      (∀ l ∈ s.active, (lane l).1 = [] ∧ ∀ x, (lane l).2 = some x → ∀ p ∈ x.pieces, pteCow p.page.pte = false) →
      (∃ t, exec (.kvapp a b c strm scope ord) s = .next t ∧ issueFrame s t ∧ lanesKept s.crew t.crew ∧
        uniformKept s.crew t.crew ∧ t.crew.fpsr = s.crew.fpsr ∧ moved s t (readsLatch [a, b, c]) 2 ∧
        let step (x : KvPlan) : Pend := .acc { accessOf s true true strm scope ord with lane := x.lane, op := .kv kd x }
        rest t.crew = { rest s.crew with pend := s.crew.pend ++ (s.active.filterMap fun l => (lane l).2).map step }) ∧
      ∀ l ∈ s.active, ∀ x, (lane l).2 = some x → x.lane = l ∧ ∀ i, i < kd.rowb →
        x.kBytes.getD i 0 = fget 0 s.team.part.bytes (src l + i) ∧ x.vBytes.getD i 0 = fget 0 s.team.part.bytes (src l + kd.rowb + i))

/-- R255 to R260, R311: a lane of KVAPP copies its rows, advances its page record and the valid length in one step, is skipped where its
slot holds a later generation by then, and writes nowhere else. -/
def Sys2Proof.Claims.kvPerformed : Prop :=
  ∀ (s0 s : State) (k j addr layer l p src : Nat) (a : Acc) (kd : KvDesc) (x : KvPlan), s0.kvDesc addr layer = .ok kd →
    s0.kvAppLane kd layer l p src = ([], some x) → (s.crewAt k).pass j = some (a, (s.crewAt k).pend.take j) → noneLate s →
    a.send = none → a.op = .kv kd x → (∀ q ∈ x.pieces, q.page.pa + q.n ≤ memTop) →
    ((List.range 8).map (physAt x.entry) ++ (List.range 8).map (physAt x.len) ++ (List.range kd.rowb).map (physAt x.k) ++
      (List.range (if kd.mode = 0 then kd.rowb else 16 * kd.rowb)).map (physAt x.v)).Nodup →
    let slot := if p < kd.s then p else kd.s + (p - kd.s) % kd.w
    let gen := if p < kd.s then 0 else (p - kd.s) / kd.w
    let o := slot % 2 ^ kd.bLog
    let old := littleEndian 8 fun i => s.byte (physAt x.entry i)
    let g := old % 2 ^ 32
    let f := old / 2 ^ 32 % 2 ^ 16
    let skipped : Prop := kd.s ≤ p ∧ gen < g
    ∃ t, s.perform1Acc k j = .next t ∧
      t = { s with crews := t.crews, clusters := t.clusters, mem := t.mem, poison := t.poison } ∧ (∀ i, i ≠ k → t.crewAt i = s.crewAt i) ∧
      t.crewAt k = { s.crewAt k with pend := standing ((s.crewAt k).pend.erase (.acc a)) } ∧
      (∀ y, skipped ∨ (∀ q ∈ x.pieces, y < q.page.pa ∨ q.page.pa + q.n ≤ y) → t.byte y = s.byte y) ∧
      (¬ skipped →
        let new := littleEndian 8 fun i => t.byte (physAt x.entry i)
        (∀ i, i < kd.rowb → t.byte (physAt x.k i) = x.kBytes.getD i 0) ∧
        (∀ i, i < kd.rowb → t.byte (physAt x.v (if kd.mode = 0 then i else (i / kd.es * 16 + o % 16) * kd.es + i % kd.es)) = x.vBytes.getD i 0) ∧
        (littleEndian 8 fun i => t.byte (physAt x.len i)) = p + 1 ∧ new / 2 ^ 48 = old / 2 ^ 48 ∧
        if p < kd.s ∨ gen = g then new % 2 ^ 32 = g ∧ new / 2 ^ 32 % 2 ^ 16 = max f (o + 1)
        else new % 2 ^ 32 = gen ∧ new / 2 ^ 32 % 2 ^ 16 = o + 1)

/-- R255 to R260, R311: the key-value cache instructions. That KVMAP reads at issue is the model's choice (log entry 5), and which checks a
skipped lane has its reading (log entry 80). -/
def Obligations.KvCache : Prop := Claims.kvIssue ∧ Claims.kvPerformed

/-- R207, R208: RVSEND, RVRECV and XCHGX wait; a match moves the sender's registers into the receiver's, with C where nothing was
sent or the sending lane is not live; a pair exchanges whole registers, both reading before either writes. -/
def Obligations.Rendezvous : Prop :=
  (∀ (s : State) (d : BitVec 7) (a c : BitVec 8) (n1 : BitVec 3) (n2 : BitVec 2) (slot : BitVec 4) (ch : BitVec 8),
    s.crew.run = none →
    (isV a = true → s.vBlockOk a.toNat (n1.toNat + 1) = true → mayRun s [a] → mayIssue s 2 1 → ∃ t, exec (.rvsend a n1 slot) s = .next t ∧
      waits s t (.rvsend slot.toNat a.toNat (n1.toNat + 1))) ∧
    (d.toNat < 0x60 → s.vBlockOk d.toNat (n1.toNat + 1) = true → s.laneOk c = true → mayRun s [c] → ∃ t,
      exec (.rvrecv d c n1 slot) s = .next t ∧ waits s t (.rvrecv slot.toNat d.toNat (n1.toNat + 1) c.toNat)) ∧
    (isV a = true → d.toNat < 0x60 → s.vBlockOk a.toNat (n2.toNat + 1) = true → s.vBlockOk d.toNat (n2.toNat + 1) = true → mayRun s [a] →
      mayIssue s 2 4 → ∃ t, exec (.xchgx d a n2 ch) s = .next t ∧ waits s t (.xchgx ch.toNat d.toNat a.toNat (n2.toNat + 1)))) ∧
  (∀ (s : State) (team slot ks kr a n d m c : Nat) (cs cr : Crew), lookup s.crews ks = some cs → lookup s.crews kr = some cr →
    cs.bound = true → cs.halted = false → cr.bound = true → cr.halted = false → slotOf ks = team → slotOf kr = team →
    cs.block = some (.rvsend slot a n) → cr.block = some (.rvrecv slot d m c) → d + m ≤ 96 →
    (∀ e ∈ s.crews, e.1 ≠ ks → slotOf e.1 = team → (∃ a n, e.2.block = some (.rvsend slot a n)) → cs.order < (s.crewAt e.1).order) →
    (∀ e ∈ s.crews, e.1 ≠ kr → slotOf e.1 = team → (∃ d m c, e.2.block = some (.rvrecv slot d m c)) →
      cr.order < (s.crewAt e.1).order) →
    ∃ t, exec (.rendezvousMatch team slot) s = .next t ∧ released cs (t.crewAt ks) 2 ∧ released cr (t.crewAt kr) 2 ∧
      (t.crewAt ks).v = cs.v ∧ t.mem = s.mem ∧ t.teams = s.teams ∧ (∀ k, k ≠ ks → k ≠ kr → t.crewAt k = s.crewAt k) ∧
      ∀ r l, r < 96 → l < 32 → (t.crewAt kr).getV r l =
        if d ≤ r ∧ r < d + m ∧ l ∈ (s.at_ kr).active then
          (if r - d < n ∧ (s.at_ ks).liveMask.getLsbD l = true then cs.getV (a + (r - d)) l else (s.at_ kr).lane (BitVec.ofNat 8 c) l)
        else cr.getV r l) ∧
  ∀ (s : State) (launch ch k1 k2 d1 a1 n1 d2 a2 n2 : Nat) (c1 c2 : Crew), k1 ≠ k2 → lookup s.crews k1 = some c1 →
    lookup s.crews k2 = some c2 → c1.bound = true → c1.halted = false → c2.bound = true → c2.halted = false →
    (s.teamAt (slotOf k1)).launch = launch → (s.teamAt (slotOf k2)).launch = launch →
    c1.block = some (.xchgx ch d1 a1 n1) → c2.block = some (.xchgx ch d2 a2 n2) → d1 + n1 ≤ 96 → d2 + n2 ≤ 96 →
    (∀ e ∈ s.crews, e.1 ≠ k1 → (s.teamAt (slotOf e.1)).launch = launch → (∃ d a n, e.2.block = some (.xchgx ch d a n)) →
      c1.order < (s.crewAt e.1).order ∧ (e.1 ≠ k2 → c2.order < (s.crewAt e.1).order)) →
    ∃ t, exec (.xchgxPair launch ch) s = .next t ∧ released c1 (t.crewAt k1) 2 ∧ released c2 (t.crewAt k2) 2 ∧ t.mem = s.mem ∧
      t.teams = s.teams ∧ (∀ k, k ≠ k1 → k ≠ k2 → t.crewAt k = s.crewAt k) ∧
      ∀ r l, r < 96 → l < 32 →
        (t.crewAt k1).getV r l = (if d1 ≤ r ∧ r < d1 + min n1 n2 ∧ l ∈ (s.at_ k1).active ∧ l ∈ (s.at_ k2).active then
          c2.getV (a2 + (r - d1)) l else c1.getV r l) ∧
        (t.crewAt k2).getV r l = (if d2 ≤ r ∧ r < d2 + min n1 n2 ∧ l ∈ (s.at_ k1).active ∧ l ∈ (s.at_ k2).active then
          c1.getV (a1 + (r - d2)) l else c2.getV r l)

/-- R42, R43, R249, R250: BARARV arrives and goes on, BAR arrives and waits, BARWT waits for an outstanding arrival, the cases of
R250 trap, and a complete phase releases its crews. A party's number in a phase is the model's (log entry 59). -/
def Obligations.Barriers : Prop :=
  (∀ (s : State) (scope : BitVec 3) (ord : BitVec 2) (id : BitVec 4), scope = 1 ∨ scope = 3 ∨ scope = 4 → s.crew.run = none →
    s.crew.reissue = false →
    let l := s.launchAt s.team.launch
    let inst := if scope = 1 then s.team.teamid else if scope = 3 then slotOf s.cur / 192 else 0
    let party := s.team.teamid * 16 + s.cur % 16
    let instAt (sc : Nat) : Nat := if sc = 1 then s.team.teamid else if sc = 3 then slotOf s.cur / 192 else 0
    let bad : Prop := s.crew.arrivals.getLsbD id.toNat = true ∨
      (∃ p ∈ l.phases, p.id = id.toNat ∧ p.scope ≠ scope.toNat ∧ p.inst = instAt p.scope) ∨ scope ≠ 1 ∧ s.team.coresident = false
    (bad → ∀ i ∈ [Instr.bar scope ord id, .bararv scope ord id], ∃ t, exec i s = .next t ∧
      trapped s t 0x0A s.actMask (BitVec.ofNat 64 id.toNat) 0 s.crew.pc s.crew.pc 0) ∧
    (¬ bad → mayIssue s (ord ||| 2) scope →
      let arrives (t : State) : Prop := t.launchAt s.team.launch =
          { l with phases := arrivedPhases l.phases id.toNat scope.toNat inst party } ∧
        (∀ k, k ≠ s.team.launch → t.launchAt k = s.launchAt k) ∧ t.crew.arrivals = s.crew.arrivals ||| BitVec.ofNat 16 (2 ^ id.toNat)
      (∃ t, exec (.bararv scope ord id) s = .next t ∧ arrives t ∧ quiet s { t with launches := s.launches } ∧ moved s t false 2 ∧
        rest t.crew = { rest s.crew with arrivals := t.crew.arrivals }) ∧
      ∃ t, exec (.bar scope ord id) s = .next t ∧ arrives t ∧ t.crew.block = some (.barrier id.toNat) ∧ t.crew.pc = s.crew.pc ∧
        t.crew.v = s.crew.v ∧ t.crew.sr = s.crew.sr ∧ t.mem = s.mem ∧ t.teams = s.teams) ∧
    (s.crew.arrivals.getLsbD id.toNat = false → ∃ t, exec (.barwt scope ord id) s = .next t ∧ quiet s t ∧ crewKeeps s.crew t.crew ∧
      uniformKept s.crew t.crew ∧ moved s t false 2) ∧
    (s.crew.arrivals.getLsbD id.toNat = true → ∃ t, exec (.barwt scope ord id) s = .next t ∧ waits s t (.barrier id.toNat))) ∧
  ∀ (s : State) (launch i : Nat) (p : Phase), (s.launchAt launch).phases[i]? = some p → s.phaseDone launch p = true →
    ∃ t, exec (.barrierRelease launch i) s = .next t ∧ t.mem = s.mem ∧ t.teams = s.teams ∧ t.cur = s.cur ∧
      t.launchAt launch = { s.launchAt launch with phases := (s.launchAt launch).phases.eraseIdx i } ∧
      ∀ k,
        let mine : Prop := (∃ slot ∈ s.slotsOf launch, ∃ c, c < (s.teamAt slot).ncrew ∧ k = 16 * slot + c) ∧ s.party k ∈ p.arrived
        (¬ mine → t.crewAt k = s.crewAt k) ∧
        (mine → (t.crewAt k).arrivals = (s.crewAt k).arrivals &&& ~~~BitVec.ofNat 16 (2 ^ p.id) ∧
          ((s.crewAt k).block = some (.barrier p.id) → released (s.crewAt k) (t.crewAt k) 2) ∧
          ((s.crewAt k).block ≠ some (.barrier p.id) → (t.crewAt k).block = (s.crewAt k).block))

/-- R45, R251, R252: QPUSH writes the handle at the tail or waits for room, QPOP returns the 8 bytes at the head or waits for an
entry, and a blocked one is served when its condition holds. -/
def Obligations.HandleQueues : Prop :=
  ∀ (s : State) (k q hw : Nat) (h : HwQueue), s.hwOf (slotOf k) q = some (hw, h) →
    let tail := h.offset + 8 * ((h.head + h.count) % h.cap)
    let part := s.partAt (slotOf k) h.level
    let pushed (t : State) (v : DWord) : Prop := t.hwOf (slotOf k) q = some (hw, { h with count := h.count + 1 }) ∧ t.mem = s.mem ∧
      (∀ x, fget 0 (t.partAt (slotOf k) h.level).bytes x = stored 8 (fun i => tail + i) v.toNat (fget 0 part.bytes) x) ∧
      ∀ j, j ≠ k → t.crewAt j = s.crewAt j
    let value : DWord := BitVec.ofNat 64 (littleEndian 8 fun i => fget 0 part.bytes (h.offset + 8 * h.head + i))
    let popped (t : State) : Prop :=
      t.hwOf (slotOf k) q = some (hw, { h with head := (h.head + 1) % h.cap, count := h.count - 1 }) ∧ t.mem = s.mem ∧
      (t.partAt (slotOf k) h.level).bytes = part.bytes ∧ ∀ j, j ≠ k → t.crewAt j = s.crewAt j
    let entry (push : Bool) : Acc := { seq := s.fresh + 1, rd := !push, wr := push, strm := s.crew.strmdef.toNat % 16 }
    (k = s.cur → q < 32 → s.crew.run = none →
      (∀ (a : BitVec 8), isUniform a = true → mayRun s [a] → mayIssue s 2 (BitVec.ofNat 3 (h.level + 1)) → accessFree s (entry true) →
        (h.count < h.cap → (∀ j u v, j ≠ k → (s.crewAt j).block ≠ some (.qpush u v)) → ∃ t,
          exec (.qpush a (BitVec.ofNat 8 q)) s = .next t ∧ pushed t (s.uni a) ∧ moved s t (readsLatch [a]) 1 ∧ crewIs s.crew t.crew) ∧
        (h.cap ≤ h.count → ∃ t, exec (.qpush a (BitVec.ofNat 8 q)) s = .next t ∧ waits s t (.qpush q (s.uni a)))) ∧
      ∀ (d : BitVec 7), dS d = true → accessFree s (entry false) →
        (0 < h.count → (∀ j u v, j ≠ k → (s.crewAt j).block ≠ some (.qpop u v)) → ∃ t,
          exec (.qpop d (BitVec.ofNat 8 q)) s = .next t ∧ popped t ∧ moved s t false 1 ∧
          crewIs { s.crew with sr := fset 0 s.crew.sr (sIndex s.crew (sNum d)) value } t.crew) ∧
        (h.count = 0 → ∃ t, exec (.qpop d (BitVec.ofNat 8 q)) s = .next t ∧ waits s t (.qpop q (sNum d)))) ∧
    (∀ v, (s.crewAt k).block = some (.qpush q v) → h.count < h.cap → s.firstInQueue k hw true = true → ∃ t,
      exec (.queueService k) s = .next t ∧ pushed t v ∧ released (s.crewAt k) (t.crewAt k) 1) ∧
    ∀ d, (s.crewAt k).block = some (.qpop q d) → 0 < h.count → s.firstInQueue k hw false = true → ∃ t,
      exec (.queueService k) s = .next t ∧ popped t ∧ released (s.crewAt k) (t.crewAt k) 1 ∧ (t.crewAt k).getS d = value

/-- R31, R32, R217, R253, R254: EVSET, EVCLR and MTS of a window are one change of the context's vector each; EVWAIT goes on or
waits. The crews' places in the list of crews are in order (StepKeepsOrder). -/
def Obligations.EventVector : Prop :=
  ∀ (s : State) (a : BitVec 8) (d : BitVec 7) (scope : BitVec 3) (ord : BitVec 2) (any : BitVec 1) (win : BitVec 2) (imm : BitVec 16),
    rising none s.crews = true → s.crew.block = none →
    let ctx := s.team.ctx
    let own (t : State) (srcs : List (BitVec 8)) (n : Nat) : Prop := crewIs s.crew t.crew ∧ moved s t (readsLatch srcs) n
    (isUniform a = true → scope ≠ 7 → mayRun s [a] →
      (mayIssue s ord scope →
        (∃ t, exec (.evset a scope ord win) s = .next t ∧ own t [a] 2 ∧
          vectorChanged s t ctx (s.vector ctx ||| (s.uni a).setWidth 256 <<< (64 * win.toNat))) ∧
        ∃ t, exec (.evclr a scope ord win) s = .next t ∧ own t [a] 2 ∧
          vectorChanged s t ctx (s.vector ctx &&& ~~~((s.uni a).setWidth 256 <<< (64 * win.toNat)))) ∧
      (s.uni a = 0 ∨ eventMet (s.vector ctx) win.toNat (s.uni a) (any == 1) → ∃ t, exec (.evwait a scope ord any win) s = .next t ∧
        quiet s t ∧ crewKeeps s.crew t.crew ∧ uniformKept s.crew t.crew ∧ moved s t (readsLatch [a]) 2) ∧
      (s.uni a ≠ 0 → ¬ eventMet (s.vector ctx) win.toNat (s.uni a) (any == 1) → ∃ t, exec (.evwait a scope ord any win) s = .next t ∧
        waits s t (.evwait win.toNat (s.uni a) (any == 1)))) ∧
    (dS d = true → ∀ w, w < 4 → imm.toNat = 0x1A + w → ∃ t, ∃ v, exec (.mts d imm) s = .next t ∧ own t [] 1 ∧
      vectorChanged s t ctx v ∧
      ∀ u, u < 4 → window v u = if u = w then s.crew.getS (sNum d) else window (s.vector ctx) u)

/-- R246 to R248, R263, R269: a fence stands behind the accesses issued so far and blocks nothing; a QFENCE of no queue, the
accumulator tokens, and the batches. -/
def Obligations.FencesAndTokens : Prop :=
  ∀ (s : State) (a b n : BitVec 8) (d : BitVec 7) (strm : BitVec 4) (scope : BitVec 3) (ord : BitVec 2), s.crew.run = none → scope ≠ 7 →
    let fenced (strms : BitVec 16) : List Pend := standing (s.crew.pend ++ [.fence strms ord.toNat scope.toNat])
    (∃ t, exec (.fence strm scope ord) s = .next t ∧ onlyCrew s t ∧ moved s t false 2 ∧
      crewIs { s.crew with pend := fenced (BitVec.ofNat 16 (2 ^ strm.toNat)) } t.crew) ∧
    (isUniform a = true → mayRun s [a] →
      ((s.uni a).toNat < 65536 → ∃ t, exec (.sfence a scope ord) s = .next t ∧ onlyCrew s t ∧ moved s t (readsLatch [a]) 2 ∧
        crewIs { s.crew with pend := if s.uni a = 0 then s.crew.pend else fenced ((s.uni a).setWidth 16) } t.crew) ∧
      (65536 ≤ (s.uni a).toNat → ∃ t, exec (.sfence a scope ord) s = .next t ∧
        trapped s t 2 s.actMask 0 0 s.crew.pc (resumeAt s (readsLatch [a])) 0)) ∧
    (dS d = true → ∃ t, exec (.qfence d scope ord 0) s = .next t ∧ onlyCrew s t ∧ moved s t false 2 ∧
      crewIs { s.crew with sr := fset 0 s.crew.sr (sIndex s.crew (sNum d)) (BitVec.ofNat 64 (2 ^ 56)) } t.crew) ∧
    (b.toNat < s.team.nacc →
      (mayIssue s 2 1 → ∃ t, exec (.reltok b) s = .next t ∧ teamFrame s t ∧ crewIs s.crew t.crew ∧ moved s t false 1 ∧
        t.team = { s.team with tokhold := s.team.tokhold ||| BitVec.ofNat 8 (2 ^ b.toNat) }) ∧
      (s.team.tokhold.getLsbD b.toNat = false ∨ s.team.accNamed b.toNat s.team.issues = false → ∃ t, exec (.acqtok b) s = .next t ∧
        teamFrame s t ∧ crewIs s.crew t.crew ∧ moved s t false 1 ∧
        t.team = { s.team with tokhold := s.team.tokhold &&& ~~~BitVec.ofNat 8 (2 ^ b.toNat) }) ∧
      (s.team.tokhold.getLsbD b.toNat = true → s.team.accNamed b.toNat s.team.issues = true → ∃ t, exec (.acqtok b) s = .next t ∧
        waits s t (.acqtok b.toNat s.team.issues))) ∧
    (s.team.outstanding.length < 64 →
      let closed : Team := if s.team.batchCmds = 0 then s.team
        else { s.team with batch := s.team.batch + 1, batchCmds := 0
                           outstanding := (s.team.outstanding ++ [s.team.batch]).filter fun x => s.team.cmds.any fun c => c.batch == x }
      (∃ t, exec .bclose s = .next t ∧ teamFrame s t ∧ crewIs s.crew t.crew ∧ moved s t false 2 ∧ t.team = closed) ∧
      (ord.toNat ≤ 1 → s.crew.reissue = false →
        (closed.outstanding.length ≤ n.toNat → ∃ t, exec (.bwait scope ord n) s = .next t ∧ teamFrame s t ∧ crewIs s.crew t.crew ∧
          moved s t false 2 ∧ t.team = closed) ∧
        (n.toNat < closed.outstanding.length → ∃ t, exec (.bwait scope ord n) s = .next t ∧ teamFrame s t ∧ t.team = closed ∧
          t.crew.block = some (.bwait n.toNat) ∧ t.crew.pc = s.crew.pc ∧ t.crew.v = s.crew.v ∧ t.crew.sr = s.crew.sr)))

/-! Engine queues, the matrix unit, token trees and conversations. -/

namespace Sys2Proof.Claims

/-- The commands of one queue: the instruction, its sources, what its operands must be, and the registers and tile control values
that it captures at issue (R264). -/
def commandForms (s : State) (d : BitVec 7) (a b c : BitVec 8) (strm fmt : BitVec 4) (scope : BitVec 3) (ord : BitVec 2) (q dr dc : BitVec 3)
    (sloc dloc : BitVec 2) (slot : BitVec 4) : List (Instr × List (BitVec 8) × Prop × List DWord × List DWord) :=
  let u (x : BitVec 8) : Prop := isUniform x = true
  let origin (x : BitVec 8) : List DWord :=
    ((List.range 3).filter fun i => decide (x.toNat + i < 0x80)).map fun i => s.crew.getS (x.toNat - 0x60 + i)
  let pack (x y : DWord) : DWord := BitVec.ofNat 64 (x.toNat % 1024 + y.toNat % 1024 * 2 ^ 32)
  let tc (n : BitVec 8) : DWord := fget 0 s.team.tc n.toNat
  let merge : Prop := u c ∧ a.toNat < s.team.nacc ∧ b.toNat < s.team.ntile ∧ (tc b).toNat % 16 = 1 ∧ (tc b).toNat / 2 ^ 16 % 16 = 0 ∧
    s.team.tokhold.getLsbD a.toNat = true
  [(.tld d a b c strm scope ord q dr dc, [a, c], isS a = true ∧ u c ∧ b.toNat < s.team.ntile, s.uni c :: origin a, [tc b]),
   (.tst d a b c strm scope ord q dr dc, [a, c], isS a = true ∧ u c ∧ b.toNat < s.team.ntile, s.uni c :: origin a, [tc b]),
   (.ttask d a strm scope ord q, [a], u a, [s.uni a], []), (.tdesc d a c strm scope ord q, [a, c], u a ∧ u c, [s.uni a, s.uni c], []),
   (.remap d a c strm scope ord q, [a, c], u a ∧ u c ∧
      (let got := (issued s).readEntry { (issued s).engOf (slotOf s.cur) none with got := s.crew.got } ((s.uni c).toNat % 1024)
       (∀ f, got = .error f → f < 4096) ∧ ∀ e, got = .ok e → eRes e ≠ 0), [s.uni a, s.uni c], []),
   (.cpy d a b c strm scope ord q sloc dloc, [a, b, c], u a ∧ u b ∧ u c, [s.uni a, s.uni b, s.uni c], []),
   (.cpyTensor d a b 0x88 strm scope ord q, [a, b, 0x88], u a ∧ u b, [pack (s.uni a) (s.uni b), 0, 0, 0], []),
   (.cpyTensor d a b c strm scope ord q, [a, b, c], u a ∧ u b ∧ isS c = true, pack (s.uni a) (s.uni b) :: origin c, []),
   (.cpyacc d a b c strm fmt scope ord q sloc dloc, [a, b, c], u a ∧ u b ∧ u c ∧ fmt ∈ [0, 1, 2, 3, 13], [s.uni a, s.uni b, s.uni c], []),
   (.cpydd d a b c strm scope ord q sloc, [a, b, c], u a ∧ u b ∧ u c, [s.uni a, s.uni b, s.uni c], []),
   (.gather d a strm scope ord q sloc dloc, [a], isS a = true ∧ a.toNat ≤ 0x7C ∧ dloc ≠ 3 ∧
      (let r := (s.crew.getS (a.toNat - 0x60 + 3)).toNat; 1 ≤ r % 2 ^ 24 ∧ r % 2 ^ 24 ≤ 2 ^ 20 ∧ r / 2 ^ 48 = 0),
      (List.range 4).map fun i => s.crew.getS (a.toNat - 0x60 + i), []),
   (.mcast d a b c strm scope ord q sloc dloc, [a, b, c], u a ∧ u b ∧ u c ∧ dloc ≠ 3, [s.uni a, s.uni b, s.uni c], []),
   (.mcastTensor d a b c strm scope ord q dloc, [a, b, c], u a ∧ u b ∧ u c ∧ dloc ≠ 3, [pack (s.uni a) (s.uni c), s.uni b], []),
   (.crmerge d a b c strm scope ord q slot, [c], merge, [s.uni c], [tc b]), (.crfin d a b c strm scope ord q slot, [c], merge, [s.uni c], [tc b])]

/-- The words of an instruction as a command keeps them. -/
def commandOf (s : State) (i : Instr) (d : BitVec 7) (ops tcs : List DWord) : Cmd :=
  { w := (encode i).headD 0, e := ((encode i).drop 1).headD 0, ops := ops, tcs := tcs, crew := s.cur, d := sIndex s.crew (sNum d)
    batch := s.team.batch, issue := s.team.issues }

/-- The command stands last in the queues named, D waits for its status word, and nothing else changes. -/
def enqueued (s t : State) (qs : List Nat) (c : Cmd) : Prop :=
  teamFrame s t ∧ crewIs { s.crew with pendS := s.crew.pendS ++ [c.d] } t.crew ∧
    t.team = { s.team with queues := t.team.queues, issues := s.team.issues + 1, batchCmds := s.team.batchCmds + 1 } ∧
    ∀ q, t.team.queue q = if q ∈ qs then s.team.queue q ++ [c] else s.team.queue q

/-- The parent of a node, the root its own. -/
def climb (t : Team) : Nat → Nat → Nat
  | 0, r => r
  | n + 1, r => if r = 0 then 0 else climb t n ((fget 0 t.tree r).toNat % 256)

/-- Fields of a node (Table 12.10). -/
def parentOf (n : DWord) : Nat := n.toNat % 256
def depthOf (n : DWord) : Nat := n.toNat / 2 ^ 8 % 256
def tokenOf (n : DWord) : Nat := n.toNat / 2 ^ 16 % 2 ^ 32

end Sys2Proof.Claims

/-- R264, R266: an engine instruction puts its command at the end of its queue with the values captured, a QFENCE puts one into
each queue it names, and a REMAP of lane registers makes its crew wait for the passes. -/
def Obligations.EngineIssue : Prop :=
  ∀ (s : State) (d : BitVec 7) (a b c : BitVec 8) (strm fmt : BitVec 4) (scope : BitVec 3) (ord : BitVec 2) (q dr dc : BitVec 3)
      (sloc dloc : BitVec 2) (slot : BitVec 4) (qmask : BitVec 8), dS d = true → scope ≠ 7 → mayIssue s ord scope →
    s.teamHeld (slotOf s.cur) = false →
    ((s.team.queue q.toNat).length < 32 → ∀ f ∈ commandForms s d a b c strm fmt scope ord q dr dc sloc dloc slot, f.2.2.1 →
      mayRun s f.2.1 → ∃ t, exec f.1 s = .next t ∧ moved s t (readsLatch f.2.1) 2 ∧
        enqueued s t [q.toNat] (commandOf s f.1 d f.2.2.2.1 f.2.2.2.2)) ∧
    (qmask ≠ 0 → (∀ k, k < 8 → (s.team.queue k).length < 32) → ∃ t, exec (.qfence d scope ord qmask) s = .next t ∧ moved s t false 2 ∧
      enqueued s t ((List.range 8).filter fun k => qmask.getLsbD k) (commandOf s (.qfence d scope ord qmask) d [] [])) ∧
    (∀ e r, isUniform a = true → isUniform c = true → mayRun s [a, c] → q = 0 → ord = 0 →
      let x := { (issued s).engOf (slotOf s.cur) none with got := s.crew.got }
      let h := (s.uni c).toNat % 1024
      noneLate s → (issued s).readEntry x h = .ok e → eRes e = 0 → (eSt e = 0 ∨ eTgt e = (s.uni a).toNat) → mayIssue s 2 1 →
      (issued s).crewRemaps x.ctx h = false → (issued s).describing x.ctx h = false →
      (issued s).prepareRemap x s.team.nvreg s.team.ncrew s.width e h (s.uni a).toNat = .ok r →
      ∃ t, exec (.remap d a c strm scope ord q) s = .next t ∧ t.crew.block = some (.remap (sNum d) r) ∧ t.crew.pc = s.crew.pc ∧
        t.crew.v = s.crew.v ∧ t.crew.sr = s.crew.sr ∧ ∀ k, k ≠ s.cur → t.crewAt k = s.crewAt k)

/-- R262, R263, R272 to R277: a matrix operation joins the team's list with its tile control values, or traps where the unit does
not hold its token; TZERO of an accumulator that the crews hold acts at once; ACCRD and ACCWR move a row. The list's length of 32
is the model's choice (log entry 48). -/
def Obligations.MatrixIssue : Prop :=
  ∀ (s : State) (d : BitVec 7) (a b c : BitVec 8) (kind : BitVec 1) (sa sb tm : BitVec 4) (row : BitVec 6), s.crew.run = none →
    let tc (n : Nat) : DWord := fget 0 s.team.tc n
    let held (n : Nat) : Prop := s.team.tokhold.getLsbD n = true
    let listed (i : Instr) (tcs : List DWord) : Prop := ∃ t, exec i s = .next t ∧ teamFrame s t ∧ crewIs s.crew t.crew ∧ moved s t false 2 ∧
      t.team = { s.team with
        issues := s.team.issues + 1
        matrix := s.team.matrix ++ [{ w := (encode i).headD 0, e := ((encode i).drop 1).headD 0, tcs := tcs, issue := s.team.issues, step := 0 }] }
    let noToken (i : Instr) (srcs : List (BitVec 8)) : Prop := ∃ t, exec i s = .next t ∧
      trapped s t 0x09 s.actMask 0 0 s.crew.pc (resumeAt s (readsLatch srcs)) 0
    let forms : List Instr := .mma d a b :: ((if 4 ≤ (tc a.toNat).toNat % 16 ∧ (tc a.toNat).toNat % 16 ≤ 7 ∧
        s.scaleOk sa.toNat (tcCols (tc a.toNat)) (tcRows (tc a.toNat)) ∧ s.scaleOk sb.toNat (tcCols (tc a.toNat)) (tcRows (tc b.toNat))
        then [.mmas d a b sb sa] else []) ++
      (if tm.toNat < s.team.ntile ∧ (tc tm.toNat).toNat % 16 = 15 ∧ tcRows (tc a.toNat) ≤ tcRows (tc tm.toNat) then [.mmam d a b tm] else []))
    (s.mmaOk d a b = true → ∀ i ∈ forms,
      (held d.toNat ∧ ((tc a.toNat).toNat % 16 = 0 → held (d.toNat + 1)) → s.team.matrix.length < 32 →
        listed i [tc a.toNat, tc b.toNat]) ∧
      (¬ (held d.toNat ∧ ((tc a.toNat).toNat % 16 = 0 → held (d.toNat + 1))) → noToken i [])) ∧
    (d.toNat < (if kind = 1 then s.team.nacc else s.team.ntile) →
      (kind = 0 ∨ held d.toNat → s.team.matrix.length < 32 → listed (.tzero d kind) [1]) ∧
      (kind = 1 → ¬ held d.toNat → ∃ t, exec (.tzero d kind) s = .next t ∧ teamFrame s t ∧ crewIs s.crew t.crew ∧ moved s t false 2 ∧
        t.team = { s.team with acc := t.team.acc } ∧
        ∀ n, fget 0 t.team.acc n = if n / 4096 = d.toNat then 0 else fget 0 s.team.acc n)) ∧
    (isUniform a = true → b.toNat < s.team.nacc → (s.uni a).toNat + row.toNat < 64 →
      let q := 64 / s.width
      let word (l k : Nat) : Nat := 4096 * b.toNat + 64 * ((s.uni a).toNat + row.toNat) + q * l + k
      (mayRun s [a] → s.accV d.toNat = true →
        (¬ held b.toNat → ∃ t, exec (.accrd d a b row) s = .next t ∧ onlyCrew s t ∧ moved s t (readsLatch [a]) 2 ∧
          crewIs { s.crew with v := t.crew.v } t.crew ∧
          ∀ r l, r < 96 → l < 32 → t.crew.getV r l =
            if d.toNat ≤ r ∧ r < d.toNat + q ∧ l ∈ s.active then fget 0 s.team.acc (word l (r - d.toNat)) else s.crew.getV r l) ∧
        (held b.toNat → noToken (.accrd d a b row) [a])) ∧
      (mayRun s [a, c] → s.accV c.toNat = true →
        (¬ held b.toNat → ∃ t, exec (.accwr a b c row) s = .next t ∧ teamFrame s t ∧ crewIs s.crew t.crew ∧
          moved s t (readsLatch [a, c]) 2 ∧ t.team = { s.team with acc := t.team.acc } ∧
          (∀ l k, l ∈ s.active → k < q → fget 0 t.team.acc (word l k) = s.crew.getV (c.toNat + k) l) ∧
          ∀ n, (∀ l k, l ∈ s.active → k < q → n ≠ word l k) → fget 0 t.team.acc n = fget 0 s.team.acc n) ∧
        (held b.toNat → noToken (.accwr a b c row) [a, c])))

/-- R307 to R309: the five token-tree instructions. -/
def Obligations.TokenTree : Prop :=
  ∀ (s : State) (d : BitVec 7) (a b c : BitVec 8) (sel : BitVec 1), s.team.ttf = true → s.crew.run = none →
    let node (i : Nat) : DWord := fget 0 s.team.tree i
    let treeOnly (t : State) : Prop := t.team = { s.team with tree := t.team.tree, count := t.team.count, rootpos := t.team.rootpos }
    (isUniform a = true → mayRun s [a] → ∃ t, exec (.ttclr a) s = .next t ∧ teamFrame s t ∧ crewIs s.crew t.crew ∧
      moved s t (readsLatch [a]) 2 ∧ treeOnly t ∧ (∀ i, fget 0 t.team.tree i = 0) ∧ t.team.count = 0 ∧
      t.team.rootpos = (s.uni a).setWidth 32) ∧
    (dS d = true → s.vSrcOk a = true → s.vSrcOk b = true →
      let n := s.active.length
      let parent (m : Nat) : Nat := (s.lane a (s.active.getD m 0)).toNat
      (∀ depth : Nat → Nat, s.team.count + n ≤ 256 → (∀ i, i < s.team.count → depth i = depthOf (node i)) →
        (s.team.count = 0 → depth 0 = 0) →
        (∀ m, m < n → s.team.count + m ≠ 0 → parent m < s.team.count + m ∧ depth (s.team.count + m) = depth (parent m) + 1 ∧
          depth (parent m) < 255) →
        ∃ t, exec (.ttadd d a b) s = .next t ∧ teamFrame s t ∧ moved s t false 2 ∧ treeOnly t ∧ crewKeeps s.crew t.crew ∧
          lanesKept s.crew t.crew ∧ t.team.count = s.team.count + n ∧ t.team.rootpos = s.team.rootpos ∧
          uniformWritten s false (sNum d) (BitVec.ofNat 64 t.team.count) t.crew ∧
          (∀ i, i < s.team.count ∨ s.team.count + n ≤ i → fget 0 t.team.tree i = node i) ∧
          ∀ m, m < n →
            let x := fget 0 t.team.tree (s.team.count + m)
            tokenOf x = (s.lane b (s.active.getD m 0)).toNat ∧ depthOf x = depth (s.team.count + m) ∧
            parentOf x = (if s.team.count + m = 0 then 0 else parent m) ∧ x.getLsbD 48 = true ∧ x.getLsbD 49 = false) ∧
      (256 < s.team.count + n ∨ (∃ m, m < n ∧ s.team.count + m ≠ 0 ∧ s.team.count + m ≤ parent m) → n ≠ 0 → ∃ t,
        exec (.ttadd d a b) s = .next t ∧ trapped s t 0x10 s.actMask 0 0 s.crew.pc s.crew.pc 0)) ∧
    (isUniform a = true → mayRun s [a] → b.toNat < s.team.ntile → tcFmt (fget 0 s.team.tc b.toNat) = 15 →
      s.team.clear s.team.issues { writes := [b.toNat] } = true →
      let r0 := (s.uni a).toNat % 256
      let c0 := (s.uni a).toNat / 256 % 256
      let rows := tcRows (fget 0 s.team.tc b.toNat)
      ∃ t, exec (.ttanc a b) s = .next t ∧ teamFrame s t ∧ crewIs s.crew t.crew ∧ moved s t (readsLatch [a]) 2 ∧
        t.team = { s.team with tiles := t.team.tiles } ∧
        (∀ r j, r < rows → j < 64 →
          ((fget 0 t.team.tiles (16384 * b.toNat + 256 * r + j / 8)).getLsbD (j % 8) = true ↔
            r0 + r < s.team.count ∧ c0 + j < s.team.count ∧ ∃ k, k ≤ 256 ∧ climb s.team k (r0 + r) = c0 + j)) ∧
        ∀ x, (∀ r i, r < rows → i < 8 → x ≠ 16384 * b.toNat + 256 * r + i) → fget 0 t.team.tiles x = fget 0 s.team.tiles x) ∧
    (s.dV d = true → s.vSrcOk a = true → mayRun s [a] → laneDone (exec (.ttpos d a sel) s) s false false d [a] 2 0 fun l =>
      let i := (s.lane a l).toNat
      if s.team.count ≤ i then 0xFFFFFFFF
      else if sel = 0 then (s.team.rootpos + BitVec.ofNat 32 (depthOf (node i))).setWidth 64 else BitVec.ofNat 64 (tokenOf (node i))) ∧
    (dS d = true → isUniform a = true → (c = 0x88 ∨ s.vSrcOk c = true) → mayRun s [a, c] →
      (∀ path : Nat → Nat, let v := (s.uni a).toNat
        let n := depthOf (node v) + 1
        v < s.team.count → path (n - 1) = v → (∀ i, i < n → depthOf (node (path i)) = i) →
        (∀ i, 0 < i → i < n → parentOf (node (path i)) = path (i - 1)) →
        ∃ t, exec (.ttprune d a c) s = .next t ∧ teamFrame s t ∧ moved s t (readsLatch [a, c]) 2 ∧ treeOnly t ∧
          t.team.count = n ∧ t.team.rootpos = s.team.rootpos ∧ uniformWritten s false (sNum d) (BitVec.ofNat 64 n) t.crew ∧
          (∀ i, i < n → let x := fget 0 t.team.tree i
            tokenOf x = tokenOf (node (path i)) ∧ depthOf x = i ∧ parentOf x = i - 1 ∧ x.getLsbD 48 = true ∧ x.getLsbD 49 = true) ∧
          (∀ i, n ≤ i → fget 0 t.team.tree i = 0) ∧ crewKeeps s.crew t.crew ∧ latchesKept { s.crew with bs0 := t.crew.bs0, bs1 := s.crew.bs0, bs2 := s.crew.bs1, bs3 := s.crew.bs2 } t.crew ∧
          ∀ r l, r < 96 → l < 32 → t.crew.getV r l =
            if c ≠ 0x88 ∧ r = c.toNat ∧ l ∈ s.active ∧ l < n then BitVec.ofNat 32 (tokenOf (node (path l))) else s.crew.getV r l) ∧
      (s.team.count ≤ (s.uni a).toNat → ∃ t, exec (.ttprune d a c) s = .next t ∧
        trapped s t 0x10 s.actMask 0 0 s.crew.pc (resumeAt s (readsLatch [a, c])) 0))

/-- R298 to R306: a conversation instruction whose operands stand makes its crew wait for the home; a role register of zero is
refused at once with NOTBOUND, and a protocol table that is not well formed or not aligned with TABLE. A payload is read at issue in its
place in the stream. Payloads stand in the core part: the model's reading (log entry 47). -/
def Obligations.ConversationIssue : Prop :=
  ∀ (s : State) (d : BitVec 7) (a b : BitVec 8) (strm : BitVec 4) (scope : BitVec 3) (ord : BitVec 2) (im : BitVec 1) (rr rrp : BitVec 2)
      (role : BitVec 3) (kind : BitVec 5), s.crew.run = none → scope ≠ 7 → mayIssue s ord scope →
    let v := fget 0 s.crew.cvrole rr.toNat
    let sec := s.team.sec
    let asks (i : Instr) (target : DWord) (r : ConvReq) : Prop := ∃ t, exec i s = .next t ∧
      (roleDev target = s.ownDev → waits s t (.conv r)) ∧
      (roleDev target ≠ s.ownDev → t.crew.block = some (.conv r) ∧ t.crew.pc = s.crew.pc ∧ t.crew.v = s.crew.v ∧ t.crew.sr = s.crew.sr ∧
        t.mem = s.mem ∧ ∃ m, lookup t.fabric s.nextReq = some m ∧ m.kind = 7 ∧ m.dev = roleDev target ∧ m.crew = s.cur)
    let refused (i : Instr) (srcs : List (BitVec 8)) (reason : Nat) : Prop := ∃ t, exec i s = .next t ∧
      trapped s t 0x0F s.actMask (BitVec.ofNat 64 (reason * 2 ^ 32)) 0 s.crew.pc (resumeAt s (readsLatch srcs)) 0
    (dS d = true → isUniform a = true → mayRun s [a] → let va := (s.uni a).toNat
      let free (ps : List Piece) : Prop := readsFree s (accessOf s true false strm scope ord) ps
      ∀ ps qs, noneLate s → (issued s).check { r := true } va 64 = .ok ps → anyRemote ps = false → free ps → s.piecesPoisoned ps = false →
        let h := (issued s).readPieces ps
        (issued s).check { r := true } va (tableSize h) = .ok qs → anyRemote qs = false → free qs → s.piecesPoisoned qs = false →
        let bs := bytesOf (tableSize h) ((issued s).readPieces qs)
        (va % 64 ≠ 0 ∨ tableOk h bs = false → refused (.cvopen d a strm scope ord) [a] 6) ∧
        (va % 64 = 0 → tableOk h bs = true → ∃ t, exec (.cvopen d a strm scope ord) s = .next t ∧ issueFrame s t ∧
          blocked s t (.conv { op := 0, d := sNum d, sec := sec, table := s.uni a, bytes := bs }))) ∧
    (isUniform a = true → mayRun s [a] → let h := s.uni a
      asks (.cvbind a strm scope ord rr role) h
        { op := 1, rr := rr.toNat, sec := sec
          role := BitVec.ofNat 64 (h.toNat % 2 ^ 21 + role.toNat * 2 ^ 24 + h.toNat / 2 ^ 32 % 2 ^ 16 * 2 ^ 32) }) ∧
    (isUniform a = true → isUniform b = true → (ord = 0 ∨ ord = 2) → mayRun s [a, b] →
      (v = 0 → refused (.cvsend a b strm scope ord im rr kind) [a, b] 3) ∧
      (v ≠ 0 → im = 1 → asks (.cvsend a b strm scope ord im rr kind) v
        { op := 2, role := v, kind := kind.toNat, rr := rr.toNat, sec := sec, imm := true
          payload := (List.range 8).map fun i => BitVec.ofNat 8 ((s.uni a).toNat / 2 ^ (8 * i)) }) ∧
      ∀ off n, v ≠ 0 → im = 0 → accessFree s { seq := s.fresh + 1, rd := true, strm := strm.toNat } → s.uni a = BitVec.ofNat 64 (2 ^ 63 + off) → (s.uni b).toNat = n → off % 16 = 0 → n % 16 = 0 → n ≤ 256 →
        off + n ≤ s.team.part.size → off < 2 ^ 32 → asks (.cvsend a b strm scope ord im rr kind) v
          { op := 2, role := v, kind := kind.toNat, rr := rr.toNat, sec := sec
            payload := (List.range n).map fun i => fget 0 s.team.part.bytes (off + i) }) ∧
    (ord = 0 ∨ ord = 2 →
      (v = 0 → refused (.cvchoose strm scope ord rr kind) [] 3) ∧
      (v ≠ 0 → asks (.cvchoose strm scope ord rr kind) v { op := 3, role := v, kind := kind.toNat, rr := rr.toNat, sec := sec }) ∧
      (rr ≠ rrp → let p := fget 0 s.crew.cvrole rrp.toNat
        (v = 0 ∨ p = 0 → refused (.cvdeleg strm scope ord rrp rr kind) [] 3) ∧
        (v ≠ 0 → p ≠ 0 → asks (.cvdeleg strm scope ord rrp rr kind) p
          { op := 4, role := v, kind := kind.toNat, rr := rr.toNat, rrp := rrp.toNat, sec := sec, passed := p }))) ∧
    ((v = 0 → refused (.cvclose strm scope ord rr) [] 3) ∧
      (v ≠ 0 → asks (.cvclose strm scope ord rr) v { op := 5, role := v, rr := rr.toNat, sec := sec })) ∧
    (dS d = true → d.toNat % 2 = 0 → ord.toNat ≤ 1 →
      (v = 0 → refused (.cvrecv d 0x88 strm scope ord rr) [0x88] 3) ∧
      (v ≠ 0 → roleDev v = s.ownDev → ∃ t, exec (.cvrecv d 0x88 strm scope ord rr) s = .next t ∧
        waits s t (.cvrecv (sNum d) rr.toNat 0 true)) ∧
      ∀ off, isUniform a = true → a ≠ 0x88 → mayRun s [a] → accessFree s { seq := s.fresh + 1, wr := true, strm := strm.toNat } → s.uni a = BitVec.ofNat 64 (2 ^ 63 + off) → off % 16 = 0 →
        off ≤ s.team.part.size → off < 2 ^ 32 → v ≠ 0 → roleDev v = s.ownDev → ∃ t, exec (.cvrecv d a strm scope ord rr) s = .next t ∧
          waits s t (.cvrecv (sNum d) rr.toNat (s.uni a) false))

/-- R300 to R303: at its home a bind gets a fresh nonce, a message request is refused with the reason of the first test that fails and its
detail, and one that passes them waits in turn and is accepted once one of 16 slots is free: it stands in a slot of conversation memory, and the state advances by the table; a receiver gets the
oldest message for its role from its slot. Nonces are free values (log entry 13); the order of the slots and a slot's header are
the model's (log entry 92). -/
def Obligations.ConversationHome : Prop :=
  ∀ (s : State) (k : Nat) (r : ConvReq), k < 24576 → (s.crewAt k).run = none →
    let n := r.role.toNat % 4096
    let c := s.convAt n
    let role := r.role.toNat / 2 ^ 24 % 8
    let gen := r.role.toNat / 2 ^ 32 % 2 ^ 16
    let slotAt (slot : Nat) : Nat := (s.reg 0 (0x40 + 8 * (n / 512))).toNat + 272 * (16 * (n % 512) + slot)
    let others (t : State) : Prop := (∀ j, j ≠ k → t.crewAt j = s.crewAt j) ∧ (∀ j, j ≠ n → t.convAt j = s.convAt j) ∧ t.mem = s.mem
    let e := if role < c.nr ∧ r.kind < c.nk then c.entries.getD ((c.state * c.nr + role) * c.nk + r.kind) 0 else 0
    let refusedWith (t : State) (reason detail : Nat) : Prop := trapped (s.at_ k) t 0x0F (s.at_ k).actMask
      (BitVec.ofNat 64 (reason * 2 ^ 32 + detail)) 0 (s.crewAt k).pc ((s.crewAt k).head.getD (s.crewAt k).pc) 0
    let refused (t : State) (reason : Nat) : Prop := refusedWith t reason 0
    ((s.crewAt k).block = some (.conv r) → r.checked = false → c.queue = [] → c.closing = none → r.role.toNat / 2 ^ 12 % 512 = s.ownDev →
      (r.op = 1 →
        (c.isOpen = false ∨ gen ≠ c.gen → ∃ t, exec (.convHomeRequest k) s = .next t ∧ refused t 2) ∧
        (c.isOpen = true → gen = c.gen → r.sec ≠ c.sec → ∃ t, exec (.convHomeRequest k) s = .next t ∧ refused t 5) ∧
        (c.isOpen = true → gen = c.gen → r.sec = c.sec → fget 0 c.nonces role ≠ 0 → ∃ t,
          exec (.convHomeRequest k) s = .next t ∧ refused t 4) ∧
        (c.isOpen = true → gen = c.gen → r.sec = c.sec → fget 0 c.nonces role = 0 → ∃ t, ∃ x, exec (.convHomeRequest k) s = .next t ∧
          0 < x ∧ x < 65536 ∧ x ≠ fget 0 c.lastNonces role ∧ others t ∧ released (s.crewAt k) (t.crewAt k) 2 ∧
          fget 0 (t.convAt n).nonces role = x ∧ (∀ j, j ≠ role → fget 0 (t.convAt n).nonces j = fget 0 c.nonces j) ∧
          fget 0 (t.crewAt k).cvrole r.rr =
            BitVec.ofNat 64 (n + s.ownDev * 2 ^ 12 + role * 2 ^ 24 + gen * 2 ^ 32 + x * 2 ^ 48))) ∧
      (r.op = 2 ∨ r.op = 3 →
        let nonce := r.role.toNat / 2 ^ 48
        let bound := nonce ≠ 0 ∧ nonce = fget 0 c.nonces role
        let fits := e.getLsbD 15 = true ∧ (16 ≤ r.kind ↔ r.op = 3)
        (gen ≠ c.gen → ∃ t, exec (.convHomeRequest k) s = .next t ∧ refused t 2) ∧
        (gen = c.gen → ¬ bound → ∃ t, exec (.convHomeRequest k) s = .next t ∧ refused t 3) ∧
        (gen = c.gen → bound → r.sec ≠ c.sec → ∃ t, exec (.convHomeRequest k) s = .next t ∧ refused t 5) ∧
        (gen = c.gen → bound → r.sec = c.sec → ¬ fits → ∃ t, exec (.convHomeRequest k) s = .next t ∧
          refusedWith t 1 (c.state * 256 + role * 32 + r.kind)) ∧
        (gen = c.gen → bound → r.sec = c.sec → fits → ∃ t, exec (.convHomeRequest k) s = .next t ∧ others t ∧ t.convAt n = { c with queue := [k] } ∧
          (t.crewAt k).block = some (.conv { r with checked := true }) ∧ (t.crewAt k).pc = (s.crewAt k).pc))) ∧
    (∀ more, (s.crewAt k).block = some (.conv r) → c.queue = k :: more → c.msgs.length < 16 → ∃ t slot, exec (.convAccept n) s = .next t ∧
      (∀ j, j ≠ k → t.crewAt j = s.crewAt j) ∧ (∀ j, j ≠ n → t.convAt j = s.convAt j) ∧ released (s.crewAt k) (t.crewAt k) 2 ∧
      slot < 16 ∧ (∀ m ∈ c.msgs, m.slot ≠ slot) ∧
      (let pa := slotAt slot
       (∀ x, x < pa ∨ pa + 16 + r.payload.length ≤ x → t.byte x = s.byte x) ∧
         (pa + 16 + r.payload.length ≤ memTop → ∀ i, i < r.payload.length → t.byte (pa + 16 + i) = r.payload.getD i 0)) ∧
      t.convAt n = { c with
        queue := more, state := e.toNat % 64
        msgs := c.msgs ++ [{ slot := slot, code := if r.op = 3 then 2 else if r.op = 4 then 3 else 1, kind := r.kind, sender := role
                             recv := e.toNat / 2 ^ 12 % 8, len := r.payload.length, imm := r.imm }] }) ∧
    ∀ (d rr : Nat) (loc : DWord) (discard : Bool) (m : Msg) (pre post : List Msg),
      (s.crewAt k).block = some (.cvrecv d rr loc discard) → fget 0 (s.crewAt k).cvrole rr = r.role → d + 1 < 32 →
      r.role.toNat / 2 ^ 12 % 512 = s.ownDev → c.isOpen = true → gen = c.gen → r.role.toNat / 2 ^ 48 ≠ 0 →
      r.role.toNat / 2 ^ 48 = fget 0 c.nonces role → (s.teamAt (slotOf k)).sec = c.sec → c.closing = none →
      (∀ j ∈ s.receivers n, j = k) → c.msgs = pre ++ m :: post → m.recv = role → (∀ x ∈ pre, x.recv ≠ role) →
      slotAt m.slot + 16 + m.len ≤ memTop →
      (m.imm = true ∨ discard = true ∨ ∃ off, (s.at_ k).payloadAt loc m.len = some off) →
      ∃ t, exec (.convDeliver k) s = .next t ∧ others t ∧ released (s.crewAt k) (t.crewAt k) 2 ∧
        t.convAt n = { c with msgs := pre ++ post } ∧
        (t.crewAt k).getS d = BitVec.ofNat 64 (m.code * 2 ^ 56 + m.kind * 2 ^ 48 + m.sender * 2 ^ 42 + m.len * 2 ^ 32) ∧
        (t.crewAt k).getS (d + 1) =
          (if m.imm = true then BitVec.ofNat 64 (littleEndian m.len fun i => s.byte (slotAt m.slot + 16 + i)) else 0) ∧
        ∀ off, m.imm = false → discard = false → (s.at_ k).payloadAt loc m.len = some off →
          ∀ i, i < m.len → fget 0 (t.teamAt (slotOf k)).part.bytes (off + i) = s.byte (slotAt m.slot + 16 + i)

/-! What the engines, the crews and the fabric do between instructions. -/

namespace Sys2Proof.Claims

/-- A command at the head of a queue is over with a status word (R264): it leaves its queue, and the status register that waited
for it holds the word. -/
def finished (s t : State) (slot q : Nat) (c : Cmd) (st : DWord) : Prop :=
  (t.teamAt slot).queue q = ((s.teamAt slot).queue q).drop 1 ∧ (∀ p, p ≠ q → (t.teamAt slot).queue p = (s.teamAt slot).queue p) ∧
    (c.d ∈ (s.crewAt c.crew).pendS → fget 0 (t.crewAt c.crew).sr c.d = st ∧
      (t.crewAt c.crew).pendS = (s.crewAt c.crew).pendS.erase c.d)

/-- DONE with a count of bytes, and FAULT with a cause (Table 11.2). -/
def doneWord (n : Nat) : DWord := BitVec.ofNat 64 (2 ^ 56 + n % 2 ^ 48)
def faultWord (cause n : Nat) : DWord := BitVec.ofNat 64 (3 * 2 ^ 56 + cause * 2 ^ 48 + n % 2 ^ 48)

end Sys2Proof.Claims

/-- R264, R248, R282, R311, R431: a command whose operands may be used starts; a started CPY between core parts reads its bytes
and owes the granules of its destination; a granule that is owed is written with its full bit; once none is owed, DONE is
written; an empty CPY is DONE at once; a QFENCE ends at the head of all its queues; an error ends FAULT, at once or once the writes
that stand formed are performed. That the reads of a page which were not made ahead are one step, and that what an error finds formed is
still written, is the model's choice (log entries 49 and 109). -/
def Obligations.CommandEvents : Prop :=
  ∀ (s : State) (slot q : Nat) (c : Cmd) (more : List Cmd), (s.teamAt slot).queue q = c :: more →
    let op := c.w.toNat / 2 ^ 24 % 256
    (c.run = .waiting → s.teamRuns slot = true → (s.teamAt slot).clear c.issue c.foot = true → op ∉ [0xBD, 0xDA, 0xE7, 0xE8] →
      s.handlesFree (s.cmdEng slot c) c = true → (∀ h ∈ c.handles, fetchOf (s.readEntry (s.cmdEng slot c) h) = none) → ∃ t, exec (.engineCommandStart slot q) s = .next t ∧
        t = { s with teams := t.teams, clusters := t.clusters } ∧ (∀ k, k ≠ slot → t.teamAt k = s.teamAt k) ∧
        (∀ k, t.clusterAt k = { s.clusterAt k with tlb := (t.clusterAt k).tlb }) ∧
        t.teamAt slot = { s.teamAt slot with queues := (t.teamAt slot).queues } ∧
        ∀ p, (t.teamAt slot).queue p = if p = q then
          { c with run := .started, ents := c.handles.map (s.holdEntry (s.cmdEng slot c)), got := [] } :: more
          else (s.teamAt slot).queue p) ∧
    (op ≠ 0xBD → c.owed = [] → c.told = false → s.queueOutstanding slot q = false →
      (∀ st, c.run = .ended st → ∃ t, exec (.engineCommandComplete slot q) s = .next t ∧ finished s t slot q c st ∧ t.mem = s.mem) ∧
      (op = 0xE0 → c.e.toNat / 128 % 2 = 0 → c.run = .started → c.cow = none → s.wrote = [] →
        ((c.ops.getD 2 0).toNat = 0 → ∃ t, exec (.engineCommandComplete slot q) s = .next t ∧ finished s t slot q c (doneWord 0) ∧
          t.mem = s.mem) ∧
        ∀ src dst n, c.e.toNat / 8 % 16 = 0 → c.ops.getD 0 0 = BitVec.ofNat 64 (2 ^ 63 + src) → c.ops.getD 1 0 = BitVec.ofNat 64 (2 ^ 63 + dst) →
          (c.ops.getD 2 0).toNat = n → 0 < n → n < 2 ^ 32 → n % 16 = 0 → src % 16 = 0 → dst % 16 = 0 → src < 2 ^ 32 → dst < 2 ^ 32 →
          s.slotOfTeam (s.teamAt slot).launch (s.teamAt slot).teamid = some slot → slot < 1536 →
          c.progress = 0 → c.poisonAt = none → c.seen = [] → c.got = [] → c.pages = [] →
          let p := (s.teamAt slot).part
          src + n ≤ p.size → dst + n ≤ p.size → (∀ g, src / 16 ≤ g → g < (src + n) / 16 → fget false p.poison g = false) →
          ∃ t, exec (.engineCommandComplete slot q) s = .next t ∧ t.mem = s.mem ∧ t.crews = s.crews ∧ (t.teamAt slot).part = p ∧
            (∀ k, k ≠ slot → t.teamAt k = s.teamAt k) ∧
            (t.teamAt slot).queue q = { c with
              run := .ended (doneWord n), progress := n
              owed := (List.range (n / 16)).map fun i =>
                { key := (1 + slot) * 2 ^ 64 + (dst / 16 + i), mask := 2 ^ 128 - 1, mark := false, stamp := s.fresh
                  data := littleEndian 16 fun j => fget 0 p.bytes (src + 16 * i + j) } } :: more)) ∧
    (∀ n, op ∉ [0xBD, 0xD8, 0xE7, 0xE8] → c.told = false →
      ((c.run = .started ∨ ∃ r, c.run = .remap r) ∧ n = c.progress ∨ ∃ st : DWord, c.run = .ended st ∧ n = st.toNat % 2 ^ 48) →
      ∃ t, exec (.copyEngineError slot q) s = .next t ∧ t.mem = s.mem ∧
        (c.owed = [] ∧ s.queueOutstanding slot q = false → finished s t slot q c (faultWord 0x0B n)) ∧
        (c.owed ≠ [] ∨ s.queueOutstanding slot q = true → t.crews = s.crews ∧
          ∃ h, (t.teamAt slot).queue q = h :: more ∧ h.run = .ended (faultWord 0x0B n) ∧ h.owed.map (·.data) = c.owed.map (·.data))) ∧
    (∀ j o g, c.owed[j]? = some o → g < 2 ^ 32 → o.mask = 2 ^ 128 - 1 → o.opened = false → slot < 1536 →
      let pays (t : State) : Prop := (t.teamAt slot).queue q = { c with owed := c.owed.eraseIdx j } :: more ∧
        t.crews = s.crews ∧ ∀ k, k ≠ slot → t.teamAt k = s.teamAt k
      (o.key = (1 + slot) * 2 ^ 64 + g → ∃ t, execOwedWrite slot q j s = .next t ∧ pays t ∧ t.mem = s.mem ∧ t.poison = s.poison ∧
        (∀ x, fget 0 (t.teamAt slot).part.bytes x =
          if x / 16 = g then BitVec.ofNat 8 (o.data / 2 ^ (8 * (x % 16))) else fget 0 (s.teamAt slot).part.bytes x) ∧
        (∀ h, (t.teamAt slot).part.isEmpty h = if h = g then false else (s.teamAt slot).part.isEmpty h) ∧
        ∀ h, fget false (t.teamAt slot).part.poison h = if h = g then o.mark else fget false (s.teamAt slot).part.poison h) ∧
      (o.key = g → 16 * g + 16 ≤ memTop → ∃ t, execOwedWrite slot q j s = .next t ∧ pays t ∧ (t.teamAt slot).part = (s.teamAt slot).part ∧
        (∀ x, t.byte x = if x / 16 = g then BitVec.ofNat 8 (o.data / 2 ^ (8 * (x % 16))) else s.byte x) ∧
        ∀ h, fget false t.poison h = if h = g then o.mark else fget false s.poison h)) ∧
    (op = 0xBD → (∀ p, p < 8 → c.e.getLsbD p = true → ∃ h, ((s.teamAt slot).queue p).head? = some h ∧ h.issue = c.issue) →
      ∃ t, exec (.engineCommandComplete slot q) s = .next t ∧ t.mem = s.mem ∧
        (∀ p, (t.teamAt slot).queue p =
          if p < 8 ∧ c.e.getLsbD p = true then ((s.teamAt slot).queue p).drop 1 else (s.teamAt slot).queue p) ∧
        (c.d ∈ (s.crewAt c.crew).pendS → fget 0 (t.crewAt c.crew).sr c.d = doneWord 0))

namespace Sys2Proof.Claims

/-- R274 to R276: the engine's step for a team adds one chunk to every element of the result and leaves every other accumulator word:
of a pair in F64 and else of one accumulator the rows from M and the columns from N on, and the other accumulators. -/
def matrixSteps : Prop :=
  ∀ (s : State) (core party : Nat) (m : MatOp), party < 2 → let slot := 2 * core + party
    (s.teamAt slot).nextMat = some m → m.w.toNat / 2 ^ 24 % 256 ∈ [0xD3, 0xD4, 0xD5] →
    let f64 : Bool := accFmt (tcFmt (m.tcs.headD 0)) == 0
    let d := m.w.toNat / 2 ^ 16 % 128
    let wide := if f64 = true then 2 else 1
    ∃ t, exec (.matrixStep core party) s = .next t ∧ t.mem = s.mem ∧ (∀ k, k ≠ slot → t.teamAt k = s.teamAt k) ∧
      (t.teamAt slot).tiles = (s.teamAt slot).tiles ∧
      (∀ r c, r < mmaM m.tcs → c < mmaN m.tcs → (t.teamAt slot).accElem f64 d r c =
        (s.teamAt slot).mmaElem m r c % (if f64 = true then 2 ^ 64 else 2 ^ 32)) ∧
      (∀ n, (n / 4096 < d ∨ d + wide ≤ n / 4096 ∨ mmaM m.tcs ≤ n % 4096 / 64 ∨
          (n / 4096 - d) * 32 + n % 64 / wide ≥ mmaN m.tcs) → fget 0 (t.teamAt slot).acc n = fget 0 (s.teamAt slot).acc n) ∧
      (t.teamAt slot).matrix = (if m.step + 1 < m.steps then { m with step := m.step + 1 } :: (s.teamAt slot).matrix.drop 1
        else (s.teamAt slot).matrix.drop 1)

/-- R279, R336: the engine's step for the task of its core adds one chunk of A and B to every element of the private accumulator, which
begins as C or as zero, and leaves everything but the task. -/
def taskSteps : Prop :=
  ∀ (s : State) (core party i a b c : Nat) (k t1 : Task) (ps : List Piece), 2 ≤ party → let cl := core / 8
    (s.clusterAt cl).tasks[i]? = some k → k.core = some core → (∀ j u, j < i → (s.clusterAt cl).tasks[j]? = some u → u.core ≠ some core) →
    k.cow = none → k.stage = 0 →
    let x := s.taskEng cl k
    let af := accFmt (eFmt a)
    let k0 := taskK0 k.record + k.chunk * stepElems (eFmt a)
    let n := min (stepElems (eFmt a)) (taskK1 k.record - k0)
    let code (e : Nat) (xs : List Nat) : Nat := match s.supply x e xs with
      | .ok (some o) => o.1
      | _ => 0
    let before (r j : Nat) : Nat := if 0 < k.chunk then (fget 0 k.acc (64 * r + j)).toNat
      else if taskAccum k.record = true then (match s.supply x c [64 * taskTj k.record + j, 64 * taskTi k.record + r] with
        | .ok o => supplied (eFmt c) af o % 2 ^ 64
        | .error _ => 0) else 0
    taskEntries x k = .ok (a, b, c) → taskDone x k = false → s.taskChunk x k = .ok (t1, ps) →
    ∃ t u, exec (.matrixStep core party) s = .next t ∧ t.mem = s.mem ∧ t.crews = s.crews ∧ t.teams = s.teams ∧
      (t.clusterAt cl).tasks = (s.clusterAt cl).tasks.set i u ∧
      u = { k with acc := u.acc, hurt := u.hurt, chunk := k.chunk + 1, got := [] } ∧
      ∀ r j, r < 64 → j < 64 → fget 0 u.acc (64 * r + j) = BitVec.ofNat 64 (accAdd af (before r j)
        ((List.range n).map fun m => (code a [k0 + m, 64 * taskTi k.record + r], code b [k0 + m, 64 * taskTj k.record + j])) (eFmt a) (eFmt b) none)

/-- R431: an error of a core's matrix engine ends the fault domain of every team that uses it, and one of a cluster's reduction unit,
the engine 768 + c, of every team that has a session of its launch there or a CRMERGE that runs. -/
def matrixErrors : Prop :=
  ∀ (s : State) (core : Nat), ∃ t, exec (.matrixEngineError core) s = .next t ∧ t.mem = s.mem ∧ t.crews = s.crews ∧
    t.teams = s.teams ∧ s.ends <+: t.ends ∧
    let ended (k : Nat) : Prop :=
      ({ ctx := (s.teamAt k).ctx, fdom := (s.teamAt k).fdom, crew := none, driver := false } : DomainEnd) ∈ t.ends
    (∀ k, k / 2 = core → (∃ x, lookup s.teams k = some x ∧ x.matrix ≠ []) → ended k) ∧
    (∀ cl c k, core = 8 * cl + c → c < 8 → (∃ u ∈ (s.clusterAt cl).tasks, u.core = some core ∧ s.slotOfTeam u.launch u.teamid = some k) → ended k) ∧
    ∀ cl k, core = 768 + cl → k / 16 = cl → lookup s.teams k ≠ none →
      ((∃ x ∈ (s.clusterAt cl).sessions, x.launch = (s.teamAt k).launch) ∨
        ∃ e ∈ (s.teamAt k).queues, ∃ c more, e.2 = c :: more ∧ c.w.toNat / 2 ^ 24 % 256 = 0xE7 ∧ c.run = .started) → ended k

/-- R278, R279, R336: the scheduler reads the word of a task that waits, and gives the oldest task that may start to the lowest core that
is free. A dependence word or an entry on another device is asked for first. -/
def taskStarts : Prop :=
  ∀ (s : State) (cl i : Nat) (k : Task), (s.clusterAt cl).tasks[i]? = some k →
    let x := s.taskEng cl k
    (k.core = none → taskDep k.record ≠ 0 →
      (∀ ps, s.engReadable x (taskDep k.record) 8 = .ok ps → s.engPoison x ps = [] →
        ∃ t, exec (.taskDependencePoll cl i) s = .next t ∧ t.mem = s.mem ∧ t.crews = s.crews ∧ t.teams = s.teams ∧
          (t.clusterAt cl).tasks =
            (s.clusterAt cl).tasks.set i { k with met := decide (taskDepVal k.record ≤ s.engRead x ps), polled := s.clock, got := [] }) ∧
      ∀ f, s.engReadable x (taskDep k.record) 8 = .error f → isFetch f = true → s.readsOut (k.asks cl) = false →
        ∃ t, exec (.taskDependencePoll cl i) s = .next t ∧ t.mem = s.mem ∧ t.crews = s.crews ∧ t.teams = s.teams ∧ t.clusters = s.clusters ∧
          ∀ n r, lookup s.fabric n = some r → n < s.nextReq → lookup t.fabric n = some r) ∧
    (∀ core, s.taskReady cl k = true → (∀ j u, j < i → (s.clusterAt cl).tasks[j]? = some u → s.taskReady cl u = false) →
      (∀ h ∈ taskHandles k.record, fetchOf (s.readEntry x h) = none) →
      8 * cl ≤ core → core < 8 * cl + 8 → s.coreFree cl core = true → (∀ j, 8 * cl ≤ j → j < core → s.coreFree cl j = false) →
      ∃ t, exec (.tileTaskDispatch cl i) s = .next t ∧ t = { s with clusters := t.clusters } ∧
        (∀ j, j ≠ cl → t.clusterAt j = s.clusterAt j) ∧
        t.clusterAt cl = { s.clusterAt cl with
          tlb := (t.clusterAt cl).tlb
          tasks := (s.clusterAt cl).tasks.set i { k with
            core := some core, ents := (taskHandles k.record).map (s.holdEntry x), got := [] } })

/-- R70, R279, R336: a task that has done its chunks forms the writes of C; once they are all performed TSTAT is written, DONE, or PARTIAL
where an element is poisoned; then the counter rises and the task is over, and the schedulers read again. One that cannot go on writes
FAULT to TSTAT and is over. A write that meets copy-on-write holds the task. -/
def taskEnds : Prop :=
  ∀ (s : State) (cl i : Nat) (k : Task), (s.clusterAt cl).tasks[i]? = some k → k.core ≠ none → k.cow = none →
    let x := s.taskEng cl k
    let goes (t : State) : Prop := exec (.tileTaskComplete cl i) s = .next t ∧ t.crews = s.crews ∧ t.teams = s.teams
    let held (va : Nat) (t : State) : Prop := goes t ∧ t.mem = s.mem ∧ (t.clusterAt cl).tasks = (s.clusterAt cl).tasks.set i { k with cow := some va }
    let asleep (us : List Task) : List Task := us.map fun u => { u with met := false, polled := 0, got := [] }
    let word (at_ v : Nat) (t : State) : Prop := ∀ ps, s.engCheck x { w := true } at_ 8 = .ok ps → (∀ p ∈ ps, pteRemote p.page.pte = false) →
      (∀ p ∈ ps, p.page.pa + p.n ≤ memTop) → ∀ b, t.byte b = stored 8 (physAt ps) v s.byte b
    let wordAt (at_ : Nat) : Nat := (s.engCheck x { w := true } at_ 8).toOption.elim 0 fun ps => littleEndian 8 fun j => s.byte (physAt ps j)
    (k.stage = 0 →
      (∀ va, s.taskEnd x k = .cow va ∨ ((∃ e, s.taskEnd x k = .fault e) ∧ s.wordCow x (k.addr.toNat + 56) = some va) → ∃ t, held va t) ∧
      (∀ e, s.taskEnd x k = .fault e → s.wordCow x (k.addr.toNat + 56) = none → ∃ t, goes t ∧
        word (k.addr.toNat + 56) (3 * 2 ^ 56 + e * 2 ^ 48) t ∧
        (t.clusterAt cl).tasks = (s.clusterAt cl).tasks.eraseIdx i) ∧
      ∀ ec ws, s.taskEnd x k = .writes ec ws → ∃ t u, exec (.tileTaskComplete cl i) s = .next t ∧ t.crews = s.crews ∧ t.mem = s.mem ∧
        t.clusterAt cl = { s.clusterAt cl with tasks := (s.clusterAt cl).tasks.set i u } ∧
        u = { k with owed := u.owed, got := [], stage := 1, status := u.status } ∧
        ((∀ w ∈ ws, w.bad = false) → u.status = doneWord ((ws.length * eBits ec + 7) / 8)) ∧
        ∀ n w, ws[n]? = some w → w.bad = true → (∀ j v, j < n → ws[j]? = some v → v.bad = false) →
          u.status = BitVec.ofNat 64 (2 * 2 ^ 56 + 8 * 2 ^ 48 + n * eBits ec / 8 % 2 ^ 48)) ∧
    (k.owed = [] → s.taskOutstanding cl k = false →
      (k.stage = 1 →
        (∀ va, s.wordCow x (k.addr.toNat + 56) = some va → ∃ t, held va t) ∧
        (s.wordCow x (k.addr.toNat + 56) = none → ∃ t, goes t ∧ word (k.addr.toNat + 56) k.status.toNat t ∧
          (t.clusterAt cl).tasks = (s.clusterAt cl).tasks.set i { k with stage := 2 })) ∧
      (k.stage = 2 →
        (∀ va, taskCmp k.record ≠ 0 → s.wordCow x (taskCmp k.record) = some va → ∃ t, held va t) ∧
        (taskCmp k.record = 0 → ∃ t, goes t ∧ t.mem = s.mem ∧ (t.clusterAt cl).tasks = (s.clusterAt cl).tasks.eraseIdx i) ∧
        (taskCmp k.record ≠ 0 → s.wordCow x (taskCmp k.record) = none → ∃ t, goes t ∧
          asleep (t.clusterAt cl).tasks = asleep ((s.clusterAt cl).tasks.eraseIdx i) ∧
          ∀ ps, s.engCheck x { r := true, w := true } (taskCmp k.record) 8 = .ok ps → s.engCheck x { w := true } (taskCmp k.record) 8 = .ok ps →
            word (taskCmp k.record) (wordAt (taskCmp k.record) + 1) t)))

end Sys2Proof.Claims

/-- R274 to R276, R278, R279, R336, R431: a step of the matrix unit for a team and for a task, a task's poll, its dispatch and its end, and
an error of a matrix engine. The order of a task's last writes, and how a poisoned sum is found, is the model's reading (log entry 49). -/
def Obligations.MatrixEvents : Prop :=
  Claims.matrixSteps ∧ Claims.taskSteps ∧ Claims.matrixErrors ∧ Claims.taskStarts ∧ Claims.taskEnds

/-- R91, R92, R94, R95: a pass of a REMAP in a crew moves the places and leaves the crew where it is, the last is followed by the end,
which writes D; a pass of an engine REMAP is formed, its writes are performed, and PIDX is stored; then come further passes and the
end. -/
def Sys2Proof.Claims.remapPasses : Prop :=
  (∀ (s : State) (k d : Nat) (r : RemapRun) (ps : List Piece), (s.crewAt k).block = some (.remap d r) →
    (s.teamAt (slotOf k)).full = false ∨ (s.at_ k).mayStop = false → s.entryWritable (s.engOf (slotOf k) none) r.handle = .ok ps →
    let x := s.engOf (slotOf k) none
    let e := r.desc.toNat
    (r.passes.length ≤ r.done → ∃ t, exec (.remapPass (some k) 0 0) s = .next t ∧
      released (s.crewAt k) (t.crewAt k) 2 ∧ (t.crewAt k).getS d = doneWord (r.passes.length * passBytes e) ∧
      (t.crewAt k).v = (s.crewAt k).v ∧ ∀ j, j ≠ k → t.crewAt j = s.crewAt j) ∧
    (r.done < r.passes.length → s.otherUses x.ctx r.handle none = false →
      let z := zOf (eFmt e)
      let place (p : Nat) : Option (Nat × Nat × Nat × Nat) := match s.locate x e p 0 with
        | .ok (.reg crew lane reg bit) => some (16 * slotOf k + crew, reg, lane, bit)
        | _ => none
      (∀ m ∈ r.moves e, ∀ y, place m.2.1 = some y → slotOf y.1 = slotOf k ∧ y.2.2.1 < 32 ∧ y.2.2.2 + z ≤ max z 32 ∧
        ∀ m' ∈ r.moves e, m' ≠ m → ∀ y', place m'.2.1 = some y' → y.1 ≠ y'.1 ∨ y.2.2.1 ≠ y'.2.2.1 ∨
          (if z = 64 then y.2.1 + 2 ≤ y'.2.1 ∨ y'.2.1 + 2 ≤ y.2.1
            else y.2.1 ≠ y'.2.1 ∨ y.2.2.2 + z ≤ y'.2.2.2 ∨ y'.2.2.2 + z ≤ y.2.2.2)) →
      ∃ t, exec (.remapPass (some k) 0 0) s = .next t ∧
        (t.crewAt k).block = some (.remap d { r with done := r.done + 1 }) ∧ (t.crewAt k).pc = (s.crewAt k).pc ∧
        (∀ j, slotOf j ≠ slotOf k → t.crewAt j = s.crewAt j) ∧ ∀ m ∈ r.moves e, ∀ y, place m.2.1 = some y →
          t.readReg y.1 y.2.1 y.2.2.1 (eFmt e) y.2.2.2 = if m.2.2 = true then (match place m.1 with
            | some w => s.readReg w.1 w.2.1 w.2.2.1 (eFmt e) w.2.2.2
            | none => 0) else 0)) ∧
  ∀ (s : State) (slot q : Nat) (c : Cmd) (more : List Cmd) (r : RemapRun), (s.teamAt slot).queue q = c :: more → c.run = .remap r → c.cow = none →
    let x := s.cmdEng slot c
    let e := r.desc.toNat
    let goes (run : CmdRun) (c' : Cmd) (t : State) : Prop := exec (.remapPass none slot q) s = .next t ∧ t.crews = s.crews ∧
      (t.teamAt slot).queue q = { c' with run := run } :: more
    (∀ ps, r.mid = true → c.owed = [] → s.queueOutstanding slot q = false → s.entryWritable x r.handle = .ok ps → ∃ t,
      goes (.remap { r with done := r.done + 1, mid := false }) { c with progress := c.progress + passBytes e } t) ∧
    (r.mid = false → s.teamRuns slot = true →
      (∀ ps, r.passes.length ≤ r.done → s.entryWritable x r.handle = .ok ps → c.poisonAt = none → ∃ t, goes (.ended (doneWord c.progress)) c t) ∧
      ∀ ws src, r.done < r.passes.length → s.otherUses x.ctx r.handle (some (slot, q)) = false → s.passWrites x e r = .ok (ws, src) →
        (∀ w ∈ ws, cowAt w.ps = none) → ∃ t c', goes (.remap { r with mid := true }) c' t ∧ t.mem = s.mem ∧
          c' = { c with owed := c'.owed, poisonAt := c'.poisonAt, got := [] })

/-- R92, R286 to R289: a CPYACC granule is added when its index is the one expected, a CPYDD page step advances its command, a
merge session merges the triple of the next rank, CRFIN writes the merged rows, and a REMAP without a pass left ends. When a source
is read is the model's reading (log entries 49 and 52). -/
def Obligations.AccumulationEvents : Prop :=
  (∀ (s : State) (slot q : Nat) (c : Cmd) (more : List Cmd) (src : Side) (k level off v : Nat) (ps qs : List Piece),
    (s.teamAt slot).queue q = c :: more → c.w.toNat / 2 ^ 24 % 256 = 0xE1 → c.run = .started → c.cow = none → level ≤ 2 →
    s.accNext (s.cmdEng slot c) c = .granule src (.part k level off) v false ps qs →
    let g := (off + c.progress) / 16
    let p := s.partAt k level
    let fmt := c.e.toNat / 2 ^ 16 % 16
    s.expected (1 + s.partId k level) g = (c.ops.getD 2 0).toNat / 2 ^ 32 % 2 ^ 16 → fget false p.poison g = false →
    ∃ t, exec (.cpyaccContribution slot q) s = .next t ∧ t.mem = s.mem ∧ t.crews = s.crews ∧
      (∀ x, fget 0 (t.partAt k level).bytes x =
        stored 16 (fun i => 16 * g + i) (accGranule fmt (littleEndian 16 fun i => fget 0 p.bytes (16 * g + i)) v) (fget 0 p.bytes) x) ∧
      (t.teamAt slot).queue q =
        { c with progress := c.progress + 16, got := []
                 pages := keptPages s.fresh c [src, .part k level off] (ps ++ qs) 16 ((c.ops.getD 2 0).toNat % 2 ^ 32) } :: more) ∧
  (∀ (s s1 : State) (slot q : Nat) (c : Cmd) (more : List Cmd) (src : Side) (ps : List Piece) (p : Page) (va ptepa : Nat) (owed : List Owed)
      (bad : Option Nat),
    (s.teamAt slot).queue q = c :: more → c.w.toNat / 2 ^ 24 % 256 = 0xE2 → c.run = .started → c.cow = none →
    let x := s.cmdEng slot c
    s.ddNext x c = .page src ps p va ptepa → s.frameSettled (s.teamAt slot).ctx va = true →
    (∀ h ∈ s.cowHold, h.ctx ≠ (s.teamAt slot).ctx) →
    ((s.engKeep x ps).keepSpan x.cl x.ctx x.sec va 4096).ddStep x (dieOf slot) src c.progress ps p va ptepa = .ok (s1, owed, bad) →
    s1.teams = s.teams →
    ∃ t, exec (.cpyddPageStep slot q) s = .next t ∧ t.mem = s1.mem ∧
      (t.teamAt slot).queue q = { c with progress := c.progress + 4096, owed := c.owed ++ owed, got := []
                                         poisonAt := c.poisonAt.or (bad.map (· + c.progress)) } :: more) ∧
  (∀ (s : State) (cl launch slot : Nat) (x : Session) (k : Triple), s.session cl launch slot = some x →
    (x.triples.find? fun k => k.rank == x.merged) = some k → ∃ t y, exec (.mergeSessionMerge cl launch slot) s = .next t ∧
      t = { s with clusters := t.clusters } ∧ t.session cl launch slot = some y ∧ y = { x with merged := x.merged + 1, result := y.result } ∧
      (x.merged = 0 → y.result = k.rows) ∧
      (x.merged ≠ 0 → ∀ r, r < x.nr → fgetRun 0 y.result (66 * r) 66 =
        mergeRow (fgetRun 0 x.result (66 * r) 66) (fgetRun 0 k.rows (66 * r) 66))) ∧
  (∀ (s : State) (slot q : Nat) (c : Cmd) (more : List Cmd) (x : Session), (s.teamAt slot).queue q = c :: more → c.run = .joined →
    s.session (clusterOf slot) (s.teamAt slot).launch (mergeSlot c) = some x → x.merged = x.n →
    let nr := tcRows (c.tcs.headD 0)
    let acc := c.w.toNat / 2 ^ 8 % 256
    let tile := c.w.toNat % 256
    ∃ t, exec (.crfinComplete slot q) s = .next t ∧ finished s t slot q c (doneWord (264 * nr)) ∧ t.mem = s.mem ∧
      ∀ r, r < nr → (∀ k, k < 64 → fget 0 (t.teamAt slot).acc (4096 * acc + 64 * r + k) = fget 0 x.result (66 * r + 2 + k)) ∧
        (littleEndian 4 fun i => fget 0 (t.teamAt slot).tiles (16384 * tile + 256 * r + i)) = (fget 0 x.result (66 * r)).toNat ∧
        (littleEndian 4 fun i => fget 0 (t.teamAt slot).tiles (16384 * tile + 256 * r + 4 + i)) = (fget 0 x.result (66 * r + 1)).toNat) ∧
  Claims.remapPasses

/-- R38, R61, R161, R334, R394, R396, R397, R400, R406: what befalls a crew between its instructions; both groups of a hardware crew
enter the handler at a word that is rejected for both. The moments are free (log entries 6 and 46), and that an interrupt before a
resumed REP or MCALL keeps TRAPREP is the model's reading (log entry 104). -/
def Obligations.CrewEvents : Prop :=
  ∀ (s : State) (k : Nat), let c := s.crewAt k
    (let word (j code : Nat) (resume : BitVec 32) : Prop := (s.crewAt j).run = none ∧ (s.at_ j).canIssue = true ∧
        ((s.at_ j).fetch = .error code ∧ resume = (s.crewAt j).pc ∨ ∃ i, (s.at_ j).fetch = .ok i ∧ i.readsLatch = true ∧
          (s.crewAt j).fin = true ∧ code = 1 ∧ resume = (s.crewAt j).head.getD (s.crewAt j).pc)
     ∀ code resume, word k code resume →
      ((∀ j, otherGroup s k = some j → sameUnit s k j = false ∨ (s.at_ j).canIssue = false ∨ (s.at_ j).rejects ≠ some code) →
        ∃ t, exec (.instructionFetchFault k) s = .next t ∧ trapped (s.at_ k) t code (s.at_ k).actMask 0 0 c.pc resume 0) ∧
      ∀ j r2, otherGroup s k = some j → (s.crewAt j).pc = c.pc → word j code r2 → (s.teamAt (slotOf k)).hndl = true → slotOf j = slotOf k →
        c.inHandler = false → (s.crewAt j).inHandler = false → ∃ t, exec (.instructionFetchFault k) s = .next t ∧ t.mem = s.mem ∧
          (∀ n, n ≠ k → n ≠ j → t.crewAt n = s.crewAt n) ∧ ∀ n ∈ [k, j], (t.crewAt n).inHandler = true ∧
            (t.crewAt n).pc = BitVec.ofNat 32 (s.teamAt (slotOf k)).handler ∧ (t.crewAt n).trapcause = BitVec.ofNat 64 code ∧
            (t.crewAt n).trappc = c.pc.setWidth 64) ∧
    (∀ i, c.run = none → (s.at_ k).fetch = .ok i → (s.at_ k).crewReady = true → i.readsLatch = true → (s.at_ k).awaits i = true →
      ∃ t, exec (.chainAbandon k) s = .next t ∧ s.clock + 65 ≤ t.clock ∧ t.mem = s.mem ∧ (∀ j, j ≠ k → t.crewAt j = s.crewAt j) ∧
        (t.crewAt k).block = some (.abandoned ((s.at_ k).awaitedS i) ((s.at_ k).awaitedV i)) ∧ (t.crewAt k).pc = c.head.getD c.pc ∧
        (t.crewAt k).bl0 = [] ∧ (t.crewAt k).bs0 = 0 ∧ (t.crewAt k).nL = 0 ∧ (t.crewAt k).nS = 0 ∧ (t.crewAt k).v = c.v ∧
        (t.crewAt k).sr = c.sr) ∧
    (∀ regs loads, c.block = some (.abandoned regs loads) → (∀ n ∈ regs, n ∉ c.pendS) →
      (∀ x ∈ c.loads, x.reg ∉ loads ∧ (x.pair = true → x.reg + 1 ∉ loads)) → ∃ t, exec (.chainResume k) s = .next t ∧
        t = { s with crews := t.crews } ∧ t.crewAt k = { c with block := none } ∧ ∀ j, j ≠ k → t.crewAt j = s.crewAt j) ∧
    (∀ u, rising none s.crews = true → s.readyFor k = some u → c.urgent u = false →
      (64 ≤ c.waited u → ∃ t, exec (.pickerUrgent k) s = .next t ∧ t = { s with crews := t.crews } ∧
        t.crewAt k = c.markUrgent u ∧ ∀ j, j ≠ k → t.crewAt j = s.crewAt j) ∧
      (c.waited u < 64 → pipeIdle s k u = true → ∃ t, exec (.pickerUrgent k) s = .next t ∧ s.clock + (64 - c.waited u) ≤ t.clock ∧
        t.mem = s.mem ∧ ∀ j, t.crewAt j = if j = k then (c.waitOn u (64 - c.waited u)).markUrgent u
          else if lookup s.crews j ≠ none ∧ j < 2 ^ 16 ∧ coreOf (slotOf j) = coreOf (slotOf k) ∧ s.readyFor j = some u then
            (s.crewAt j).waitOn u (64 - c.waited u)
          else s.crewAt j)) ∧
    (let halts (t : State) : Prop := (t.crewAt k).halted = true ∧ (t.crewAt k).v = c.v ∧ t.mem = s.mem ∧
        (∀ j, j ≠ k → t.crewAt j = s.crewAt j) ∧
        t.ends = s.ends ++ [{ ctx := (s.teamAt (slotOf k)).ctx, fdom := (s.teamAt (slotOf k)).fdom, crew := some k, driver := false }]
     ((s.at_ k).crewReady = true → c.inHandler = true → 65536 ≤ c.handlerCount → ∃ t,
       exec (.handlerInstructionLimit k) s = .next t ∧ halts t) ∧
     (c.bound = true → c.inHandler = true → c.halted = false →
       (c.block ≠ none → ∃ t, exec (.handlerWaitLimit k) s = .next t ∧ halts t ∧ c.since + 2 ^ 20 ≤ t.clock) ∧
       (c.block = none → (s.at_ k).blockedOnStatus = true → ∃ t, exec (.handlerWaitLimit k) s = .next t ∧ halts t ∧
         s.clock + 2 ^ 20 ≤ t.clock))) ∧
    (c.run = none → (s.at_ k).mayInterrupt = true → ∃ t, exec (.crewInterruptDelivery k) s = .next t ∧ (t.crewAt k).irq = false ∧
      ((s.at_ k).keptRep = 0 → trapped (s.at_ k) t 0x112 (s.at_ k).actMask 0 0 c.pc c.pc 0) ∧
      ((s.at_ k).keptRep ≠ 0 → trapped (s.at_ k) t 0x112 (s.at_ k).actMask 0 0
        (if (s.at_ k).keptRep.getLsbD 15 = true then c.pc else c.pc + 4) c.pc (s.at_ k).keptRep.toNat))

/-- R46, R244, R245, R247, R365, R366, R423, R429: the last reply of a parked access writes its lanes, a refusal of one traps after
the instruction with the lane's D zero, an acknowledgement ends a posted request, while the plane is up; a lost one is counted, and requests of other
devices read, write and act on memory or are refused. A copy-on-write path that is done, fails or finds no
frame has the effects of R70, R386 and R424. RESUMEPC after a refusal is the model's reading (log entry 29), the list of reports its form
(log entry 110). -/
def Obligations.FabricEvents : Prop :=
  (∀ (s : State) (req : Nat) (r : FabReq) (p : Parked) (data : BitVec 64), lookup s.fabric req = some r → r.kind ∈ [3, 4, 5] →
    s.toSelf r = false → s.planeDown r = false →
    (s.crewAt r.crew).block = some (.parked p) → p.wait = [(r.lane, req)] → p.refused = [] → r.lane < 32 → p.lanes.getLsbD r.lane = true →
    p.left = 0 → (s.crewAt r.crew).run = none → s.teamSaves (slotOf r.crew) = false →
    let sampled : Prop := ∃ m, m < 32 ∧ s.vigilSrc m = 1
    let got (l : Nat) : DWord := (lookup p.data l).getD 0 |||
      (if l = r.lane then BitVec.ofNat 64 (data.toNat % 2 ^ (8 * r.size) * 2 ^ (8 * r.part)) else 0)
    let value (l : Nat) : DWord := if p.load = true then BitVec.ofNat 64 (loadElem p.fmt (got l).toNat).code else got l
    let lanes (t : State) (f : Nat → DWord) : Prop := ∀ n, fget 0 (t.crewAt r.crew).v n =
      if n / 32 = vIndex (s.crewAt r.crew) p.d ∧ p.lanes.getLsbD (n % 32) = true then (f (n % 32)).extractLsb' 0 32
      else if p.pair = true ∧ n / 32 = vIndex (s.crewAt r.crew) (p.d + 1) ∧ p.lanes.getLsbD (n % 32) = true then
        (f (n % 32)).extractLsb' 32 32
      else fget 0 (s.crewAt r.crew).v n
    (∃ t, exec (.remoteReply req 0 data) s = .next t ∧ released (s.crewAt r.crew) (t.crewAt r.crew) 2 ∧ (¬ sampled → t.mem = s.mem) ∧
      lookup t.fabric req = none ∧ lanes t value ∧ ∀ j, j ≠ r.crew → t.crewAt j = s.crewAt j) ∧
    ∀ code ∈ [3, 4, 5, 6], ∃ t, exec (.remoteReply req code data) s = .next t ∧ (¬ sampled → t.mem = s.mem) ∧
      lanes t (fun l => if l = r.lane then 0 else value l) ∧
      (t.crewAt r.crew).trapcause = BitVec.ofNat 64 (0x10C + code * 2 ^ 48) ∧ (t.crewAt r.crew).trappc = p.at_.setWidth 64 ∧
      (t.crewAt r.crew).resumepc = p.next.setWidth 64 ∧ (t.crewAt r.crew).traplanes = BitVec.ofNat 64 (2 ^ r.lane) ∧
      (t.crewAt r.crew).trapaddr = r.va - BitVec.ofNat 64 r.part) ∧
  (∀ (s : State) (req : Nat) (r : FabReq), lookup s.fabric req = some r → r.kind ∈ [0, 1, 2, 6] → req ∈ (s.crewAt r.crew).posted →
    s.toSelf r = false → s.planeDown r = false → ∃ t, exec (.remoteAcknowledgement req) s = .next t ∧ lookup t.fabric req = none ∧ t.mem = s.mem ∧
      (∀ j, j ≠ r.crew → t.crewAt j = s.crewAt j) ∧
      ∃ rest, t.crewAt r.crew = { s.crewAt r.crew with pend := standing rest } ∧ rest.Sublist (s.crewAt r.crew).pend ∧
        ∀ p, p ∈ rest ↔ p ∈ (s.crewAt r.crew).pend ∧ ∀ a, p = .acc a → a.req ≠ some req) ∧
  (∀ (s : State) (req : Nat) (r : FabReq), lookup s.fabric req = some r → r.kind ≠ 7 → ∃ t, exec (.requestLost req) s = .next t ∧
    lookup t.fabric req = none ∧ t.reg 0 0x6028 = BitVec.ofNat 64 (((s.reg 0 0x6028).toNat + 1) % 2 ^ 32)) ∧
  (∀ (s : State) (src tag : Nat) (sec : Bool) (kind size n : Nat) (va data data2 : BitVec 64) (aop : BitVec 5) (fmt : BitVec 4) (ps : List Piece),
    s.halted = false → noneLate s → n = size → 1 ≤ n → n ≤ 16 → tag < 4096 →
    let e := s.loadPhys ((s.reg 0 8).toNat + 8 * tag) 8
    e % 2 = 1 →
    s.checkSpan noCluster (e / 256 % 2 ^ 31 * 256) sec (needOf kind) va.toNat n = .ok ps →
    (∀ p ∈ ps, pteRemote p.page.pte = false ∧ p.page.pa + p.n ≤ memTop ∧ pteCow p.page.pte = false) → s.piecesPoisoned ps = false →
    let old := littleEndian n fun i => s.byte (physAt ps i)
    let serves (new : Option Nat) (reply : Option Nat) : Prop := ∃ t,
      exec (.remoteRequestArrive src tag sec kind va size aop fmt data data2) s = .next t ∧ t.crews = s.crews ∧ t.teams = s.teams ∧
        (∀ x, t.byte x = match new with | some v => stored n (physAt ps) v s.byte x | none => s.byte x) ∧
        ∀ v, reply = some v → t.hostRead = BitVec.ofNat 2112 v
    (kind = 0 → serves (some data.toNat) none) ∧ (kind = 2 → serves (some (data.toNat + data2.toNat * 2 ^ 64)) none) ∧
    (kind = 3 → serves none (some old)) ∧
    (n = 4 ∨ n = 8 → (kind = 1 → serves (some (atomNew aop.toNat fmt.toNat old data.toNat)) none) ∧
      (kind = 4 → serves (some (atomNew aop.toNat fmt.toNat old data.toNat)) (some old)) ∧
      (kind = 5 → serves (if old = data.toNat then some data2.toNat else none) (some old)))) ∧
  (∀ (s : State) (cl line size : Nat), (line, size) ∈ (s.clusterAt cl).wants →
    (∀ e ∈ s.clusters, ∀ l ∈ e.2.leases, l.line ≠ line) → ∃ t, exec (.leaseGrant cl line size) s = .next t ∧
      t = { s with clusters := t.clusters } ∧ ({ line := line, size := size, used := s.clock } : Lease) ∈ (t.clusterAt cl).leases) ∧
  (∀ (s : State) (cl line : Nat) (l : Lease), l ∈ (s.clusterAt cl).leases → l.line = line → ∃ t,
    exec (.leaseIdleRelease cl line) s = .next t ∧ s.clock ≤ t.clock ∧ t.mem = s.mem ∧ (∀ m ∈ (t.clusterAt cl).leases, m.line ≠ line) ∧
    (∃ m ∈ (s.clusterAt cl).leases, m.line = line ∧ m.used + 1536 ≤ t.clock) ∧ ∀ k, k ≠ cl → t.clusterAt k = s.clusterAt k) ∧
  ∀ (s : State) (k ctx page addr va : Nat) (lanes : BitVec 32) (w : CowWaiter) (ws : List CowWaiter), (s.crewAt k).block = some (.cow va lanes addr) →
    s.cowWaiters ctx page = w :: ws → CowWaiter.crew k lanes addr ∈ w :: ws → s.serialHeld ctx page = false → s.frameSettled ctx (4096 * page) = true →
    let die := ((s.cowHold.find? fun h => h.ctx == ctx && h.page == page).map (·.die)).getD w.die
    (∀ s1, s.cowPath die ctx (4096 * page) = .done s1 → ∃ t, exec (.cowPath ctx page) s = .next t ∧ (t.crewAt k).block = none ∧
      t.mem = s1.mem ∧ t.cowReports = s1.cowReports ∧ ∀ h ∈ t.cowHold, ¬ (h.ctx = ctx ∧ h.page = page)) ∧
    (∀ code, s.cowPath die ctx (4096 * page) = .failed code → ws = [] → (s.teamAt (slotOf k)).hndl = true → (s.crewAt k).inHandler = false →
      ∃ t, exec (.cowPath ctx page) s = .next t ∧ t.mem = s.mem ∧ t.cowReports = s.cowReports ++ [(ctx, page)] ∧
        (t.crewAt k).block = none ∧ (t.crewAt k).trapcause.toNat % 256 = codeOfRank code ∧ (t.crewAt k).trapaddr = BitVec.ofNat 64 addr ∧
        ∀ h ∈ t.cowHold, ¬ (h.ctx = ctx ∧ h.page = page)) ∧
    ∀ s1, s.cowPath die ctx (4096 * page) = .noFrame s1 → ∃ t, exec (.cowPath ctx page) s = .next t ∧ (t.crewAt k).block = some (.cow va lanes addr) ∧
      t.mem = s1.mem ∧ ∃ h ∈ t.cowHold, h.ctx = ctx ∧ h.page = page ∧ h.die = die

/-! Placement: what dispatch and Almanac do. -/

namespace Sys2Proof.Claims

/-- An entry of the slot table after a command: its state, OP 0, every other field as before; the other entries as before; one
notice with a code, written as the last of the die's ring (R331). -/
def entryTo (s t : State) (slot st code reason : Nat) : Prop :=
  t.slotAt slot = { s.slotAt slot with st := st, op := 0 } ∧ (∀ k, k ≠ slot → t.slotAt k = s.slotAt k) ∧
    (fget [] t.notices (dieOf slot)).getLast? =
      some (BitVec.ofNat 64 (slot % 192 + code * 2 ^ 8 + reason * 2 ^ 16 + (s.slotAt slot).seq * 2 ^ 32))

/-- A command of an entry is refused: the entry reads REFUSED, or FENCED as before, and the core is untouched (R331): a team that runs or is
being saved there goes on (log entry 89). -/
def commandRefused (s t : State) (slot code reason : Nat) : Prop :=
  entryTo s t slot (if (s.slotAt slot).st = 5 then 5 else 4) code reason ∧ t.teams = s.teams ∧ t.crews = s.crews ∧ t.mem = s.mem ∧
    t.clusters = s.clusters ∧ t.parts = s.parts

end Sys2Proof.Claims

/-- R36, R331, R332, R333, R409, R414: a command of a slot-table entry. BIND and RESTORE with a failing check are refused; a bound
team starts as Table 2.5 states, a restored one with its crew records' state; PREEMPT begins the count of 2^20 cycles. The model's own are:
the order of the checks (log entry 61), the answer with code 4 on an entry that reads FENCED or SAVING (log entry 62), the refusal with code
4 of an image that runs beyond device memory (log entry 27), that reserved bits of an image are read as zero (log entry 64), and that a team
which is being saved goes on when a command is refused (log entry 89). -/
def Obligations.SlotCommands : Prop :=
  ∀ (s : State) (slot : Nat), let e := s.slotAt slot
    (∀ code reason, s.bindCheck slot = .error (code, reason) →
      (e.op = 1 → ∃ t, exec (.slotBind slot) s = .next t ∧ commandRefused s t slot code reason) ∧
      (e.op = 2 → ∃ t, exec (.slotRestore slot) s = .next t ∧ commandRefused s t slot code reason)) ∧
    (e.st = 1 ∨ e.st = 2 ∨ e.st = 5 → s.bindCheck slot = .error (4, 0)) ∧
    (∀ l i, e.op = 1 → s.bindCheck slot = .ok (l, i) → ∃ t, exec (.slotBind slot) s = .next t ∧ entryTo s t slot 1 1 0 ∧ t.mem = s.mem ∧
      (∀ k, k ≠ slot → t.teamAt k = s.teamAt k) ∧
      (let h := i.hdr.toNat
       let u := t.teamAt slot
       u.launch = e.launch ∧ u.teamid = e.teamid ∧ u.ctx = l.ctx ∧ u.fdom = l.fdom ∧ u.ncrew = l.ncrew ∧ u.nvreg = l.nvreg ∧
         u.tiles = [] ∧ u.tc = [] ∧ u.acc = [] ∧ u.tokhold = 0#8 ∧ u.part = { size := l.cspb } ∧ u.compat = hCompat h ∧
         u.matrix = [] ∧ u.queues = [] ∧
       ∀ c, c < l.ncrew → let x := t.crewAt (16 * slot + c)
         x.bound = true ∧ x.pc = BitVec.ofNat 32 (hEntry h) ∧ x.exm = x.live ∧ x.v = [] ∧ x.bl0 = [] ∧ x.bl1 = [] ∧ x.bs0 = 0 ∧
           x.bs1 = 0 ∧ x.fpcr = 0 ∧ x.fpsr = 0 ∧ x.inHandler = false ∧
           (∀ n, fget 0 x.sr n = if n = 0 then l.arg else 0) ∧
           ∀ lane, lane < 32 → x.live.getLsbD lane = decide (lane < (if hCompat h = true then 16 else 32) ∧
             (c + 1 = l.ncrew → l.lastlanes ≠ 0 → lane < l.lastlanes)))) ∧
    (∀ l i, e.op = 2 → s.bindCheck slot = .ok (l, i) →
      let base := e.saveaddr.toNat
      let y := layoutOf l.ncrew l.nvreg l.ntile l.nacc l.cspb l.ttf
      let valid := base + y.len ≤ 412316860416 ∧ s.readNat base 4 = 0x45564153 ∧ s.readNat (base + 8) 4 = l.ncrew ∧ BitVec.ofNat 64 (s.readNat (base + 40) 8) = e.lrec ∧
        s.readNat (base + 33) 3 = e.teamid
      (¬ valid → ∃ t, exec (.slotRestore slot) s = .next t ∧ commandRefused s t slot 4 0) ∧
      (valid → ∃ t, exec (.slotRestore slot) s = .next t ∧ entryTo s t slot 1 1 0 ∧ t.mem = s.mem ∧
        (∀ k, k ≠ slot → t.teamAt k = s.teamAt k) ∧ lookup (t.launchAt e.launch).saved e.teamid = none ∧
        ∀ c, c < l.ncrew → let x := t.crewAt (16 * slot + c)
          let at_ := base + y.crews + recordSize l.nvreg * c
          x.pc = BitVec.ofNat 32 (s.readNat at_ 4) ∧ x.exm = BitVec.ofNat 32 (s.readNat (at_ + 8) 4) ∧
            x.fpcr = BitVec.ofNat 64 (s.readNat (at_ + 32) 8 % 8) ∧ x.fpsr = BitVec.ofNat 64 (s.readNat (at_ + 40) 8 % 32) ∧
            x.bl0 = [] ∧ x.bs0 = 0 ∧ x.inHandler = false ∧
            ∀ n, n < 32 → fget 0 x.sr n = BitVec.ofNat 64 (s.readNat (at_ + 160 + 8 * n) 8))) ∧
    (e.op = 3 → ∃ t, exec (.slotPreempt slot) s = .next t ∧ t = { s with slots := t.slots, teams := t.teams } ∧
      (∀ k, k ≠ slot → t.slotAt k = s.slotAt k) ∧
      (e.st ≠ 1 → t.slotAt slot = { e with op := 0 } ∧ t.teams = s.teams) ∧
      (e.st = 1 → t.slotAt slot = { e with op := 0, st := 2 } ∧ (∀ k, k ≠ slot → t.teamAt k = s.teamAt k) ∧
        t.teamAt slot = { s.teamAt slot with full := false, saveSince := s.clock, saving := true })) ∧
    (4 ≤ e.op → ∃ t, exec (.slotOpReserved slot) s = .next t ∧ commandRefused s t slot 4 0) ∧
    (∀ hold prio, slot < 1536 → prio < 16 → (hold = true ∨ e.hold = false ∨ (s.teamAt slot).coresident = false ∨
        ((s.slotsOf (s.teamAt slot).launch).length + (s.launchAt (s.teamAt slot).launch).retired = (s.teamAt slot).nteams ∧
          ∀ k ∈ s.slotsOf (s.teamAt slot).launch, (s.slotAt k).st = 1)) →
      ∃ t, exec (.slotHoldUpdate slot hold prio) s = .next t ∧ t = { s with slots := t.slots } ∧
        t.slotAt slot = { e with hold := hold, prio := prio } ∧ ∀ k, k ≠ slot → t.slotAt k = s.slotAt k)

/-- R31, R33, R48, R331, R409, R411: a team that is done retires, and the last of a launch ORs SETMASK into the event vector; the
count of a save expires; a complete save leaves the slot SAVED; a vector of no bound team goes back to EVEC. The moment of an
expiry is free (log entry 6). -/
def Obligations.SlotEvents : Prop :=
  (∀ (s : State) (slot : Nat), let e := s.slotAt slot
    let u := s.teamAt slot
    let vacated (t : State) : Prop := lookup t.teams slot = none ∧ (∀ k, slotOf k = slot → lookup t.crews k = none) ∧
      ∀ k, k ≠ slot → t.teamAt k = s.teamAt k
    (s.teamDone slot = true → s.teamRuns slot = true ∨ s.teamSaves slot = true → ∃ t, exec (.teamRetire slot) s = .next t ∧ entryTo s t slot 0 2 0 ∧ vacated t ∧
      t.mem = s.mem ∧
      let l := s.launchAt u.launch
      (t.launchAt u.launch).retired = l.retired + 1 ∧ (∀ ctx, ctx ≠ u.ctx → t.vector ctx = s.vector ctx) ∧
      (l.retired + 1 = u.nteams → (t.launchAt u.launch).ended = true ∧ t.vector u.ctx = s.vector u.ctx ||| l.record.extractLsb' 512 256) ∧
      (l.retired + 1 ≠ u.nteams → (t.launchAt u.launch).ended = l.ended ∧ t.vector u.ctx = s.vector u.ctx)) ∧
    (s.teamSaves slot = true → lookup s.teams slot ≠ none →
      (u.full = false → s.othersStop slot none = false → ∃ t, exec (.forcedSaveExpiry slot) s = .next t ∧
        t = { s with teams := t.teams, clock := t.clock } ∧ u.saveSince + 2 ^ 20 ≤ t.clock ∧ t.teamAt slot = { u with full := true } ∧
        ∀ k, k ≠ slot → t.teamAt k = s.teamAt k) ∧
      (s.othersStop slot none = true → s.quiet slot = true → s.teamDone slot = false → (∀ level, level < 3 → (s.partAt slot level).poison = []) →
        e.saveaddr.toNat + u.layout.len ≤ 412316860416 → ∃ t, exec (.saveComplete slot) s = .next t ∧ entryTo s t slot 3 3 0 ∧
        vacated t ∧ ∃ b, lookup (t.launchAt u.launch).saved u.teamid = some b ∧ b.addr = e.saveaddr))) ∧
  ∀ (s : State) (ctx : Nat) (v : BitVec 256), lookup s.vectors ctx = some v → (∀ x ∈ s.teams, x.2.ctx ≠ ctx) → ctx + 128 ≤ 412316860416 →
    ∃ t, exec (.evecWriteback ctx) s = .next t ∧ lookup t.vectors ctx = none ∧ t.vector ctx = v ∧ t.crews = s.crews ∧
      ∀ a, t.byte a = stored 32 (fun i => ctx + 96 + i) v.toNat s.byte a

/-- R22, R32 to R34, R329, R333, R395, R432: Almanac reads a launch, gives its next team a slot, pre-empts and restores, and lets a
CORESIDENT launch start whole; a fault domain ends; a core classed as faulty is emptied and fenced. The place of a team and the
parts of a fencing are the model's (log entries 14 and 65). -/
def Obligations.PlacementEvents : Prop :=
  (∀ (s : State) (launch slot : Nat) (l : Launch), lookup s.launches launch = some l → s.noOp = true → l.ended = false →
    let runs (act : Nat) (t : State) : Prop := exec (.almanacSchedule act launch slot) s = .next t ∧ t.teams = s.teams ∧ t.crews = s.crews ∧
      t.mem = s.mem
    (l.read = false → ∃ t, runs 0 t ∧ t.slots = s.slots ∧ (t.launchAt launch).read = true ∧ (t.launchAt launch).record = l.record ∧
      ∀ c, s.chain l.ctx 8 l.region.toNat = some c → (t.launchAt launch).fdom = effFdom c ∧
        (s.launchOk l c = true → (t.launchAt launch).ended = false ∧
          (t.launchAt launch).eligible = decide (s.vector l.ctx &&& l.record.extractLsb' 256 256 = l.record.extractLsb' 256 256)) ∧
        (s.launchOk l c = false → (t.launchAt launch).ended = true ∧ ∃ d ∈ t.ends, d.ctx = l.ctx ∧ d.fdom = effFdom c ∧ d.launch = some launch)) ∧
    (∀ tm e s2, l.read = true → l.eligible = true → l.coresident = false → s.turn l = true → s.domainStands l = true →
      l.nextTeam = some tm → s.placeAt launch tm 1 0 (s.prioOf l) slot = some (e, s2) → ∃ t, runs 1 t ∧ t.slotAt slot = e ∧
        (∀ k, k ≠ slot → t.slotAt k = s.slotAt k) ∧ (l.again = [] → (t.launchAt launch).bound = l.bound + 1)) ∧
    (s.starving launch l = true → (s.slotAt slot).prio < s.prioOf l → (s.slotAt slot).st = 1 → lookup s.teams slot ≠ none →
      (∀ e ∈ s.slots, s.teamSaves e.1 = false) → (s.teamAt slot).coresident = false → ∃ t, runs 2 t ∧
        t.slotAt slot = { s.slotAt slot with op := 3, saveaddr := (t.slotAt slot).saveaddr } ∧ ∀ k, k ≠ slot → t.slotAt k = s.slotAt k) ∧
    (∀ tm b e s2, l.saved = [(tm, b)] → l.coresident = false → s.domainStands l = true →
      (∀ x ∈ s.launches, ¬ (s.prioOf l < s.prioOf x.2 ∧ s.starving x.1 x.2 = true)) →
      (lookup s.teams (otherSlot slot) = none ∨ (s.slotAt (otherSlot slot)).prio ≤ s.prioOf l) →
      s.placeAt launch tm 2 b.addr.toNat (s.prioOf l) slot = some (e, s2) → ∃ t, runs 3 t ∧ t.slotAt slot = e ∧
        ∀ k, k ≠ slot → t.slotAt k = s.slotAt k) ∧
    (l.coresident = true → (s.slotsOf launch).length + l.retired = l.nteams → (∀ k ∈ s.slotsOf launch, (s.slotAt k).st = 1) →
      (∃ k ∈ s.slotsOf launch, (s.slotAt k).hold = true) → s.domainStands l = true → ∃ t, runs 4 t ∧
        ∀ k, t.slotAt k = if k ∈ s.slotsOf launch then { s.slotAt k with hold := false } else s.slotAt k)) ∧
  (∀ (s : State) (ctx fdom : Nat), (∃ d ∈ s.ends, d.ctx = ctx ∧ d.fdom = fdom) → ∃ t, exec (.faultDomainEnd ctx fdom) s = .next t ∧
    (∀ d ∈ t.ends, ¬ (d.ctx = ctx ∧ d.fdom = fdom)) ∧
    ∀ k u, lookup s.teams k = some u →
      ((u.ctx = ctx ∧ u.fdom = fdom) → lookup t.teams k = none ∧ (t.slotAt k).st = 0) ∧
      (¬ (u.ctx = ctx ∧ u.fdom = fdom) → t.teamAt k = u)) ∧
  ∀ (s : State) (core : Nat), core < 768 → fget false s.fenced core = false →
    (core ∉ s.fencing → ∃ t, exec (.unitFence core) s = .next t ∧ t.fencing = s.fencing ++ [core] ∧ t.teams = s.teams ∧ t.slots = s.slots ∧
      t.bmc = s.bmc ++ [4]) ∧
    (core ∈ s.fencing → (∀ k, k = 2 * core ∨ k = 2 * core + 1 → lookup s.teams k = none ∧ (s.slotAt k).op = 0) → ∃ t,
      exec (.unitFence core) s = .next t ∧ t.mem = s.mem ∧ t.teams = s.teams ∧ fget false t.fenced core = true ∧ core ∉ t.fencing ∧
      (t.slotAt (2 * core)).st = 5 ∧ (t.slotAt (2 * core + 1)).st = 5 ∧
      (∀ k, k ≠ 2 * core → k ≠ 2 * core + 1 → t.slotAt k = s.slotAt k) ∧
      (t.reg 0 (0x6100 + 8 * (core / 64))).getLsbD (core % 64) = true) ∧
    ∀ k, core ∈ s.fencing → k = 2 * core ∨ k = 2 * core + 1 → lookup s.teams k ≠ none → (s.slotAt k).st = 1 → (s.slotAt k).op = 0 →
      ∃ t, exec (.unitFence core) s = .next t ∧ (t.slotAt k).op = 3 ∧ (t.teamAt k).fencedOff = true ∧ t.crews = s.crews ∧ t.mem = s.mem ∧
        ∀ j, t.teamAt j = { s.teamAt j with fencedOff := (t.teamAt j).fencedOff }

/-! What the host does. -/

/-- R356 to R358, R360, R372: kicks, the enabling of a ring, the record at HEAD, and a wait of 10 µs without it. That enabling the first
ring ends bring-up and lets the requests held until then in is the model's reading (log entry 94), and so is the moment at which the
33,000 cycles are found to have passed (log entry 6). -/
def Obligations.LaunchRings : Prop :=
  ∀ (s : State) (fn ring : Nat), fn < 2 → ring < 8 →
    let r := s.ring fn ring
    let at_ (off : Nat) : Nat := 0x1000 + 64 * ring + off
    let ctl := s.reg fn (at_ 8)
    let slots := 2 ^ (ctl.toNat / 16 % 16)
    let head := (s.reg fn (at_ 24)).toNat
    let slotAddr := (s.reg fn (at_ 0)).toNat + 128 * (head % slots)
    (∀ v, ∃ t, exec (.kick fn ring v) s = .next t ∧ (ctl.getLsbD 0 = false ∨ v.toNat ≤ r.kicks → t = s) ∧
      (ctl.getLsbD 0 = true → r.kicks < v.toNat → slots < v.toNat - head → t.rings = s.rings ∧ t.reg fn (at_ 32) = s.reg fn (at_ 32) ||| 1#64 ∧
        ((s.reg fn (at_ 32)).getLsbD 0 = false → 8 * fn + 1 ∈ t.msix)) ∧
      (ctl.getLsbD 0 = true → r.kicks < v.toNat → v.toNat - head ≤ slots → t = { s with rings := t.rings } ∧ t.ring fn ring = { r with kicks := v.toNat })) ∧
    (∀ v, ∃ t, exec (.rctlWrite fn ring v) s = .next t ∧
      let size := v.toNat / 16 % 16
      let w := if 4 ≤ size ∧ size ≤ 12 then v &&& 0xF3#64 else v &&& 0xF2#64
      t.reg fn (at_ 8) = w ∧
        (w.getLsbD 0 = true → ctl.getLsbD 0 = false → t.reg fn (at_ 24) = 0 ∧ (t.ring fn ring).kicks = 0 ∧
          t.opened = true ∧ t.early = [] ∧ t.inputs = s.early.map some ++ s.inputs) ∧
        (w.getLsbD 0 = false ∨ ctl.getLsbD 0 = true → t = { s with bar0 := t.bar0 } ∧ t.reg fn (at_ 24) = s.reg fn (at_ 24))) ∧
    (ctl.getLsbD 0 = true → head < r.kicks →
      (∀ hostRec, ctl.getLsbD 1 = true ∨ slotAddr < 412316860416 → ∃ t, exec (.ringRecordRead fn ring hostRec) s = .next t ∧
        let rec_ := if ctl.getLsbD 1 = true then hostRec else BitVec.ofNat 1024 (s.readNat slotAddr 128)
        let mine := (rec_.extractLsb' 960 64).toNat = (head + 1) % 2 ^ 64
        (¬ mine → t = { s with rings := t.rings } ∧ (t.ring fn ring).kicks = r.kicks) ∧
        (mine → t.reg fn (at_ 24) = BitVec.ofNat 64 (head + 1) ∧ (t.launchAt s.launches.length).record = rec_ ∧
          (t.launchAt s.launches.length).region = rec_.extractLsb' 768 64 ∧ (t.launchAt s.launches.length).read = false)) ∧
      ∀ since, r.since = some since → ∃ t, exec (.ringStaleTimeout fn ring) s = .next t ∧ since + 33000 ≤ t.clock ∧
        t.reg fn (at_ 8) = ctl &&& ~~~1#64 ∧ t.reg fn (at_ 32) = s.reg fn (at_ 32) ||| 2#64 ∧ t.mem = s.mem ∧
        ((s.reg fn (at_ 32)).getLsbD 1 = false → 8 * fn + 1 ∈ t.msix))

/-- R360, R361, R367, R371, R374, R375, R399, R400: the host's reads and writes and its commands. That an ATTCMD written while BUSY is 1
is ignored is the model's choice (log entry 67). -/
def Sys2Proof.Claims.hostAccesses : Prop :=
  ∀ (s : State),
    let busy (off : Nat) : Bool := (s.reg 0 off).getLsbD 0
    let ignored (i : Instr) : Prop := exec i s = .next s
    (∀ fn win, fn < 2 → win < 4 → ∃ t, exec (.evdataRead fn win) s = .next t ∧ t = { s with hostRead := t.hostRead } ∧
      t.hostRead = ((s.vector (s.reg fn 0x2000).toNat).extractLsb' (64 * win) 64).setWidth 2112) ∧
    (∀ fn addr size, fn < 2 → 1 ≤ size → size ≤ 8 → addr + size ≤ 2 ^ 39 →
      let hidden := 412316860416 < addr + size ∨ ∃ i, i < size ∧ s.inSecure (addr + i) = true
      (∃ t, exec (.hostBar2Read fn addr size) s = .next t ∧ t.mem = s.mem ∧ t.crews = s.crews ∧
        (hidden → t.hostRead = BitVec.ofNat 2112 (2 ^ (8 * size) - 1)) ∧
        (¬ hidden → s.poisoned addr size = false → t.hostRead = BitVec.ofNat 2112 (littleEndian size fun i => s.byte (addr + i)))) ∧
      ∀ data, (hidden → ignored (.hostBar2Write fn addr size data)) ∧
        (¬ hidden → noneLate s → ∃ t, exec (.hostBar2Write fn addr size data) s = .next t ∧ t.crews = s.crews ∧
          ∀ a, t.byte a = stored size (fun i => addr + i) data.toNat s.byte a)) ∧
    (∀ v, (v ≠ 1#64 ∨ busy 0x3020 = true → ignored (.invcmd v)) ∧
      (v = 1#64 → busy 0x3020 = false → ∃ t, exec (.invcmd v) s = .next t ∧ t.reg 0 0x3020 = 1#64 ∧ t.mem = s.mem ∧ t.crews = s.crews ∧
        (∀ k, k ∈ t.drain ↔ k ∈ s.fabric.map (·.1)) ∧ t.drainAt = s.fresh ∧
        ∀ e ∈ t.clusters, ∀ x ∈ e.2.tlb, ¬ (x.ctx = (s.reg 0 0x3010).toNat ∧
          x.covers ((s.reg 0 0x3000).toNat / 4096) (s.reg 0 0x3008).toNat = true))) ∧
    (busy 0x3020 = true → (∀ k ∈ s.drain, lookup s.fabric k = none) →
      (∀ e ∈ s.crews, ∀ a, Pend.acc a ∈ e.2.pend → (a.req ≠ none ∧ a.send = none) ∨ s.drainAt ≤ a.seq) →
      (∀ e ∈ s.teams, ∀ q ∈ e.2.queues, ∀ c ∈ q.2, (∀ o ∈ c.owed, s.drainAt ≤ o.stamp) ∧
        (c.run = .started → ∀ p ∈ c.pages, s.drainAt ≤ p.2.2.2)) →
      (∀ e ∈ s.clusters, ∀ x ∈ e.2.tasks, ∀ o ∈ x.owed, s.drainAt ≤ o.stamp) → ∃ t, exec .invalidationDrainDone s = .next t ∧
      t.reg 0 0x3020 = 0 ∧ t.mem = s.mem ∧ t.crews = s.crews) ∧
    (∀ v, (v ≠ 1#64 ∨ busy 0x5030 = true → ignored (.attcmd v)) ∧
      (v = 1#64 → busy 0x5030 = false → ∃ t n, exec (.attcmd v) s = .next t ∧ t.reg 0 0x5030 = 1#64 ∧ t.attest = some (n, s.reg 0 0x5020) ∧
        ∀ j, j < 4 → n.extractLsb' (64 * j) 64 = s.reg 0 (0x5000 + 8 * j))) ∧
    (∀ n a, s.attest = some (n, a) → ∃ t, exec .attestationReportDone s = .next t ∧ t.reg 0 0x5030 = 2#64 ∧ t.attest = none ∧
      t.attReport.extractLsb' 0 3456 = BitVec.ofNat 3456 (s.reportBody n)) ∧
    (∀ stack range limit sec v, stack < 8 → range < 4 → let k := 8 * stack + 2 * range
      (sec = false ∨ (fget 0 s.secure (k + 1)).getLsbD 1 = true → ignored (.seclimitWrite stack range limit sec v)) ∧
      (sec = true → (fget 0 s.secure (k + 1)).getLsbD 1 = false → ∃ t, exec (.seclimitWrite stack range limit sec v) s = .next t ∧
        t = { s with secure := t.secure } ∧
        ∀ j, fget 0 t.secure j = if j = (if limit then k + 1 else k) then v &&& (if limit then 0x7FFFE00003#64 else 0x7FFFE00000#64)
          else fget 0 s.secure j)) ∧
    (∀ v, ∃ t, exec (.rsvbase v) s = .next t ∧ t.reg 0 0x6400 = v ∧ t.reg 0 0x6408 = 0 ∧ t.reg 0 0x6410 = 0 ∧ t = { s with bar0 := t.bar0 }) ∧
    (∀ v, let n := v.toNat % 2 ^ 32
      (n < (s.reg 0 0x6408).toNat ∨ 512 < n - (s.reg 0 0x6410).toNat → ignored (.rsvtail v)) ∧
      ((s.reg 0 0x6408).toNat ≤ n → n - (s.reg 0 0x6410).toNat ≤ 512 → ∃ t, exec (.rsvtail v) s = .next t ∧
        t.reg 0 0x6408 = BitVec.ofNat 64 n ∧ t = { s with bar0 := t.bar0 })) ∧
    (∀ v, let ctx := (s.reg 0 0x6300).toNat
      let fdom := (s.reg 0 0x6308).toNat % 65536
      (v ≠ 1#64 ∨ busy 0x6318 = true → ignored (.fdcmd v)) ∧
      (v = 1#64 → busy 0x6318 = false → ∃ t, exec (.fdcmd v) s = .next t ∧ t.mem = s.mem ∧ t.teams = s.teams ∧
        (s.ctxSec ctx = true → t.reg 0 0x6318 = 2#64 ∧ t.ends = s.ends) ∧
        let holds := (∃ e ∈ s.teams, (s.teamAt e.1).ctx = ctx ∧ (s.teamAt e.1).fdom = fdom) ∨
          ∃ e ∈ s.launches, e.2.ctx = ctx ∧ s.fdomOf e.2 = some fdom ∧ e.2.ended = false
        (s.ctxSec ctx = false → ¬ holds → t.reg 0 0x6318 = 0 ∧ t.ends = s.ends) ∧
        (s.ctxSec ctx = false → holds → t.reg 0 0x6318 = 1#64 ∧
          t.ends = s.ends ++ [{ ctx := ctx, fdom := fdom, crew := none, driver := true }]))) ∧
    (∀ v, let w := (s.reg 0 0x6340).toNat
      let slot := 2 * (w % 1024) + w / 1024 % 2
      let crew := w / 2048 % 32
      let k := 16 * slot + crew
      (v ≠ 1#64 ∨ busy 0x6350 = true → ignored (.cirqcmd v)) ∧
      (v = 1#64 → busy 0x6350 = false → ∃ t, exec (.cirqcmd v) s = .next t ∧ t.mem = s.mem ∧ t.teams = s.teams ∧
        (768 ≤ w % 1024 ∨ (s.slotAt slot).st ≠ 1 ∨ (s.teamAt slot).sec = true ∨ (w / 65536 % 2 = 0 ∧ (s.teamAt slot).ncrew ≤ crew) →
          t.reg 0 0x6350 = 2#64 ∧ t.crews = s.crews) ∧
        (w % 1024 < 768 → (s.slotAt slot).st = 1 → (s.teamAt slot).sec = false → w / 65536 % 2 = 1 → (s.teamAt slot).ncrew ≤ 16 →
          let named (j : Nat) : Prop := 16 * slot ≤ j ∧ j < 16 * slot + (s.teamAt slot).ncrew
          let takes (j : Nat) : Prop := named j ∧ (s.at_ j).liveMask ≠ 0 ∧ (s.crewAt j).halted = false
          (∀ j, (takes j → t.crewAt j = { s.crewAt j with irq := true }) ∧ (¬ takes j → t.crewAt j = s.crewAt j) ∧ (j ∈ t.irqs ↔ takes j)) ∧
          (∀ n, (t.reg 0 0x6350).getLsbD n = true ↔ (n = 0 ∧ ∃ j, takes j) ∨ (n = 1 ∧ ∃ j, named j ∧ ¬ takes j))) ∧
        (w % 1024 < 768 → (s.slotAt slot).st = 1 → (s.teamAt slot).sec = false → w / 65536 % 2 = 0 → crew < (s.teamAt slot).ncrew →
          (∀ j, j ≠ k → t.crewAt j = s.crewAt j) ∧
          ((s.at_ k).liveMask ≠ 0 → (s.crewAt k).halted = false → t.reg 0 0x6350 = 1#64 ∧ t.irqs = [k] ∧
            t.crewAt k = { s.crewAt k with irq := true }) ∧
          ((s.at_ k).liveMask = 0 ∨ (s.crewAt k).halted = true → t.reg 0 0x6350 = 2#64 ∧ t.crews = s.crews))))

/-- R354, R355: a write of a register without an effect of its own. A read-only register keeps its value, a written-1-clears field
loses the bits written 1, any other takes the bits it has. -/
def Sys2Proof.Claims.registerWrites : Prop :=
  ∀ (s : State) (fn off : Nat) (v : BitVec 64), fn < 2 → off % 8 = 0 → off < 65536 →
    (regAt off).1 ≠ .special ∨ (0x7000 ≤ off ∧ off < 0x8000 ∧ v.getLsbD 1 = false) →
    let f := if (regAt off).2 = true then 0 else fn
    ∃ t, exec (.registerWrite fn off v) s = .next t ∧ t = { s with bar0 := t.bar0 } ∧
      (∀ g o, g < 2 → o < 65536 → (g, o) ≠ (f, off) → t.reg g o = s.reg g o) ∧
      match (regAt off).1 with
      | .rw m => t.reg f off = v &&& m
      | .w1c m => t.reg f off = s.reg f off &&& ~~~(v &&& m)
      | .ro => t = s
      | .special => (t.reg f off).extractLsb' 32 32 = v.extractLsb' 32 32

/-- R354, R355, R360, R361, R367, R371, R374, R375, R399, R400: what the host reads, writes and commands. -/
def Obligations.HostCommands : Prop :=
  Claims.hostAccesses ∧ Claims.registerWrites

/-! Boot, power, links, monitors and errors. -/

/-- R18, R19, R338, R370, R372, R426 to R428, R440, R442: the package comes up or halts, heat stops it, power limits it, and its links
fail. The model's own are: the boot values and what the package flash holds, which are opaque (log entries 12 and 112), that the flit of a
replay is free and source 7 counts retrains too (log entry 66), that nothing of the part but the end of a capture comes about after a
thermal trip, where R19 says that issue stops (log entry 75), and that the aged request is recorded by its ports (log entry 69). -/
def Obligations.PackageEvents : Prop :=
  ∀ (s : State),
    (s.booted = false → ∃ t, exec .boot s = .next t ∧ t.booted = true ∧ t.mem = s.mem ∧ t.crews = s.crews ∧
      (Config.bootVerified = true → t.reg 0 0x10 = 1#64 ∧ t.halted = s.halted ∧
        (∀ k, k < 4 → fget 0 t.limits k = Config.errorLimit k) ∧ (∀ j, j < 8 → fget 0 t.meas j = Config.sha256 64 ((Config.stageDigest j).toNat * 2 ^ 256)) ∧
        ∀ j, (fget 0 t.secure (2 * j + 1)).getLsbD 1 = (fget 0 t.secure (2 * j + 1)).getLsbD 0) ∧
      (Config.bootVerified = true → t.retired = Config.flashRetired ∧ ∀ core, core < 768 → Config.flashFenced core = true →
        fget false t.fenced core = true ∧ (t.slotAt (2 * core)).st = 5 ∧ (t.slotAt (2 * core + 1)).st = 5) ∧
      (Config.bootVerified = false → t.reg 0 0x10 = 2#64 ∧ t.halted = true ∧ t.bmc = s.bmc ++ [2])) ∧
    (∀ die, die < 8 → ∃ t, exec (.thermalTrip die) s = .next t ∧ t.halted = true ∧ t.reg 0 0x10 = 3#64 ∧ t.crews = s.crews ∧
      t.bmc = s.bmc ++ [1] ∧
      (s.booted = true → ∀ m ∈ moves t, m = .event .equinoxBufferDone)) ∧
    (∀ watts, ∃ t, exec (.powerWindow watts) s = .next t ∧ t = { s with limited := t.limited } ∧ (3600 < watts → t.limited = true) ∧
      (watts < 3400 → t.limited = false) ∧ (3400 ≤ watts → watts ≤ 3600 → t.limited = s.limited)) ∧
    (∀ die port input, die < 8 → portUnit die port ≠ none → portUnit die input ≠ none → ∃ t, exec (.crossbarAging die port input) s = .next t ∧
      t = { s with aged := t.aged } ∧ (die * 72 + port) * 72 + input ∈ t.aged) ∧
    ∀ link n f, (32 ≤ link ∧ link < 96) ∨ (link < 24 ∧ (link % 3 = 0 → link / 3 % 4 ≠ 0) ∧ (link % 3 = 1 → link / 3 % 4 ≠ 3)) →
      s.link link = (n, f, false) →
      let counted (t : State) : Prop := let k := if link < 24 then tallyKey (link / 3) 7 (link % 3) else tallyKey ((link - 32) / 8) 7 (3 + link % 8)
        ∀ j, fget 0 t.tally j = fget 0 s.tally j + if j = k then 1 else 0
      let lim := if fget 0 s.limits 3 = 0 then 3 else fget 0 s.limits 3
      (n < 8 → ∃ t, exec (.linkReplay link) s = .next t ∧ t = { s with links := t.links, tally := t.tally } ∧ counted t ∧
        (t.link link = (n + 1, f, false) ∨ t.link link = (1, f, false))) ∧
      (8 ≤ n → ∃ t, exec (.linkRetrain link true) s = .next t ∧ t = { s with links := t.links, tally := t.tally } ∧ counted t ∧ t.link link = (0, f, false)) ∧
      (8 ≤ n → f < 2 → ∃ t, exec (.linkRetrain link false) s = .next t ∧ t.link link = (n, f + 1, false) ∧ counted t ∧
        (f + 1 ≠ lim → t = { s with links := t.links, tally := t.tally }) ∧ (f + 1 = lim → t.bmc = s.bmc ++ [4])) ∧
      (8 ≤ n → 2 ≤ f → ∃ t, exec (.linkRetrain link false) s = .next t ∧ t.link link = (0, f + 1, true) ∧ counted t ∧
        t.bmc = s.bmc ++ [3] ++ (if f + 1 = lim then [4] else []) ∧
        (∀ q, link < 24 → farPort link = some q → t.link q = t.link link) ∧
        (link < 24 → t.halted = true ∧ t.reg 0 0x10 = 4#64) ∧
        (24 ≤ link → t.halted = s.halted ∧ (t.reg 0 0x6020).getLsbD (link - 32) = true))

/-- R417, R436 to R440, R442: a monitor counts a sample, CLR resets it, Equinox is triggered and its buffer written, an error counts
for its unit and the first that meets the unit's condition classes it, an error window ends and with that of 1 ms the monitors take
what it has counted, and the health summary is read. The layout of the summary, that errors come from outside, and which samples do, are
the model's (log entries 18, 95 and 111). -/
def Obligations.MonitorEvents : Prop :=
  ∀ (s : State),
    (∀ m v, m < 32 → v.getLsbD 1 = true → ∃ t, exec (.vigilClr m v) s = .next t ∧ t = { s with bar0 := t.bar0 } ∧
      let at_ (off : Nat) : Nat := 0x7000 + 128 * m + off
      t.reg 0 (at_ 8) = 0xFFFFFFFF#64 ∧ ∀ j, 2 ≤ j → j < 12 → t.reg 0 (at_ (8 * j)) = 0) ∧
    (∀ m v, m < 32 → v < 2 ^ 32 → let at_ (off : Nat) : Nat := 0x7000 + 128 * m + off
      let c := s.reg 0 (at_ 0)
      c.toNat / 2 ^ 8 % 256 ∈ [2, 3, 5, 8] → ∃ t, exec (.vigilSample m v) s = .next t ∧ t.crews = s.crews ∧
        (c.getLsbD 0 = false ∨ c.getLsbD 2 = true → t = s) ∧
        (c.getLsbD 0 = true → c.getLsbD 2 = false →
          (t.reg 0 (at_ 0x18)).toNat = min ((s.reg 0 (at_ 0x18)).toNat + 1) (2 ^ 32 - 1) ∧
          (t.reg 0 (at_ 8)).toNat = min (s.reg 0 (at_ 8)).toNat v ∧ (t.reg 0 (at_ 0x10)).toNat = max (s.reg 0 (at_ 0x10)).toNat v ∧
          (c.toNat / 2 ^ 32 ≤ v → (t.reg 0 (at_ 0)).getLsbD 31 = true))) ∧
    (∀ v, ∃ t, exec (.eqtrig v) s = .next t ∧ t.crews = s.crews ∧ t.mem = s.mem ∧
      ((s.reg 0 0x8000).getLsbD 0 = true → t.capture ≠ none ∧ t.reg 0 0x8018 = 1#64 ∧ (t.reg 0 0x8000).getLsbD 0 = false ∧
        t.reg 0 0x8010 = BitVec.ofNat 64 s.clock) ∧
      ((s.reg 0 0x8000).getLsbD 0 = false → t.capture = s.capture ∧ t.reg 0 0x8000 = s.reg 0 0x8000)) ∧
    (∀ x, s.capture = some x → ∃ t,
      exec .equinoxBufferDone s = .next t ∧ t.capture = none ∧ t.reg 0 0x8020 = 1#64 ∧ t.crews = s.crews) ∧
    (∀ kind, kind ≤ 3 → ∃ t, exec (.errorWindowEnd kind) s = .next t ∧ t.crews = s.crews ∧
      (kind = 3 → (∀ k, (t.link k).2.1 = 0) ∧ (∀ k, fget 0 t.tally k = 0) ∧
        ∀ m, m < 32 → let at_ (off : Nat) : Nat := 0x7000 + 128 * m + off
          let c := s.reg 0 (at_ 0)
          let src := c.toNat / 2 ^ 8 % 256
          let v := min (fget 0 s.tally (tallyKey (m / 4) src (c.toNat / 2 ^ 16 % 256))) (2 ^ 32 - 1)
          (src ≠ 6 ∧ src ≠ 7 ∨ c.getLsbD 0 = false ∨ c.getLsbD 2 = true → ∀ j, j < 12 → t.reg 0 (at_ (8 * j)) = s.reg 0 (at_ (8 * j))) ∧
          (src = 6 ∨ src = 7 → c.getLsbD 0 = true → c.getLsbD 2 = false →
            (t.reg 0 (at_ 0x18)).toNat = min ((s.reg 0 (at_ 0x18)).toNat + 1) (2 ^ 32 - 1) ∧
            (t.reg 0 (at_ 8)).toNat = min (s.reg 0 (at_ 8)).toNat v ∧ (t.reg 0 (at_ 0x10)).toNat = max (s.reg 0 (at_ 0x10)).toNat v)) ∧
      (kind ≠ 3 → rising none s.errors = true → ∀ k, fget (0, false, false) t.errors k =
        if k / 2 ^ 40 = kind then (0, false, (fget (0, false, false) s.errors k).2.1) else fget (0, false, false) s.errors k)) ∧
    (let counts (kind unit : Nat) : Nat × Bool × Bool := fget (0, false, false) s.errors (errorKey kind unit)
     let classed (t : State) (kind unit : Nat) : Prop := 4 ∈ t.bmc ∧ (kind = 0 → unit ∈ t.fencing) ∧
       (kind = 1 → ∀ j, j < 8 → 8 * unit + j ∈ t.fencing) ∧ (kind = 2 → unit ∈ t.retired)
     let lim (kind : Nat) : Nat := if fget 0 s.limits kind = 0 then (if kind = 0 then 8 else if kind = 1 then 16 else 2) else fget 0 s.limits kind
     let counted (t : State) (kind unit : Nat) (bad : Bool) : Prop := let old := counts kind unit
       fget (0, false, false) t.errors (errorKey kind unit) = (if bad then (old.1, true, old.2.2) else (old.1 + 1, old.2)) ∧
         (bad = false → old.1 + 1 = lim kind → (kind = 2 → old.2.1 = false) →
           (kind ≠ 2 → old.2 ≠ (true, true)) → classed t kind unit) ∧
         (bad = true → old.2.1 = false → old.1 < lim kind → (kind ≠ 2 → old.2.2 = true) →
           classed t kind unit)
     (∀ g bad, g < 25769803776 → bad = true ∨ g ∉ s.struck → let t := s.strike (.memory g bad)
       counted t 2 (g / 256) bad ∧ ∀ h, let ring := (s.reg 0 0x6200).toNat
         (16 * h + 16 ≤ ring ∨ ring + 16384 ≤ 16 * h) → fget false t.poison h = (bad && h == g || fget false s.poison h)) ∧
     (∀ slot g bad, g < (s.teamAt slot).part.size / 16 → let t := s.strike (.part slot 0 g bad)
       counted t 0 (coreOf slot) bad ∧ (bad = true → fget false (t.teamAt slot).part.poison g = true)) ∧
     ∀ cl bad, counted (s.strike (.text cl bad)) 1 cl bad) ∧
    ∃ t, exec .i3cHealthRead s = .next t ∧ t = { s with hostRead := t.hostRead } ∧
      (t.hostRead.extractLsb' 0 64).toNat = (s.reg 0 0x10).toNat % 8

/-! The encoding, reset and the step. -/

/-- R149 to R151 and the worked encodings of spec/06 to spec/12: words written out decode to their instructions; unassigned opcodes and
nonzero reserved fields do not decode. -/
def Obligations.DecodedWords : Prop :=
  (∀ x ∈ ([
      (0x00018988, 0, .iadd false 0x01 0x89 0x88), (0x21098002, 0, .shli false 0x09 0x80 0x02),
      (0x0002008F, 0x880B0001, .iaddExt false 0x02 0x00 0xB 0x01), (0x17030102, 0x04000000, .bperm false 0x03 0x01 0x02 0x04),
      (0x2B040608, 0, .ffma false 0x04 0x06 0x08), (0x4204038F, 0x8C0D0061, .shfldnExt false 0x04 0x03 0x8C 0xD 0x61),
      (0x54066204, 0x880D0000, .atom 0x06 0x62 0x04 0 0xD 0 0 0 0), (0x63080004, 0, .qdiv 0x08 0x00 0x04),
      (0x81636162, 0, .sadd false 0x63 0x61 0x62), (0x95690008, 0, .mfs false 0x69 0x0008), (0xA767FFF8, 0, .loop 0x67 0xFFF8),
      (0xAA008888, 0, .exit), (0xB1081002, 0, .mcall 0x08 0x10 0x02), (0xBE006403, 0, .qpush 0x64 0x03),
      (0xD2038888, 0x88000001, .tzero 0x03 1), (0xD3020001, 0x88000000, .mma 0x02 0x00 0x01),
      (0xE0666263, 0x64002960, .cpy 0x66 0x62 0x63 0x64 0 1 1 1 3 0), (0xF36A8888, 0x88008820, .cvrecv 0x6A 0x88 0 4 1 1),
      (0xF9660203, 0x88000000, .ttadd 0x66 0x02 0x03)] : List (BitVec 32 × BitVec 32 × Instr)),
    (∃ n, decode (some x.1) (some x.2.1) = .ok (x.2.2, n)) ∧
      decodeTableWord 64 (x.1.toNat + 2 ^ 32 * x.2.1.toNat) = some x.2.2) ∧
  ∀ x ∈ ([(0xFFFFFFFF, 0), (0x27000000, 0), (0x4D000000, 0), (0x98000000, 0), (0x80000001, 0), (0xAA008889, 0),
      (0x54066204, 0x800D0000), (0x0002008F, 0x880B0101)] : List (BitVec 32 × BitVec 32)),
    ∃ r, decode (some x.1) (some x.2) = .error r

/-- R149 to R151: decoding the words of a well-formed instruction gives the instruction and their number, for every instruction with
an encoding and all its operands. -/
def Obligations.RoundTrip : Prop :=
  ∀ (i : Instr) (w : BitVec 32) (rest : List (BitVec 32)), wellFormed i = true → encode i = w :: rest →
    decode (some w) rest.head? = .ok (i, 1 + rest.length)

/-- R149 to R151: what decodes is well formed, and encoding it gives the words that were decoded: each word has one meaning, and no
reserved field is passed over. -/
def Obligations.DecodeEncode : Prop :=
  ∀ (w : BitVec 32) (e : Option (BitVec 32)) (i : Instr) (n : Nat), decode (some w) e = .ok (i, n) →
    wellFormed i = true ∧ encode i = (w :: e.toList).take n

namespace Sys2Proof.Claims

/-- The memory stands in its canonical form and the crews in the order of their keys, each once. -/
def ordered (s : State) : Prop := Memory.wf s.mem = true ∧ rising none s.crews = true

end Sys2Proof.Claims

/-- R354, R370, R374, Tables 16.1, 16.8, 28.1 and 28.3: after reset the registers hold the reset values of their tables, no secure range
covers anything, nothing is bound, and the package comes up next. -/
def Obligations.ResetState : Prop :=
  let s := State.reset
  (∀ fn off, fn < 2 → off < 65536 → s.reg fn off =
    if fn = 0 ∧ off = 0x2050 then 0x3C#64
    else if fn = 0 ∧ 0x7000 ≤ off ∧ off < 0x8000 ∧ off % 128 = 0 then 0xFFFFFFFF00000000#64
    else if fn = 0 ∧ 0x7000 ≤ off ∧ off < 0x8000 ∧ off % 128 = 8 then 0xFFFFFFFF#64
    else if fn = 0 ∧ off = 0x8000 then 0xFE#64
    else 0) ∧
  (∀ a, s.inSecure a = false) ∧ s.crews = [] ∧ s.teams = [] ∧ s.launches = [] ∧ s.clock = 0 ∧ s.booted = false ∧ s.halted = false ∧
    moves s = [.event .boot]

/-- The state after reset is ordered (log entry 1 for the memory's form). -/
def Obligations.ResetOrdered : Prop := Claims.ordered State.reset

/-- Every step keeps the memory in its canonical form and the crews in order (log entry 1). -/
def Obligations.StepKeepsOrder : Prop :=
  ∀ (s t : State), Claims.ordered s → step s = .next t → Claims.ordered t

/-- R51, R61, R149, R171, R372 and log entries 4, 7 and 94: a step that issues for a crew runs the instruction that the words at the
crew's PC decode to, and notes the issue for the picker where the instruction was performed; in a shared issue of both groups the lower
group's runs first, then the other's, in one cycle. R51 gives the two no order: that the lower group's is first is the model's choice (log
entry 8). A step that takes an input runs it, or, of a ring or fabric request before bring-up has ended, holds it; a storage error comes
about before either. -/
def Obligations.StepRunsDecoded : Prop :=
  ∀ (s : State), s.booted = true →
    (∀ k img w i n, s.upsets = [] → s.inputs = [] → (moves s)[Config.pick s.fresh % (moves s).length]? = some (.issue k) →
      (s.crewAt k).run = none →
      let u := s.idle.at_ k
      let at_ := (s.crewAt k).pc.toNat / 4
      let note (ks : List Nat) (t : State) : State := keepPick u ks (toUniform i) (if holdsTwo i = true then 2 else 1) t
      u.image = some img → img.text[at_]? = some w → decode (some w) (u.textWord ((s.crewAt k).pc.toNat + 4)) = .ok (i, n) →
      (∀ o, exec i u = o → (∀ t, o ≠ .next t) → step s = orIdle s o) ∧
      (joined u k = none → ∀ t, exec i u = .next t → step s = .next (if t.fresh = u.fresh then t else note [k] t)) ∧
      ∀ j t t2, joined u k = some j → exec i u = .next t → t.fresh ≠ u.fresh → (t.at_ j).canIssue = true →
        (t.crewAt j).pc = (u.crewAt j).pc → (t.at_ j).fetch = .ok i → let v := sameCycle u i (t.at_ j)
        exec i v = .next t2 → t2.fresh ≠ v.fresh →
        step s = .next (note [k, j] { t2 with fresh := max t.fresh t2.fresh, clock := max t.clock t2.clock })) ∧
    (∀ i r, s.upsets = [] → s.inputs = some i :: r →
      (isInput i = true → s.opened = true ∨ isRequest i = false → ∀ t, exec i { s with inputs := r, fresh := s.fresh + 1 } = .next t →
        step s = .next t) ∧
      (isRequest i = true → s.opened = false →
        step s = .next { s with inputs := r, fresh := s.fresh + 1, early := s.early ++ [i] })) ∧
    ∀ u r, s.upsets = u :: r → step s = .next (({ s with upsets := r, fresh := s.fresh + 1 } : State).strike u)
end

