-- ==== Sys2Proof/Laws/Exec.lean ====
section
/-! SUPPORT. One equation per instruction for the dispatch: exec is the instruction's meaning. Cite these and never unfold
exec, whose match has an arm for every constructor. -/
namespace Sys2Proof.Machine

@[simp] theorem exec_iadd {nw d a b} (s : State) : exec (.iadd nw d a b) s = execIadd nw d a b s := rfl
@[simp] theorem exec_iaddExt {nw d a fmt b} (s : State) : exec (.iaddExt nw d a fmt b) s = execIaddExt nw d a fmt b s := rfl
@[simp] theorem exec_isub {nw d a b} (s : State) : exec (.isub nw d a b) s = execIsub nw d a b s := rfl
@[simp] theorem exec_isubExt {nw d a fmt b} (s : State) : exec (.isubExt nw d a fmt b) s = execIsubExt nw d a fmt b s := rfl
@[simp] theorem exec_imul {nw d a b} (s : State) : exec (.imul nw d a b) s = execImul nw d a b s := rfl
@[simp] theorem exec_imulExt {nw d a fmt b} (s : State) : exec (.imulExt nw d a fmt b) s = execImulExt nw d a fmt b s := rfl
@[simp] theorem exec_imulhs {nw d a b} (s : State) : exec (.imulhs nw d a b) s = execImulhs nw d a b s := rfl
@[simp] theorem exec_imulhsExt {nw d a fmt b} (s : State) : exec (.imulhsExt nw d a fmt b) s = execImulhsExt nw d a fmt b s := rfl
@[simp] theorem exec_imulhu {nw d a b} (s : State) : exec (.imulhu nw d a b) s = execImulhu nw d a b s := rfl
@[simp] theorem exec_imulhuExt {nw d a fmt b} (s : State) : exec (.imulhuExt nw d a fmt b) s = execImulhuExt nw d a fmt b s := rfl
@[simp] theorem exec_imad {nw d a b c} (s : State) : exec (.imad nw d a b c) s = execImad nw d a b c s := rfl
@[simp] theorem exec_imin {nw d a b} (s : State) : exec (.imin nw d a b) s = execImin nw d a b s := rfl
@[simp] theorem exec_imax {nw d a b} (s : State) : exec (.imax nw d a b) s = execImax nw d a b s := rfl
@[simp] theorem exec_umin {nw d a b} (s : State) : exec (.umin nw d a b) s = execUmin nw d a b s := rfl
@[simp] theorem exec_umax {nw d a b} (s : State) : exec (.umax nw d a b) s = execUmax nw d a b s := rfl
@[simp] theorem exec_vand {nw d a b} (s : State) : exec (.vand nw d a b) s = execVand nw d a b s := rfl
@[simp] theorem exec_vor {nw d a b} (s : State) : exec (.vor nw d a b) s = execVor nw d a b s := rfl
@[simp] theorem exec_vxor {nw d a b} (s : State) : exec (.vxor nw d a b) s = execVxor nw d a b s := rfl
@[simp] theorem exec_vandn {nw d a b} (s : State) : exec (.vandn nw d a b) s = execVandn nw d a b s := rfl
@[simp] theorem exec_shl {nw d a b} (s : State) : exec (.shl nw d a b) s = execShl nw d a b s := rfl
@[simp] theorem exec_shr {nw d a b} (s : State) : exec (.shr nw d a b) s = execShr nw d a b s := rfl
@[simp] theorem exec_sar {nw d a b} (s : State) : exec (.sar nw d a b) s = execSar nw d a b s := rfl
@[simp] theorem exec_rotl {nw d a b} (s : State) : exec (.rotl nw d a b) s = execRotl nw d a b s := rfl
@[simp] theorem exec_popc {nw d a} (s : State) : exec (.popc nw d a) s = execPopc nw d a s := rfl
@[simp] theorem exec_clz {nw d a} (s : State) : exec (.clz nw d a) s = execClz nw d a s := rfl
@[simp] theorem exec_brev {nw d a} (s : State) : exec (.brev nw d a) s = execBrev nw d a s := rfl
@[simp] theorem exec_bfx {nw d a b sx} (s : State) : exec (.bfx nw d a b sx) s = execBfx nw d a b sx s := rfl
@[simp] theorem exec_bfi {nw d a b c} (s : State) : exec (.bfi nw d a b c) s = execBfi nw d a b c s := rfl
@[simp] theorem exec_bperm {nw d a b c} (s : State) : exec (.bperm nw d a b c) s = execBperm nw d a b c s := rfl
@[simp] theorem exec_bitf {nw d a b c f1 f0} (s : State) : exec (.bitf nw d a b c f1 f0) s = execBitf nw d a b c f1 f0 s := rfl
@[simp] theorem exec_iadd64 {nw d a b} (s : State) : exec (.iadd64 nw d a b) s = execIadd64 nw d a b s := rfl
@[simp] theorem exec_isub64 {nw d a b} (s : State) : exec (.isub64 nw d a b) s = execIsub64 nw d a b s := rfl
@[simp] theorem exec_imulw {nw d a b} (s : State) : exec (.imulw nw d a b) s = execImulw nw d a b s := rfl
@[simp] theorem exec_icmp {nw d a b c cond} (s : State) : exec (.icmp nw d a b c cond) s = execIcmp nw d a b c cond s := rfl
@[simp] theorem exec_sel {nw d a b c p} (s : State) : exec (.sel nw d a b c p) s = execSel nw d a b c p s := rfl
@[simp] theorem exec_mov {nw d a} (s : State) : exec (.mov nw d a) s = execMov nw d a s := rfl
@[simp] theorem exec_movi {nw d imm} (s : State) : exec (.movi nw d imm) s = execMovi nw d imm s := rfl
@[simp] theorem exec_iaddi {nw d a imm} (s : State) : exec (.iaddi nw d a imm) s = execIaddi nw d a imm s := rfl
@[simp] theorem exec_shli {nw d a imm} (s : State) : exec (.shli nw d a imm) s = execShli nw d a imm s := rfl
@[simp] theorem exec_shri {nw d a imm} (s : State) : exec (.shri nw d a imm) s = execShri nw d a imm s := rfl
@[simp] theorem exec_sari {nw d a imm} (s : State) : exec (.sari nw d a imm) s = execSari nw d a imm s := rfl
@[simp] theorem exec_andi {nw d a imm} (s : State) : exec (.andi nw d a imm) s = execAndi nw d a imm s := rfl
@[simp] theorem exec_ori {nw d a imm} (s : State) : exec (.ori nw d a imm) s = execOri nw d a imm s := rfl
@[simp] theorem exec_xori {nw d a imm} (s : State) : exec (.xori nw d a imm) s = execXori nw d a imm s := rfl
@[simp] theorem exec_fadd {nw d a b} (s : State) : exec (.fadd nw d a b) s = execFadd nw d a b s := rfl
@[simp] theorem exec_faddExt {nw d a fmt b} (s : State) : exec (.faddExt nw d a fmt b) s = execFaddExt nw d a fmt b s := rfl
@[simp] theorem exec_fsub {nw d a b} (s : State) : exec (.fsub nw d a b) s = execFsub nw d a b s := rfl
@[simp] theorem exec_fsubExt {nw d a fmt b} (s : State) : exec (.fsubExt nw d a fmt b) s = execFsubExt nw d a fmt b s := rfl
@[simp] theorem exec_fmul {nw d a b} (s : State) : exec (.fmul nw d a b) s = execFmul nw d a b s := rfl
@[simp] theorem exec_fmulExt {nw d a fmt b} (s : State) : exec (.fmulExt nw d a fmt b) s = execFmulExt nw d a fmt b s := rfl
@[simp] theorem exec_ffma {nw d a b} (s : State) : exec (.ffma nw d a b) s = execFfma nw d a b s := rfl
@[simp] theorem exec_ffmaExt {nw d a c fmt b} (s : State) : exec (.ffmaExt nw d a c fmt b) s = execFfmaExt nw d a c fmt b s := rfl
@[simp] theorem exec_fmin {nw d a b} (s : State) : exec (.fmin nw d a b) s = execFmin nw d a b s := rfl
@[simp] theorem exec_fminExt {nw d a fmt b} (s : State) : exec (.fminExt nw d a fmt b) s = execFminExt nw d a fmt b s := rfl
@[simp] theorem exec_fmax {nw d a b} (s : State) : exec (.fmax nw d a b) s = execFmax nw d a b s := rfl
@[simp] theorem exec_fmaxExt {nw d a fmt b} (s : State) : exec (.fmaxExt nw d a fmt b) s = execFmaxExt nw d a fmt b s := rfl
@[simp] theorem exec_fminn {nw d a b} (s : State) : exec (.fminn nw d a b) s = execFminn nw d a b s := rfl
@[simp] theorem exec_fminnExt {nw d a fmt b} (s : State) : exec (.fminnExt nw d a fmt b) s = execFminnExt nw d a fmt b s := rfl
@[simp] theorem exec_fmaxn {nw d a b} (s : State) : exec (.fmaxn nw d a b) s = execFmaxn nw d a b s := rfl
@[simp] theorem exec_fmaxnExt {nw d a fmt b} (s : State) : exec (.fmaxnExt nw d a fmt b) s = execFmaxnExt nw d a fmt b s := rfl
@[simp] theorem exec_fcmp {nw d a b c cond fmt} (s : State) : exec (.fcmp nw d a b c cond fmt) s = execFcmp nw d a b c cond fmt s := rfl
@[simp] theorem exec_fclass {nw d a} (s : State) : exec (.fclass nw d a) s = execFclass nw d a s := rfl
@[simp] theorem exec_fclassExt {nw d a fmt} (s : State) : exec (.fclassExt nw d a fmt) s = execFclassExt nw d a fmt s := rfl
@[simp] theorem exec_frcp {nw d a} (s : State) : exec (.frcp nw d a) s = execFrcp nw d a s := rfl
@[simp] theorem exec_frcpExt {nw d a fmt} (s : State) : exec (.frcpExt nw d a fmt) s = execFrcpExt nw d a fmt s := rfl
@[simp] theorem exec_frsq {nw d a} (s : State) : exec (.frsq nw d a) s = execFrsq nw d a s := rfl
@[simp] theorem exec_frsqExt {nw d a fmt} (s : State) : exec (.frsqExt nw d a fmt) s = execFrsqExt nw d a fmt s := rfl
@[simp] theorem exec_fexp2 {nw d a} (s : State) : exec (.fexp2 nw d a) s = execFexp2 nw d a s := rfl
@[simp] theorem exec_fexp2Ext {nw d a fmt} (s : State) : exec (.fexp2Ext nw d a fmt) s = execFexp2Ext nw d a fmt s := rfl
@[simp] theorem exec_flog2 {nw d a} (s : State) : exec (.flog2 nw d a) s = execFlog2 nw d a s := rfl
@[simp] theorem exec_flog2Ext {nw d a fmt} (s : State) : exec (.flog2Ext nw d a fmt) s = execFlog2Ext nw d a fmt s := rfl
@[simp] theorem exec_fsinpi {nw d a} (s : State) : exec (.fsinpi nw d a) s = execFsinpi nw d a s := rfl
@[simp] theorem exec_fsinpiExt {nw d a fmt} (s : State) : exec (.fsinpiExt nw d a fmt) s = execFsinpiExt nw d a fmt s := rfl
@[simp] theorem exec_fcospi {nw d a} (s : State) : exec (.fcospi nw d a) s = execFcospi nw d a s := rfl
@[simp] theorem exec_fcospiExt {nw d a fmt} (s : State) : exec (.fcospiExt nw d a fmt) s = execFcospiExt nw d a fmt s := rfl
@[simp] theorem exec_fsqrt {nw d a} (s : State) : exec (.fsqrt nw d a) s = execFsqrt nw d a s := rfl
@[simp] theorem exec_fsqrtExt {nw d a fmt} (s : State) : exec (.fsqrtExt nw d a fmt) s = execFsqrtExt nw d a fmt s := rfl
@[simp] theorem exec_frnd {nw d a} (s : State) : exec (.frnd nw d a) s = execFrnd nw d a s := rfl
@[simp] theorem exec_frndExt {nw d a fmt} (s : State) : exec (.frndExt nw d a fmt) s = execFrndExt nw d a fmt s := rfl
@[simp] theorem exec_cvt {nw d a fmt six sfmt} (s : State) : exec (.cvt nw d a fmt six sfmt) s = execCvt nw d a fmt six sfmt s := rfl
@[simp] theorem exec_cvtsc {nw d a b fmt six sfmt} (s : State) : exec (.cvtsc nw d a b fmt six sfmt) s = execCvtsc nw d a b fmt six sfmt s := rfl
@[simp] theorem exec_pack {nw d a b fmt idx} (s : State) : exec (.pack nw d a b fmt idx) s = execPack nw d a b fmt idx s := rfl
@[simp] theorem exec_unpk {nw d a fmt idx} (s : State) : exec (.unpk nw d a fmt idx) s = execUnpk nw d a fmt idx s := rfl
@[simp] theorem exec_idot4 {nw d a b} (s : State) : exec (.idot4 nw d a b) s = execIdot4 nw d a b s := rfl
@[simp] theorem exec_idot4Ext {nw d a c fmt b} (s : State) : exec (.idot4Ext nw d a c fmt b) s = execIdot4Ext nw d a c fmt b s := rfl
@[simp] theorem exec_fdot2 {nw d a b} (s : State) : exec (.fdot2 nw d a b) s = execFdot2 nw d a b s := rfl
@[simp] theorem exec_fdot2Ext {nw d a c fmt b} (s : State) : exec (.fdot2Ext nw d a c fmt b) s = execFdot2Ext nw d a c fmt b s := rfl
@[simp] theorem exec_shfl {nw d a b} (s : State) : exec (.shfl nw d a b) s = execShfl nw d a b s := rfl
@[simp] theorem exec_shflExt {nw d a c fmt b} (s : State) : exec (.shflExt nw d a c fmt b) s = execShflExt nw d a c fmt b s := rfl
@[simp] theorem exec_shflup {nw d a b} (s : State) : exec (.shflup nw d a b) s = execShflup nw d a b s := rfl
@[simp] theorem exec_shflupExt {nw d a c fmt b} (s : State) : exec (.shflupExt nw d a c fmt b) s = execShflupExt nw d a c fmt b s := rfl
@[simp] theorem exec_shfldn {nw d a b} (s : State) : exec (.shfldn nw d a b) s = execShfldn nw d a b s := rfl
@[simp] theorem exec_shfldnExt {nw d a c fmt b} (s : State) : exec (.shfldnExt nw d a c fmt b) s = execShfldnExt nw d a c fmt b s := rfl
@[simp] theorem exec_shflx {nw d a b} (s : State) : exec (.shflx nw d a b) s = execShflx nw d a b s := rfl
@[simp] theorem exec_shflxExt {nw d a c fmt b} (s : State) : exec (.shflxExt nw d a c fmt b) s = execShflxExt nw d a c fmt b s := rfl
@[simp] theorem exec_lred {nw d a fmt opr} (s : State) : exec (.lred nw d a fmt opr) s = execLred nw d a fmt opr s := rfl
@[simp] theorem exec_lscan {nw d a c fmt excl opr} (s : State) : exec (.lscan nw d a c fmt excl opr) s = execLscan nw d a c fmt excl opr s := rfl
@[simp] theorem exec_vote {nw d a mode} (s : State) : exec (.vote nw d a mode) s = execVote nw d a mode s := rfl
@[simp] theorem exec_bcast {nw d a b c} (s : State) : exec (.bcast nw d a b c) s = execBcast nw d a b c s := rfl
@[simp] theorem exec_rvsend {a n1 slot} (s : State) : exec (.rvsend a n1 slot) s = execRvsend a n1 slot s := rfl
@[simp] theorem exec_rvrecv {d c n1 slot} (s : State) : exec (.rvrecv d c n1 slot) s = execRvrecv d c n1 slot s := rfl
@[simp] theorem exec_xchgx {d a n1 ch} (s : State) : exec (.xchgx d a n1 ch) s = execXchgx d a n1 ch s := rfl
@[simp] theorem exec_lnsadd {nw d a b} (s : State) : exec (.lnsadd nw d a b) s = execLnsadd nw d a b s := rfl
@[simp] theorem exec_lnsmul {nw d a b} (s : State) : exec (.lnsmul nw d a b) s = execLnsmul nw d a b s := rfl
@[simp] theorem exec_ld {d a strm fmt scope ord imm} (s : State) : exec (.ld d a strm fmt scope ord imm) s = execLd d a strm fmt scope ord imm s := rfl
@[simp] theorem exec_st {a b strm fmt scope ord imm} (s : State) : exec (.st a b strm fmt scope ord imm) s = execSt a b strm fmt scope ord imm s := rfl
@[simp] theorem exec_lds {d a strm fmt level fe imm} (s : State) : exec (.lds d a strm fmt level fe imm) s = execLds d a strm fmt level fe imm s := rfl
@[simp] theorem exec_sts {a b strm fmt level fe imm} (s : State) : exec (.sts a b strm fmt level fe imm) s = execSts a b strm fmt level fe imm s := rfl
@[simp] theorem exec_atom {d a b strm fmt scope ord aop off} (s : State) : exec (.atom d a b strm fmt scope ord aop off) s = execAtom d a b strm fmt scope ord aop off s := rfl
@[simp] theorem exec_red {a b strm fmt scope ord aop off} (s : State) : exec (.red a b strm fmt scope ord aop off) s = execRed a b strm fmt scope ord aop off s := rfl
@[simp] theorem exec_cas {d a b c strm fmt scope ord w64 off} (s : State) : exec (.cas d a b c strm fmt scope ord w64 off) s = execCas d a b c strm fmt scope ord w64 off s := rfl
@[simp] theorem exec_kvmap {d a b c strm scope ord sel} (s : State) : exec (.kvmap d a b c strm scope ord sel) s = execKvmap d a b c strm scope ord sel s := rfl
@[simp] theorem exec_kvapp {a b c strm scope ord} (s : State) : exec (.kvapp a b c strm scope ord) s = execKvapp a b c strm scope ord s := rfl
@[simp] theorem exec_qadd {d a b} (s : State) : exec (.qadd d a b) s = execQadd d a b s := rfl
@[simp] theorem exec_qsub {d a b} (s : State) : exec (.qsub d a b) s = execQsub d a b s := rfl
@[simp] theorem exec_qmul {d a b} (s : State) : exec (.qmul d a b) s = execQmul d a b s := rfl
@[simp] theorem exec_qdiv {d a b} (s : State) : exec (.qdiv d a b) s = execQdiv d a b s := rfl
@[simp] theorem exec_qneg {d a} (s : State) : exec (.qneg d a) s = execQneg d a s := rfl
@[simp] theorem exec_qenc {d a b} (s : State) : exec (.qenc d a b) s = execQenc d a b s := rfl
@[simp] theorem exec_qdec {d a} (s : State) : exec (.qdec d a) s = execQdec d a s := rfl
@[simp] theorem exec_nop (s : State) : exec .nop s = execNop s := rfl
@[simp] theorem exec_sadd {nw d a b} (s : State) : exec (.sadd nw d a b) s = execSadd nw d a b s := rfl
@[simp] theorem exec_ssub {nw d a b} (s : State) : exec (.ssub nw d a b) s = execSsub nw d a b s := rfl
@[simp] theorem exec_smul {nw d a b} (s : State) : exec (.smul nw d a b) s = execSmul nw d a b s := rfl
@[simp] theorem exec_sand {nw d a b} (s : State) : exec (.sand nw d a b) s = execSand nw d a b s := rfl
@[simp] theorem exec_sor {nw d a b} (s : State) : exec (.sor nw d a b) s = execSor nw d a b s := rfl
@[simp] theorem exec_sxor {nw d a b} (s : State) : exec (.sxor nw d a b) s = execSxor nw d a b s := rfl
@[simp] theorem exec_sshl {nw d a b} (s : State) : exec (.sshl nw d a b) s = execSshl nw d a b s := rfl
@[simp] theorem exec_sshr {nw d a b} (s : State) : exec (.sshr nw d a b) s = execSshr nw d a b s := rfl
@[simp] theorem exec_ssar {nw d a b} (s : State) : exec (.ssar nw d a b) s = execSsar nw d a b s := rfl
@[simp] theorem exec_smin {nw d a b} (s : State) : exec (.smin nw d a b) s = execSmin nw d a b s := rfl
@[simp] theorem exec_smax {nw d a b} (s : State) : exec (.smax nw d a b) s = execSmax nw d a b s := rfl
@[simp] theorem exec_smov {nw d a} (s : State) : exec (.smov nw d a) s = execSmov nw d a s := rfl
@[simp] theorem exec_spopc {nw d a} (s : State) : exec (.spopc nw d a) s = execSpopc nw d a s := rfl
@[simp] theorem exec_sclz {nw d a} (s : State) : exec (.sclz nw d a) s = execSclz nw d a s := rfl
@[simp] theorem exec_sffs {nw d a} (s : State) : exec (.sffs nw d a) s = execSffs nw d a s := rfl
@[simp] theorem exec_saddi {nw d imm} (s : State) : exec (.saddi nw d imm) s = execSaddi nw d imm s := rfl
@[simp] theorem exec_smovi {nw d imm} (s : State) : exec (.smovi nw d imm) s = execSmovi nw d imm s := rfl
@[simp] theorem exec_smovl {nw d imm} (s : State) : exec (.smovl nw d imm) s = execSmovl nw d imm s := rfl
@[simp] theorem exec_smovh {nw d imm} (s : State) : exec (.smovh nw d imm) s = execSmovh nw d imm s := rfl
@[simp] theorem exec_scmp {nw d a b cond} (s : State) : exec (.scmp nw d a b cond) s = execScmp nw d a b cond s := rfl
@[simp] theorem exec_mfs {nw d imm} (s : State) : exec (.mfs nw d imm) s = execMfs nw d imm s := rfl
@[simp] theorem exec_mts {d imm} (s : State) : exec (.mts d imm) s = execMts d imm s := rfl
@[simp] theorem exec_mvtcTo {d a} (s : State) : exec (.mvtcTo d a) s = execMvtcTo d a s := rfl
@[simp] theorem exec_mvtcFrom {nw d a} (s : State) : exec (.mvtcFrom nw d a) s = execMvtcFrom nw d a s := rfl
@[simp] theorem exec_bra {off} (s : State) : exec (.bra off) s = execBra off s := rfl
@[simp] theorem exec_call {off} (s : State) : exec (.call off) s = execCall off s := rfl
@[simp] theorem exec_brz {d imm} (s : State) : exec (.brz d imm) s = execBrz d imm s := rfl
@[simp] theorem exec_brnz {d imm} (s : State) : exec (.brnz d imm) s = execBrnz d imm s := rfl
@[simp] theorem exec_brany {d imm} (s : State) : exec (.brany d imm) s = execBrany d imm s := rfl
@[simp] theorem exec_brall {d imm} (s : State) : exec (.brall d imm) s = execBrall d imm s := rfl
@[simp] theorem exec_brnone {d imm} (s : State) : exec (.brnone d imm) s = execBrnone d imm s := rfl
@[simp] theorem exec_loop {d imm} (s : State) : exec (.loop d imm) s = execLoop d imm s := rfl
@[simp] theorem exec_ret {a} (s : State) : exec (.ret a) s = execRet a s := rfl
@[simp] theorem exec_jmpr {nw d a} (s : State) : exec (.jmpr nw d a) s = execJmpr nw d a s := rfl
@[simp] theorem exec_exit (s : State) : exec .exit s = execExit s := rfl
@[simp] theorem exec_exmand {a} (s : State) : exec (.exmand a) s = execExmand a s := rfl
@[simp] theorem exec_exmset {a} (s : State) : exec (.exmset a) s = execExmset a s := rfl
@[simp] theorem exec_trap {imm} (s : State) : exec (.trap imm) s = execTrap imm s := rfl
@[simp] theorem exec_tret (s : State) : exec .tret s = execTret s := rfl
@[simp] theorem exec_ckpt (s : State) : exec .ckpt s = execCkpt s := rfl
@[simp] theorem exec_rep {cnt sd sa sb str} (s : State) : exec (.rep cnt sd sa sb str) s = execRep cnt sd sa sb str s := rfl
@[simp] theorem exec_mcall {d a b} (s : State) : exec (.mcall d a b) s = execMcall d a b s := rfl
@[simp] theorem exec_yield_ (s : State) : exec .yield_ s = execYield s := rfl
@[simp] theorem exec_elect {nw d a} (s : State) : exec (.elect nw d a) s = execElect nw d a s := rfl
@[simp] theorem exec_bar {scope ord id} (s : State) : exec (.bar scope ord id) s = execBar scope ord id s := rfl
@[simp] theorem exec_bararv {scope ord id} (s : State) : exec (.bararv scope ord id) s = execBararv scope ord id s := rfl
@[simp] theorem exec_barwt {scope ord id} (s : State) : exec (.barwt scope ord id) s = execBarwt scope ord id s := rfl
@[simp] theorem exec_fence {strm scope ord} (s : State) : exec (.fence strm scope ord) s = execFence strm scope ord s := rfl
@[simp] theorem exec_sfence {a scope ord} (s : State) : exec (.sfence a scope ord) s = execSfence a scope ord s := rfl
@[simp] theorem exec_qfence {d scope ord qmask} (s : State) : exec (.qfence d scope ord qmask) s = execQfence d scope ord qmask s := rfl
@[simp] theorem exec_qpush {a b} (s : State) : exec (.qpush a b) s = execQpush a b s := rfl
@[simp] theorem exec_qpop {d b} (s : State) : exec (.qpop d b) s = execQpop d b s := rfl
@[simp] theorem exec_evset {a scope ord win} (s : State) : exec (.evset a scope ord win) s = execEvset a scope ord win s := rfl
@[simp] theorem exec_evclr {a scope ord win} (s : State) : exec (.evclr a scope ord win) s = execEvclr a scope ord win s := rfl
@[simp] theorem exec_evwait {a scope ord any win} (s : State) : exec (.evwait a scope ord any win) s = execEvwait a scope ord any win s := rfl
@[simp] theorem exec_acqtok {b} (s : State) : exec (.acqtok b) s = execAcqtok b s := rfl
@[simp] theorem exec_reltok {b} (s : State) : exec (.reltok b) s = execReltok b s := rfl
@[simp] theorem exec_tld {d a b c strm scope ord q dr dc} (s : State) : exec (.tld d a b c strm scope ord q dr dc) s = execTld d a b c strm scope ord q dr dc s := rfl
@[simp] theorem exec_tst {d a b c strm scope ord q dr dc} (s : State) : exec (.tst d a b c strm scope ord q dr dc) s = execTst d a b c strm scope ord q dr dc s := rfl
@[simp] theorem exec_tzero {d kind} (s : State) : exec (.tzero d kind) s = execTzero d kind s := rfl
@[simp] theorem exec_mma {d a b} (s : State) : exec (.mma d a b) s = execMma d a b s := rfl
@[simp] theorem exec_mmas {d a b sb sa} (s : State) : exec (.mmas d a b sb sa) s = execMmas d a b sb sa s := rfl
@[simp] theorem exec_mmam {d a b tm} (s : State) : exec (.mmam d a b tm) s = execMmam d a b tm s := rfl
@[simp] theorem exec_accrd {d a b row} (s : State) : exec (.accrd d a b row) s = execAccrd d a b row s := rfl
@[simp] theorem exec_accwr {a b c row} (s : State) : exec (.accwr a b c row) s = execAccwr a b c row s := rfl
@[simp] theorem exec_ttask {d a strm scope ord q} (s : State) : exec (.ttask d a strm scope ord q) s = execTtask d a strm scope ord q s := rfl
@[simp] theorem exec_tdesc {d a c strm scope ord q} (s : State) : exec (.tdesc d a c strm scope ord q) s = execTdesc d a c strm scope ord q s := rfl
@[simp] theorem exec_remap {d a c strm scope ord q} (s : State) : exec (.remap d a c strm scope ord q) s = execRemap d a c strm scope ord q s := rfl
@[simp] theorem exec_cpy {d a b c strm scope ord q sloc dloc} (s : State) : exec (.cpy d a b c strm scope ord q sloc dloc) s = execCpy d a b c strm scope ord q sloc dloc s := rfl
@[simp] theorem exec_cpyTensor {d a b c strm scope ord q} (s : State) : exec (.cpyTensor d a b c strm scope ord q) s = execCpyTensor d a b c strm scope ord q s := rfl
@[simp] theorem exec_cpyacc {d a b c strm fmt scope ord q sloc dloc} (s : State) : exec (.cpyacc d a b c strm fmt scope ord q sloc dloc) s = execCpyacc d a b c strm fmt scope ord q sloc dloc s := rfl
@[simp] theorem exec_cpydd {d a b c strm scope ord q sloc} (s : State) : exec (.cpydd d a b c strm scope ord q sloc) s = execCpydd d a b c strm scope ord q sloc s := rfl
@[simp] theorem exec_gather {d a strm scope ord q sloc dloc} (s : State) : exec (.gather d a strm scope ord q sloc dloc) s = execGather d a strm scope ord q sloc dloc s := rfl
@[simp] theorem exec_mcast {d a b c strm scope ord q sloc dlev} (s : State) : exec (.mcast d a b c strm scope ord q sloc dlev) s = execMcast d a b c strm scope ord q sloc dlev s := rfl
@[simp] theorem exec_mcastTensor {d a b c strm scope ord q dlev} (s : State) : exec (.mcastTensor d a b c strm scope ord q dlev) s = execMcastTensor d a b c strm scope ord q dlev s := rfl
@[simp] theorem exec_bclose (s : State) : exec .bclose s = execBclose s := rfl
@[simp] theorem exec_bwait {scope ord n} (s : State) : exec (.bwait scope ord n) s = execBwait scope ord n s := rfl
@[simp] theorem exec_crmerge {d a b c strm scope ord q slot} (s : State) : exec (.crmerge d a b c strm scope ord q slot) s = execCrmerge d a b c strm scope ord q slot s := rfl
@[simp] theorem exec_crfin {d a b c strm scope ord q slot} (s : State) : exec (.crfin d a b c strm scope ord q slot) s = execCrfin d a b c strm scope ord q slot s := rfl
@[simp] theorem exec_cvopen {d a strm scope ord} (s : State) : exec (.cvopen d a strm scope ord) s = execCvopen d a strm scope ord s := rfl
@[simp] theorem exec_cvbind {a strm scope ord rr role} (s : State) : exec (.cvbind a strm scope ord rr role) s = execCvbind a strm scope ord rr role s := rfl
@[simp] theorem exec_cvsend {a b strm scope ord im rr kind} (s : State) : exec (.cvsend a b strm scope ord im rr kind) s = execCvsend a b strm scope ord im rr kind s := rfl
@[simp] theorem exec_cvrecv {d a strm scope ord rr} (s : State) : exec (.cvrecv d a strm scope ord rr) s = execCvrecv d a strm scope ord rr s := rfl
@[simp] theorem exec_cvchoose {strm scope ord rr kind} (s : State) : exec (.cvchoose strm scope ord rr kind) s = execCvchoose strm scope ord rr kind s := rfl
@[simp] theorem exec_cvdeleg {strm scope ord rrp rr kind} (s : State) : exec (.cvdeleg strm scope ord rrp rr kind) s = execCvdeleg strm scope ord rrp rr kind s := rfl
@[simp] theorem exec_cvclose {strm scope ord rr} (s : State) : exec (.cvclose strm scope ord rr) s = execCvclose strm scope ord rr s := rfl
@[simp] theorem exec_ttclr {a} (s : State) : exec (.ttclr a) s = execTtclr a s := rfl
@[simp] theorem exec_ttadd {d a b} (s : State) : exec (.ttadd d a b) s = execTtadd d a b s := rfl
@[simp] theorem exec_ttanc {a b} (s : State) : exec (.ttanc a b) s = execTtanc a b s := rfl
@[simp] theorem exec_ttpos {d a sel} (s : State) : exec (.ttpos d a sel) s = execTtpos d a sel s := rfl
@[simp] theorem exec_ttprune {d a c} (s : State) : exec (.ttprune d a c) s = execTtprune d a c s := rfl
@[simp] theorem exec_instructionFetchFault {crew} (s : State) : exec (.instructionFetchFault crew) s = execInstructionFetchFault crew s := rfl
@[simp] theorem exec_chainAbandon {crew} (s : State) : exec (.chainAbandon crew) s = execChainAbandon crew s := rfl
@[simp] theorem exec_chainResume {crew} (s : State) : exec (.chainResume crew) s = execChainResume crew s := rfl
@[simp] theorem exec_pickerUrgent {crew} (s : State) : exec (.pickerUrgent crew) s = execPickerUrgent crew s := rfl
@[simp] theorem exec_handlerInstructionLimit {crew} (s : State) : exec (.handlerInstructionLimit crew) s = execHandlerInstructionLimit crew s := rfl
@[simp] theorem exec_handlerWaitLimit {crew} (s : State) : exec (.handlerWaitLimit crew) s = execHandlerWaitLimit crew s := rfl
@[simp] theorem exec_crewInterruptDelivery {crew} (s : State) : exec (.crewInterruptDelivery crew) s = execCrewInterruptDelivery crew s := rfl
@[simp] theorem exec_teamRetire {slot} (s : State) : exec (.teamRetire slot) s = execTeamRetire slot s := rfl
@[simp] theorem exec_evecWriteback {ctx} (s : State) : exec (.evecWriteback ctx) s = execEvecWriteback ctx s := rfl
@[simp] theorem exec_almanacSchedule {act launch slot} (s : State) : exec (.almanacSchedule act launch slot) s = execAlmanacSchedule act launch slot s := rfl
@[simp] theorem exec_slotBind {slot} (s : State) : exec (.slotBind slot) s = execSlotBind slot s := rfl
@[simp] theorem exec_slotRestore {slot} (s : State) : exec (.slotRestore slot) s = execSlotRestore slot s := rfl
@[simp] theorem exec_slotPreempt {slot} (s : State) : exec (.slotPreempt slot) s = execSlotPreempt slot s := rfl
@[simp] theorem exec_slotOpReserved {slot} (s : State) : exec (.slotOpReserved slot) s = execSlotOpReserved slot s := rfl
@[simp] theorem exec_slotHoldUpdate {slot hold prio} (s : State) : exec (.slotHoldUpdate slot hold prio) s = execSlotHoldUpdate slot hold prio s := rfl
@[simp] theorem exec_forcedSaveExpiry {slot} (s : State) : exec (.forcedSaveExpiry slot) s = execForcedSaveExpiry slot s := rfl
@[simp] theorem exec_saveComplete {slot} (s : State) : exec (.saveComplete slot) s = execSaveComplete slot s := rfl
@[simp] theorem exec_faultDomainEnd {ctx fdom} (s : State) : exec (.faultDomainEnd ctx fdom) s = execFaultDomainEnd ctx fdom s := rfl
@[simp] theorem exec_unitFence {core} (s : State) : exec (.unitFence core) s = execUnitFence core s := rfl
@[simp] theorem exec_granuleService {crew granule} (s : State) : exec (.granuleService crew granule) s = execGranuleService crew granule s := rfl
@[simp] theorem exec_queueService {crew} (s : State) : exec (.queueService crew) s = execQueueService crew s := rfl
@[simp] theorem exec_barrierRelease {launch phase} (s : State) : exec (.barrierRelease launch phase) s = execBarrierRelease launch phase s := rfl
@[simp] theorem exec_rendezvousMatch {team slot} (s : State) : exec (.rendezvousMatch team slot) s = execRendezvousMatch team slot s := rfl
@[simp] theorem exec_xchgxPair {launch ch} (s : State) : exec (.xchgxPair launch ch) s = execXchgxPair launch ch s := rfl
@[simp] theorem exec_remoteReply {req refusal data} (s : State) : exec (.remoteReply req refusal data) s = execRemoteReply req refusal data s := rfl
@[simp] theorem exec_remoteRequestArrive {src tag sec kind va size aop fmt data data2} (s : State) : exec (.remoteRequestArrive src tag sec kind va size aop fmt data data2) s = execRemoteRequestArrive src tag sec kind va size aop fmt data data2 s := rfl
@[simp] theorem exec_requestLost {req} (s : State) : exec (.requestLost req) s = execRequestLost req s := rfl
@[simp] theorem exec_leaseGrant {cluster line size} (s : State) : exec (.leaseGrant cluster line size) s = execLeaseGrant cluster line size s := rfl
@[simp] theorem exec_leaseIdleRelease {cluster line} (s : State) : exec (.leaseIdleRelease cluster line) s = execLeaseIdleRelease cluster line s := rfl
@[simp] theorem exec_cowPath {ctx page} (s : State) : exec (.cowPath ctx page) s = execCowPath ctx page s := rfl
@[simp] theorem exec_engineCommandStart {team q} (s : State) : exec (.engineCommandStart team q) s = execEngineCommandStart team q s := rfl
@[simp] theorem exec_engineCommandComplete {team q} (s : State) : exec (.engineCommandComplete team q) s = execEngineCommandComplete team q s := rfl
@[simp] theorem exec_matrixStep {core party} (s : State) : exec (.matrixStep core party) s = execMatrixStep core party s := rfl
@[simp] theorem exec_remapPass {crew team q} (s : State) : exec (.remapPass crew team q) s = execRemapPass crew team q s := rfl
@[simp] theorem exec_tileTaskDispatch {cluster task} (s : State) : exec (.tileTaskDispatch cluster task) s = execTileTaskDispatch cluster task s := rfl
@[simp] theorem exec_taskDependencePoll {cluster task} (s : State) : exec (.taskDependencePoll cluster task) s = execTaskDependencePoll cluster task s := rfl
@[simp] theorem exec_tileTaskComplete {cluster task} (s : State) : exec (.tileTaskComplete cluster task) s = execTileTaskComplete cluster task s := rfl
@[simp] theorem exec_cpyaccContribution {team q} (s : State) : exec (.cpyaccContribution team q) s = execCpyaccContribution team q s := rfl
@[simp] theorem exec_mergeSessionMerge {cluster launch slot} (s : State) : exec (.mergeSessionMerge cluster launch slot) s = execMergeSessionMerge cluster launch slot s := rfl
@[simp] theorem exec_crfinComplete {team q} (s : State) : exec (.crfinComplete team q) s = execCrfinComplete team q s := rfl
@[simp] theorem exec_cpyddPageStep {team q} (s : State) : exec (.cpyddPageStep team q) s = execCpyddPageStep team q s := rfl
@[simp] theorem exec_convHomeRequest {crew} (s : State) : exec (.convHomeRequest crew) s = execConvHomeRequest crew s := rfl
@[simp] theorem exec_convAccept {conv} (s : State) : exec (.convAccept conv) s = execConvAccept conv s := rfl
@[simp] theorem exec_convDeliver {crew} (s : State) : exec (.convDeliver crew) s = execConvDeliver crew s := rfl
@[simp] theorem exec_kick {fn ring v} (s : State) : exec (.kick fn ring v) s = execKick fn ring v s := rfl
@[simp] theorem exec_rctlWrite {fn ring v} (s : State) : exec (.rctlWrite fn ring v) s = execRctlWrite fn ring v s := rfl
@[simp] theorem exec_ringRecordRead {fn ring hostRec} (s : State) : exec (.ringRecordRead fn ring hostRec) s = execRingRecordRead fn ring hostRec s := rfl
@[simp] theorem exec_ringStaleTimeout {fn ring} (s : State) : exec (.ringStaleTimeout fn ring) s = execRingStaleTimeout fn ring s := rfl
@[simp] theorem exec_evdataRead {fn win} (s : State) : exec (.evdataRead fn win) s = execEvdataRead fn win s := rfl
@[simp] theorem exec_hostBar2Read {fn addr size} (s : State) : exec (.hostBar2Read fn addr size) s = execHostBar2Read fn addr size s := rfl
@[simp] theorem exec_hostBar2Write {fn addr size data} (s : State) : exec (.hostBar2Write fn addr size data) s = execHostBar2Write fn addr size data s := rfl
@[simp] theorem exec_invcmd {v} (s : State) : exec (.invcmd v) s = execInvcmd v s := rfl
@[simp] theorem exec_invalidationDrainDone (s : State) : exec .invalidationDrainDone s = execInvalidationDrainDone s := rfl
@[simp] theorem exec_attcmd {v} (s : State) : exec (.attcmd v) s = execAttcmd v s := rfl
@[simp] theorem exec_attestationReportDone (s : State) : exec .attestationReportDone s = execAttestationReportDone s := rfl
@[simp] theorem exec_rsvbase {v} (s : State) : exec (.rsvbase v) s = execRsvbase v s := rfl
@[simp] theorem exec_rsvtail {v} (s : State) : exec (.rsvtail v) s = execRsvtail v s := rfl
@[simp] theorem exec_fdcmd {v} (s : State) : exec (.fdcmd v) s = execFdcmd v s := rfl
@[simp] theorem exec_cirqcmd {v} (s : State) : exec (.cirqcmd v) s = execCirqcmd v s := rfl
@[simp] theorem exec_seclimitWrite {stack range limit sec v} (s : State) : exec (.seclimitWrite stack range limit sec v) s = execSeclimitWrite stack range limit sec v s := rfl
@[simp] theorem exec_eqtrig {v} (s : State) : exec (.eqtrig v) s = execEqtrig v s := rfl
@[simp] theorem exec_equinoxBufferDone (s : State) : exec .equinoxBufferDone s = execEquinoxBufferDone s := rfl
@[simp] theorem exec_vigilClr {m v} (s : State) : exec (.vigilClr m v) s = execVigilClr m v s := rfl
@[simp] theorem exec_vigilSample {m v} (s : State) : exec (.vigilSample m v) s = execVigilSample m v s := rfl
@[simp] theorem exec_registerWrite {fn off v} (s : State) : exec (.registerWrite fn off v) s = execRegisterWrite fn off v s := rfl
@[simp] theorem exec_i3cHealthRead (s : State) : exec .i3cHealthRead s = execI3cHealthRead s := rfl
@[simp] theorem exec_boot (s : State) : exec .boot s = execBoot s := rfl
@[simp] theorem exec_thermalTrip {die} (s : State) : exec (.thermalTrip die) s = execThermalTrip die s := rfl
@[simp] theorem exec_powerWindow {watts} (s : State) : exec (.powerWindow watts) s = execPowerWindow watts s := rfl
@[simp] theorem exec_linkReplay {link} (s : State) : exec (.linkReplay link) s = execLinkReplay link s := rfl
@[simp] theorem exec_linkRetrain {link ok} (s : State) : exec (.linkRetrain link ok) s = execLinkRetrain link ok s := rfl
@[simp] theorem exec_crossbarAging {die port input} (s : State) : exec (.crossbarAging die port input) s = execCrossbarAging die port input s := rfl
@[simp] theorem exec_errorWindowEnd {kind} (s : State) : exec (.errorWindowEnd kind) s = execErrorWindowEnd kind s := rfl
@[simp] theorem exec_copyEngineError {team q} (s : State) : exec (.copyEngineError team q) s = execCopyEngineError team q s := rfl
@[simp] theorem exec_matrixEngineError {core} (s : State) : exec (.matrixEngineError core) s = execMatrixEngineError core s := rfl
@[simp] theorem exec_loadResultReturn {crew reg} (s : State) : exec (.loadResultReturn crew reg) s = execLoadResultReturn crew reg s := rfl
@[simp] theorem exec_remoteAcknowledgement {req} (s : State) : exec (.remoteAcknowledgement req) s = execRemoteAcknowledgement req s := rfl

end Sys2Proof.Machine
end

