-- ==== Sys2Proof/Laws/Sparse.lean ====
section
/-! SUPPORT. The laws of the finite maps of Machine/Sparse.lean: a read after a write, and the canonical form kept. -/
namespace Sys2Proof.Machine

variable {α : Type}

theorem lookup_insert (m : List (Nat × α)) (a : Nat) (x : α) (b : Nat) :
    lookup (insert m a x) b = if b = a then some x else lookup m b := by
  induction m with
  | nil => simp [insert, lookup]
  | cons e m ih =>
    obtain ⟨k, v⟩ := e
    simp only [insert]
    by_cases h1 : a = k
    · subst h1
      simp only [if_true, lookup]
      by_cases h : b = a <;> simp [h]
    · by_cases h2 : a < k
      · simp [h1, h2, lookup]
      · simp only [h1, h2, if_false, lookup, ih]
        by_cases h : b = k
        · subst h
          simp [Ne.symm h1]
        · simp [h]

theorem lookup_erase (m : List (Nat × α)) (a b : Nat) :
    lookup (erase m a) b = if b = a then none else lookup m b := by
  induction m with
  | nil => simp [erase, lookup]
  | cons e m ih =>
    obtain ⟨k, v⟩ := e
    simp only [erase]
    by_cases h1 : a = k
    · subst h1
      simp only [if_true, ih, lookup]
      by_cases h : b = a <;> simp [h]
    · simp only [h1, if_false, lookup, ih]
      by_cases h : b = k
      · subst h
        simp [Ne.symm h1]
      · simp [h]

@[simp] theorem lookup_insert_self (m : List (Nat × α)) (a : Nat) (x : α) : lookup (insert m a x) a = some x := by
  simp [lookup_insert]

theorem lookup_insert_ne (m : List (Nat × α)) {a b : Nat} (x : α) (h : b ≠ a) :
    lookup (insert m a x) b = lookup m b := by simp [lookup_insert, h]

@[simp] theorem fget_nil (d : α) (a : Nat) : fget d [] a = d := rfl

theorem fget_insert (d : α) (m : List (Nat × α)) (a : Nat) (x : α) (b : Nat) :
    fget d (insert m a x) b = if b = a then x else fget d m b := by
  simp only [fget, lookup_insert]; split <;> rfl

@[simp] theorem fget_insert_self (d : α) (m : List (Nat × α)) (a : Nat) (x : α) : fget d (insert m a x) a = x := by
  simp [fget_insert]

theorem fget_insert_ne (d : α) (m : List (Nat × α)) {a b : Nat} (x : α) (h : b ≠ a) :
    fget d (insert m a x) b = fget d m b := by simp [fget_insert, h]

theorem fget_fset [DecidableEq α] (d : α) (m : List (Nat × α)) (a : Nat) (x : α) (b : Nat) :
    fget d (fset d m a x) b = if b = a then x else fget d m b := by
  unfold fset
  by_cases hx : x = d
  · subst hx
    simp only [if_true, fget, lookup_erase]
    split <;> rfl
  · simp only [hx, if_false, fget_insert]

@[simp] theorem fget_fset_self [DecidableEq α] (d : α) (m : List (Nat × α)) (a : Nat) (x : α) :
    fget d (fset d m a x) a = x := by simp [fget_fset]

theorem fget_fset_ne [DecidableEq α] (d : α) (m : List (Nat × α)) {a b : Nat} (x : α) (h : b ≠ a) :
    fget d (fset d m a x) b = fget d m b := by simp [fget_fset, h]

/-- A run of writes puts entry b - a of the list at b, and leaves every other key. -/
theorem fget_fsetRun [DecidableEq α] (d : α) (xs : List α) (m : List (Nat × α)) (a b : Nat) :
    fget d (fsetRun d m a xs) b = if a ≤ b ∧ b < a + xs.length then xs.getD (b - a) d else fget d m b := by
  induction xs generalizing m a with
  | nil =>
    have h : ¬ (a ≤ b ∧ b < a + ([] : List α).length) := by simp
    rw [if_neg h]; rfl
  | cons x xs ih =>
    simp only [fsetRun, ih, fget_fset, List.length_cons]
    by_cases h1 : b = a
    · subst h1
      rw [if_neg (by omega), if_pos rfl, if_pos (by omega), Nat.sub_self]; rfl
    · by_cases h2 : a + 1 ≤ b ∧ b < a + 1 + xs.length
      · have e : b - a = (b - (a + 1)) + 1 := by omega
        have h3 : a ≤ b ∧ b < a + (xs.length + 1) := by omega
        simp [h2, h3, e]
      · have h3 : ¬ (a ≤ b ∧ b < a + (xs.length + 1)) := by omega
        rw [if_neg h2, if_neg h1, if_neg h3]

theorem length_fgetRun (d : α) (m : List (Nat × α)) (a n : Nat) : (fgetRun d m a n).length = n := by
  induction n generalizing a with
  | zero => rfl
  | succ n ih => simp [fgetRun, ih]

/-- A run that is read agrees with the single reads. -/
theorem fgetRun_congr (d : α) (m m' : List (Nat × α)) (a n : Nat) (h : ∀ b, a ≤ b → b < a + n → fget d m b = fget d m' b) :
    fgetRun d m a n = fgetRun d m' a n := by
  induction n generalizing a with
  | zero => rfl
  | succ n ih =>
    simp only [fgetRun]
    rw [h a (by omega) (by omega), ih (a + 1) (fun b h1 h2 => h b (by omega) (by omega))]

/-- Reading back the run that was written. -/
theorem fgetRun_fsetRun [DecidableEq α] (d : α) (xs : List α) (m : List (Nat × α)) (a : Nat) :
    fgetRun d (fsetRun d m a xs) a xs.length = xs := by
  induction xs generalizing m a with
  | nil => rfl
  | cons x xs ih =>
    simp only [List.length_cons, fgetRun, fsetRun]
    rw [ih]
    simp only [fget_fsetRun, fget_fset]
    rw [if_neg (by omega), if_pos trivial]

/-! The canonical form. -/

theorem rising_some_of_le {m : List (Nat × α)} {b c : Nat} (h : rising (some c) m = true) (hbc : b ≤ c) :
    rising (some b) m = true := by
  cases m with
  | nil => rfl
  | cons e m =>
    obtain ⟨k, v⟩ := e
    simp only [rising, Bool.and_eq_true, decide_eq_true_eq] at *
    exact ⟨by omega, h.2⟩

theorem rising_none_of_some {m : List (Nat × α)} {b : Nat} (h : rising (some b) m = true) : rising none m = true := by
  cases m with
  | nil => rfl
  | cons e m =>
    simp only [rising, Bool.and_eq_true] at *
    exact h.2

theorem rising_insert_some (m : List (Nat × α)) (b a : Nat) (x : α) (h : rising (some b) m = true) (hb : b < a) :
    rising (some b) (insert m a x) = true := by
  induction m generalizing b with
  | nil => simp [insert, rising, hb]
  | cons e m ih =>
    obtain ⟨k, v⟩ := e
    simp only [rising, Bool.and_eq_true, decide_eq_true_eq] at h
    simp only [insert]
    by_cases h1 : a = k
    · subst h1; simp [rising, hb, h.2]
    · by_cases h2 : a < k
      · simp [h1, h2, rising, hb, h.2]
      · simp only [h1, h2, if_false, rising, Bool.and_eq_true, decide_eq_true_eq]
        exact ⟨h.1, ih k h.2 (by omega)⟩

theorem rising_insert (m : List (Nat × α)) (a : Nat) (x : α) (h : rising none m = true) :
    rising none (insert m a x) = true := by
  cases m with
  | nil => simp [insert, rising]
  | cons e m =>
    obtain ⟨k, v⟩ := e
    simp only [rising] at h
    simp only [insert]
    by_cases h1 : a = k
    · subst h1; simpa [rising] using h
    · by_cases h2 : a < k
      · simp [h1, h2, rising, h]
      · simp only [h1, h2, if_false, rising]
        exact rising_insert_some m k a x h (by omega)

theorem rising_erase_some (m : List (Nat × α)) (b a : Nat) (h : rising (some b) m = true) :
    rising (some b) (erase m a) = true := by
  induction m generalizing b with
  | nil => rfl
  | cons e m ih =>
    obtain ⟨k, v⟩ := e
    simp only [rising, Bool.and_eq_true, decide_eq_true_eq] at h
    simp only [erase]
    by_cases h1 : a = k
    · simp only [h1, if_true]
      have := ih k h.2
      rw [h1] at this
      exact rising_some_of_le this (by omega)
    · simp only [h1, if_false, rising, Bool.and_eq_true, decide_eq_true_eq]
      exact ⟨h.1, ih k h.2⟩

theorem rising_erase (m : List (Nat × α)) (a : Nat) (h : rising none m = true) : rising none (erase m a) = true := by
  cases m with
  | nil => rfl
  | cons e m =>
    obtain ⟨k, v⟩ := e
    simp only [rising] at h
    simp only [erase]
    by_cases h1 : a = k
    · simp only [h1, if_true]
      exact rising_none_of_some (rising_erase_some m k k h)
    · simp only [h1, if_false, rising]
      exact rising_erase_some m k a h

theorem all_insert (p : Nat × α → Bool) (m : List (Nat × α)) (a : Nat) (x : α) (h : m.all p = true) (hx : p (a, x) = true) :
    (insert m a x).all p = true := by
  induction m with
  | nil => simp [insert, hx]
  | cons e m ih =>
    obtain ⟨k, v⟩ := e
    simp only [List.all_cons, Bool.and_eq_true] at h
    simp only [insert]
    split
    · simp [hx, h.2]
    · split
      · simp [hx, h.1, h.2]
      · simp [h.1, ih h.2]

theorem all_erase (p : Nat × α → Bool) (m : List (Nat × α)) (a : Nat) (h : m.all p = true) : (erase m a).all p = true := by
  induction m with
  | nil => rfl
  | cons e m ih =>
    obtain ⟨k, v⟩ := e
    simp only [List.all_cons, Bool.and_eq_true] at h
    simp only [erase]
    split
    · exact ih h.2
    · simp [h.1, ih h.2]

/-- The empty map is canonical. -/
@[simp] theorem canonical_nil [DecidableEq α] (d : α) : canonical d [] = true := rfl

/-- A write keeps the canonical form. -/
theorem canonical_fset [DecidableEq α] (d : α) (m : List (Nat × α)) (a : Nat) (x : α) (h : canonical d m = true) :
    canonical d (fset d m a x) = true := by
  simp only [canonical, Bool.and_eq_true] at h ⊢
  unfold fset
  by_cases hx : x = d
  · simp only [hx, if_true]
    exact ⟨rising_erase m a h.1, all_erase _ m a h.2⟩
  · simp only [hx, if_false]
    exact ⟨rising_insert m a x h.1, all_insert _ m a x h.2 (by simp [hx])⟩

/-- A run of writes keeps the canonical form. -/
theorem canonical_fsetRun [DecidableEq α] (d : α) (xs : List α) (m : List (Nat × α)) (a : Nat) (h : canonical d m = true) :
    canonical d (fsetRun d m a xs) = true := by
  induction xs generalizing m a with
  | nil => exact h
  | cons x xs ih => exact ih _ _ (canonical_fset d m a x h)

theorem lookup_eq_none_of_rising {m : List (Nat × α)} {b a : Nat} (h : rising (some b) m = true) (ha : a ≤ b) :
    lookup m a = none := by
  induction m generalizing b with
  | nil => rfl
  | cons e m ih =>
    obtain ⟨k, v⟩ := e
    simp only [rising, Bool.and_eq_true, decide_eq_true_eq] at h
    simp only [lookup]
    rw [if_neg (by omega), ih h.2 (by omega)]

/-- Two rising maps with the same entries are the same list. -/
theorem rising_ext {m m' : List (Nat × α)} (h : rising none m = true) (h' : rising none m' = true)
    (he : ∀ a, lookup m a = lookup m' a) : m = m' := by
  induction m generalizing m' with
  | nil =>
    cases m' with
    | nil => rfl
    | cons e' m' => obtain ⟨k, v⟩ := e'; simpa [lookup] using he k
  | cons e m ih =>
    obtain ⟨k, v⟩ := e
    cases m' with
    | nil => simpa [lookup] using he k
    | cons e' m' =>
      obtain ⟨k', v'⟩ := e'
      simp only [rising] at h h'
      have hk : k = k' := by
        rcases Nat.lt_trichotomy k k' with hlt | heq | hlt
        · have := he k
          simp only [lookup, if_true] at this
          rw [if_neg (by omega), lookup_eq_none_of_rising h' (by omega)] at this
          simp at this
        · exact heq
        · have := he k'
          simp only [lookup, if_true] at this
          rw [if_neg (by omega), lookup_eq_none_of_rising h (by omega)] at this
          simp at this
      subst hk
      have hv : v = v' := by simpa [lookup] using he k
      subst hv
      rw [ih (rising_none_of_some h) (rising_none_of_some h')]
      intro a
      by_cases ha : a = k
      · subst ha
        rw [lookup_eq_none_of_rising h (Nat.le_refl _), lookup_eq_none_of_rising h' (Nat.le_refl _)]
      · simpa [lookup, ha] using he a

end Sys2Proof.Machine
end

