-- ==== Sys2Proof/Laws/State.lean ====
section
/-! SUPPORT. What each update of the state leaves and what it writes: one lemma per field per update, true by rfl. -/
namespace Sys2Proof.Machine

/-! Reading what an update wrote. -/

@[simp] theorem State.crewAt_setCrewAt (s : State) (k : Nat) (c : Crew) : (s.setCrewAt k c).crewAt k = c :=
  fget_insert_self _ _ _ _
theorem State.crewAt_setCrewAt_ne (s : State) {k j : Nat} (c : Crew) (h : j ≠ k) :
    (s.setCrewAt k c).crewAt j = s.crewAt j := fget_insert_ne _ _ _ h
@[simp] theorem State.crew_setCrew (s : State) (c : Crew) : (s.setCrew c).crew = c := fget_insert_self _ _ _ _
theorem State.crewAt_setCrew_ne (s : State) {j : Nat} (c : Crew) (h : j ≠ s.cur) :
    (s.setCrew c).crewAt j = s.crewAt j := fget_insert_ne _ _ _ h
@[simp] theorem State.teamAt_setTeamAt (s : State) (k : Nat) (t : Team) : (s.setTeamAt k t).teamAt k = t :=
  fget_insert_self _ _ _ _
theorem State.teamAt_setTeamAt_ne (s : State) {k j : Nat} (t : Team) (h : j ≠ k) :
    (s.setTeamAt k t).teamAt j = s.teamAt j := fget_insert_ne _ _ _ h
@[simp] theorem State.team_setTeam (s : State) (t : Team) : (s.setTeam t).team = t := fget_insert_self _ _ _ _
@[simp] theorem State.slotAt_setSlotAt (s : State) (k : Nat) (e : Slot) : (s.setSlotAt k e).slotAt k = e :=
  fget_insert_self _ _ _ _
@[simp] theorem State.launchAt_setLaunchAt (s : State) (k : Nat) (l : Launch) : (s.setLaunchAt k l).launchAt k = l :=
  fget_insert_self _ _ _ _
@[simp] theorem State.clusterAt_setClusterAt (s : State) (k : Nat) (c : Cluster) : (s.setClusterAt k c).clusterAt k = c :=
  fget_insert_self _ _ _ _
@[simp] theorem State.convAt_setConvAt (s : State) (k : Nat) (c : Conv) : (s.setConvAt k c).convAt k = c :=
  fget_insert_self _ _ _ _
@[simp] theorem State.reg_setReg (s : State) (fn off : Nat) (v : DWord) : (s.setReg fn off v).reg fn off = v :=
  fget_fset_self _ _ _ _
@[simp] theorem State.team_setCrew (s : State) (c : Crew) : (s.setCrew c).team = s.team := rfl
@[simp] theorem State.team_setCrewAt (s : State) (k : Nat) (c : Crew) : (s.setCrewAt k c).team = s.team := rfl
@[simp] theorem State.teamAt_setCrew (s : State) (c : Crew) (k : Nat) : (s.setCrew c).teamAt k = s.teamAt k := rfl
@[simp] theorem State.width_setCrew (s : State) (c : Crew) : (s.setCrew c).width = s.width := rfl
@[simp] theorem State.crewid_setCrew (s : State) (c : Crew) : (s.setCrew c).cur = s.cur := rfl
@[simp] theorem State.byte_setCrew (s : State) (c : Crew) (a : Nat) : (s.setCrew c).byte a = s.byte a := rfl

theorem insert_insert {α : Type} (m : List (Nat × α)) (a : Nat) (x y : α) :
    insert (insert m a x) a y = insert m a y := by
  induction m with
  | nil => simp [insert]
  | cons e m ih =>
    obtain ⟨k, v⟩ := e
    simp only [insert]
    by_cases h1 : a = k
    · subst h1; simp [insert]
    · by_cases h2 : a < k
      · simp [h1, h2, insert]
      · simp [h1, h2, insert, ih]

@[simp] theorem State.setCrewAt_setCrewAt (s : State) (k : Nat) (c d : Crew) :
    (s.setCrewAt k c).setCrewAt k d = s.setCrewAt k d := by simp [State.setCrewAt, insert_insert]
@[simp] theorem State.setCrew_setCrew (s : State) (c d : Crew) : (s.setCrew c).setCrew d = s.setCrew d := by
  simp [State.setCrew, State.setCrewAt, insert_insert]

/-! Fields. -/

@[simp] theorem State.setCrewAt_mem (s : State) (k : Nat) (c : Crew) : (s.setCrewAt k c).mem = s.mem := rfl
@[simp] theorem State.setCrewAt_poison (s : State) (k : Nat) (c : Crew) : (s.setCrewAt k c).poison = s.poison := rfl
@[simp] theorem State.setCrewAt_cur (s : State) (k : Nat) (c : Crew) : (s.setCrewAt k c).cur = s.cur := rfl
@[simp] theorem State.setCrewAt_teams (s : State) (k : Nat) (c : Crew) : (s.setCrewAt k c).teams = s.teams := rfl
@[simp] theorem State.setCrewAt_slots (s : State) (k : Nat) (c : Crew) : (s.setCrewAt k c).slots = s.slots := rfl
@[simp] theorem State.setCrewAt_launches (s : State) (k : Nat) (c : Crew) : (s.setCrewAt k c).launches = s.launches := rfl
@[simp] theorem State.setCrewAt_parts (s : State) (k : Nat) (c : Crew) : (s.setCrewAt k c).parts = s.parts := rfl
@[simp] theorem State.setCrewAt_clusters (s : State) (k : Nat) (c : Crew) : (s.setCrewAt k c).clusters = s.clusters := rfl
@[simp] theorem State.setCrewAt_vectors (s : State) (k : Nat) (c : Crew) : (s.setCrewAt k c).vectors = s.vectors := rfl
@[simp] theorem State.setCrewAt_queueEnds (s : State) (k : Nat) (c : Crew) : (s.setCrewAt k c).queueEnds = s.queueEnds := rfl
@[simp] theorem State.setCrewAt_convs (s : State) (k : Nat) (c : Crew) : (s.setCrewAt k c).convs = s.convs := rfl
@[simp] theorem State.setCrewAt_cowHold (s : State) (k : Nat) (c : Crew) : (s.setCrewAt k c).cowHold = s.cowHold := rfl
@[simp] theorem State.setCrewAt_cowReports (s : State) (k : Nat) (c : Crew) : (s.setCrewAt k c).cowReports = s.cowReports := rfl
@[simp] theorem State.setCrewAt_pools (s : State) (k : Nat) (c : Crew) : (s.setCrewAt k c).pools = s.pools := rfl
@[simp] theorem State.setCrewAt_expect (s : State) (k : Nat) (c : Crew) : (s.setCrewAt k c).expect = s.expect := rfl
@[simp] theorem State.setCrewAt_bar0 (s : State) (k : Nat) (c : Crew) : (s.setCrewAt k c).bar0 = s.bar0 := rfl
@[simp] theorem State.setCrewAt_rings (s : State) (k : Nat) (c : Crew) : (s.setCrewAt k c).rings = s.rings := rfl
@[simp] theorem State.setCrewAt_msix (s : State) (k : Nat) (c : Crew) : (s.setCrewAt k c).msix = s.msix := rfl
@[simp] theorem State.setCrewAt_notices (s : State) (k : Nat) (c : Crew) : (s.setCrewAt k c).notices = s.notices := rfl
@[simp] theorem State.setCrewAt_secure (s : State) (k : Nat) (c : Crew) : (s.setCrewAt k c).secure = s.secure := rfl
@[simp] theorem State.setCrewAt_meas (s : State) (k : Nat) (c : Crew) : (s.setCrewAt k c).meas = s.meas := rfl
@[simp] theorem State.setCrewAt_fenced (s : State) (k : Nat) (c : Crew) : (s.setCrewAt k c).fenced = s.fenced := rfl
@[simp] theorem State.setCrewAt_fencing (s : State) (k : Nat) (c : Crew) : (s.setCrewAt k c).fencing = s.fencing := rfl
@[simp] theorem State.setCrewAt_retired (s : State) (k : Nat) (c : Crew) : (s.setCrewAt k c).retired = s.retired := rfl
@[simp] theorem State.setCrewAt_bmc (s : State) (k : Nat) (c : Crew) : (s.setCrewAt k c).bmc = s.bmc := rfl
@[simp] theorem State.setCrewAt_errors (s : State) (k : Nat) (c : Crew) : (s.setCrewAt k c).errors = s.errors := rfl
@[simp] theorem State.setCrewAt_struck (s : State) (k : Nat) (c : Crew) : (s.setCrewAt k c).struck = s.struck := rfl
@[simp] theorem State.setCrewAt_tally (s : State) (k : Nat) (c : Crew) : (s.setCrewAt k c).tally = s.tally := rfl
@[simp] theorem State.setCrewAt_limits (s : State) (k : Nat) (c : Crew) : (s.setCrewAt k c).limits = s.limits := rfl
@[simp] theorem State.setCrewAt_upsets (s : State) (k : Nat) (c : Crew) : (s.setCrewAt k c).upsets = s.upsets := rfl
@[simp] theorem State.setCrewAt_links (s : State) (k : Nat) (c : Crew) : (s.setCrewAt k c).links = s.links := rfl
@[simp] theorem State.setCrewAt_fabric (s : State) (k : Nat) (c : Crew) : (s.setCrewAt k c).fabric = s.fabric := rfl
@[simp] theorem State.setCrewAt_nextReq (s : State) (k : Nat) (c : Crew) : (s.setCrewAt k c).nextReq = s.nextReq := rfl
@[simp] theorem State.setCrewAt_ends (s : State) (k : Nat) (c : Crew) : (s.setCrewAt k c).ends = s.ends := rfl
@[simp] theorem State.setCrewAt_irqs (s : State) (k : Nat) (c : Crew) : (s.setCrewAt k c).irqs = s.irqs := rfl
@[simp] theorem State.setCrewAt_capture (s : State) (k : Nat) (c : Crew) : (s.setCrewAt k c).capture = s.capture := rfl
@[simp] theorem State.setCrewAt_drain (s : State) (k : Nat) (c : Crew) : (s.setCrewAt k c).drain = s.drain := rfl
@[simp] theorem State.setCrewAt_drainAt (s : State) (k : Nat) (c : Crew) : (s.setCrewAt k c).drainAt = s.drainAt := rfl
@[simp] theorem State.setCrewAt_attest (s : State) (k : Nat) (c : Crew) : (s.setCrewAt k c).attest = s.attest := rfl
@[simp] theorem State.setCrewAt_aged (s : State) (k : Nat) (c : Crew) : (s.setCrewAt k c).aged = s.aged := rfl
@[simp] theorem State.setCrewAt_limited (s : State) (k : Nat) (c : Crew) : (s.setCrewAt k c).limited = s.limited := rfl
@[simp] theorem State.setCrewAt_halted (s : State) (k : Nat) (c : Crew) : (s.setCrewAt k c).halted = s.halted := rfl
@[simp] theorem State.setCrewAt_booted (s : State) (k : Nat) (c : Crew) : (s.setCrewAt k c).booted = s.booted := rfl
@[simp] theorem State.setCrewAt_clock (s : State) (k : Nat) (c : Crew) : (s.setCrewAt k c).clock = s.clock := rfl
@[simp] theorem State.setCrewAt_fresh (s : State) (k : Nat) (c : Crew) : (s.setCrewAt k c).fresh = s.fresh := rfl
@[simp] theorem State.setCrewAt_wrote (s : State) (k : Nat) (c : Crew) : (s.setCrewAt k c).wrote = s.wrote := rfl
@[simp] theorem State.setCrewAt_inputs (s : State) (k : Nat) (c : Crew) : (s.setCrewAt k c).inputs = s.inputs := rfl
@[simp] theorem State.setCrewAt_opened (s : State) (k : Nat) (c : Crew) : (s.setCrewAt k c).opened = s.opened := rfl
@[simp] theorem State.setCrewAt_early (s : State) (k : Nat) (c : Crew) : (s.setCrewAt k c).early = s.early := rfl
@[simp] theorem State.setCrewAt_hostRead (s : State) (k : Nat) (c : Crew) : (s.setCrewAt k c).hostRead = s.hostRead := rfl
@[simp] theorem State.setCrewAt_attReport (s : State) (k : Nat) (c : Crew) : (s.setCrewAt k c).attReport = s.attReport := rfl

@[simp] theorem State.setCrew_mem (s : State) (c : Crew) : (s.setCrew c).mem = s.mem := rfl
@[simp] theorem State.setCrew_poison (s : State) (c : Crew) : (s.setCrew c).poison = s.poison := rfl
@[simp] theorem State.setCrew_cur (s : State) (c : Crew) : (s.setCrew c).cur = s.cur := rfl
@[simp] theorem State.setCrew_teams (s : State) (c : Crew) : (s.setCrew c).teams = s.teams := rfl
@[simp] theorem State.setCrew_slots (s : State) (c : Crew) : (s.setCrew c).slots = s.slots := rfl
@[simp] theorem State.setCrew_launches (s : State) (c : Crew) : (s.setCrew c).launches = s.launches := rfl
@[simp] theorem State.setCrew_parts (s : State) (c : Crew) : (s.setCrew c).parts = s.parts := rfl
@[simp] theorem State.setCrew_clusters (s : State) (c : Crew) : (s.setCrew c).clusters = s.clusters := rfl
@[simp] theorem State.setCrew_vectors (s : State) (c : Crew) : (s.setCrew c).vectors = s.vectors := rfl
@[simp] theorem State.setCrew_queueEnds (s : State) (c : Crew) : (s.setCrew c).queueEnds = s.queueEnds := rfl
@[simp] theorem State.setCrew_convs (s : State) (c : Crew) : (s.setCrew c).convs = s.convs := rfl
@[simp] theorem State.setCrew_cowHold (s : State) (c : Crew) : (s.setCrew c).cowHold = s.cowHold := rfl
@[simp] theorem State.setCrew_cowReports (s : State) (c : Crew) : (s.setCrew c).cowReports = s.cowReports := rfl
@[simp] theorem State.setCrew_pools (s : State) (c : Crew) : (s.setCrew c).pools = s.pools := rfl
@[simp] theorem State.setCrew_expect (s : State) (c : Crew) : (s.setCrew c).expect = s.expect := rfl
@[simp] theorem State.setCrew_bar0 (s : State) (c : Crew) : (s.setCrew c).bar0 = s.bar0 := rfl
@[simp] theorem State.setCrew_rings (s : State) (c : Crew) : (s.setCrew c).rings = s.rings := rfl
@[simp] theorem State.setCrew_msix (s : State) (c : Crew) : (s.setCrew c).msix = s.msix := rfl
@[simp] theorem State.setCrew_notices (s : State) (c : Crew) : (s.setCrew c).notices = s.notices := rfl
@[simp] theorem State.setCrew_secure (s : State) (c : Crew) : (s.setCrew c).secure = s.secure := rfl
@[simp] theorem State.setCrew_meas (s : State) (c : Crew) : (s.setCrew c).meas = s.meas := rfl
@[simp] theorem State.setCrew_fenced (s : State) (c : Crew) : (s.setCrew c).fenced = s.fenced := rfl
@[simp] theorem State.setCrew_fencing (s : State) (c : Crew) : (s.setCrew c).fencing = s.fencing := rfl
@[simp] theorem State.setCrew_retired (s : State) (c : Crew) : (s.setCrew c).retired = s.retired := rfl
@[simp] theorem State.setCrew_bmc (s : State) (c : Crew) : (s.setCrew c).bmc = s.bmc := rfl
@[simp] theorem State.setCrew_errors (s : State) (c : Crew) : (s.setCrew c).errors = s.errors := rfl
@[simp] theorem State.setCrew_struck (s : State) (c : Crew) : (s.setCrew c).struck = s.struck := rfl
@[simp] theorem State.setCrew_tally (s : State) (c : Crew) : (s.setCrew c).tally = s.tally := rfl
@[simp] theorem State.setCrew_limits (s : State) (c : Crew) : (s.setCrew c).limits = s.limits := rfl
@[simp] theorem State.setCrew_upsets (s : State) (c : Crew) : (s.setCrew c).upsets = s.upsets := rfl
@[simp] theorem State.setCrew_links (s : State) (c : Crew) : (s.setCrew c).links = s.links := rfl
@[simp] theorem State.setCrew_fabric (s : State) (c : Crew) : (s.setCrew c).fabric = s.fabric := rfl
@[simp] theorem State.setCrew_nextReq (s : State) (c : Crew) : (s.setCrew c).nextReq = s.nextReq := rfl
@[simp] theorem State.setCrew_ends (s : State) (c : Crew) : (s.setCrew c).ends = s.ends := rfl
@[simp] theorem State.setCrew_irqs (s : State) (c : Crew) : (s.setCrew c).irqs = s.irqs := rfl
@[simp] theorem State.setCrew_capture (s : State) (c : Crew) : (s.setCrew c).capture = s.capture := rfl
@[simp] theorem State.setCrew_drain (s : State) (c : Crew) : (s.setCrew c).drain = s.drain := rfl
@[simp] theorem State.setCrew_drainAt (s : State) (c : Crew) : (s.setCrew c).drainAt = s.drainAt := rfl
@[simp] theorem State.setCrew_attest (s : State) (c : Crew) : (s.setCrew c).attest = s.attest := rfl
@[simp] theorem State.setCrew_aged (s : State) (c : Crew) : (s.setCrew c).aged = s.aged := rfl
@[simp] theorem State.setCrew_limited (s : State) (c : Crew) : (s.setCrew c).limited = s.limited := rfl
@[simp] theorem State.setCrew_halted (s : State) (c : Crew) : (s.setCrew c).halted = s.halted := rfl
@[simp] theorem State.setCrew_booted (s : State) (c : Crew) : (s.setCrew c).booted = s.booted := rfl
@[simp] theorem State.setCrew_clock (s : State) (c : Crew) : (s.setCrew c).clock = s.clock := rfl
@[simp] theorem State.setCrew_fresh (s : State) (c : Crew) : (s.setCrew c).fresh = s.fresh := rfl
@[simp] theorem State.setCrew_wrote (s : State) (c : Crew) : (s.setCrew c).wrote = s.wrote := rfl
@[simp] theorem State.setCrew_inputs (s : State) (c : Crew) : (s.setCrew c).inputs = s.inputs := rfl
@[simp] theorem State.setCrew_opened (s : State) (c : Crew) : (s.setCrew c).opened = s.opened := rfl
@[simp] theorem State.setCrew_early (s : State) (c : Crew) : (s.setCrew c).early = s.early := rfl
@[simp] theorem State.setCrew_hostRead (s : State) (c : Crew) : (s.setCrew c).hostRead = s.hostRead := rfl
@[simp] theorem State.setCrew_attReport (s : State) (c : Crew) : (s.setCrew c).attReport = s.attReport := rfl

@[simp] theorem State.setTeamAt_mem (s : State) (k : Nat) (t : Team) : (s.setTeamAt k t).mem = s.mem := rfl
@[simp] theorem State.setTeamAt_poison (s : State) (k : Nat) (t : Team) : (s.setTeamAt k t).poison = s.poison := rfl
@[simp] theorem State.setTeamAt_cur (s : State) (k : Nat) (t : Team) : (s.setTeamAt k t).cur = s.cur := rfl
@[simp] theorem State.setTeamAt_crews (s : State) (k : Nat) (t : Team) : (s.setTeamAt k t).crews = s.crews := rfl
@[simp] theorem State.setTeamAt_slots (s : State) (k : Nat) (t : Team) : (s.setTeamAt k t).slots = s.slots := rfl
@[simp] theorem State.setTeamAt_launches (s : State) (k : Nat) (t : Team) : (s.setTeamAt k t).launches = s.launches := rfl
@[simp] theorem State.setTeamAt_parts (s : State) (k : Nat) (t : Team) : (s.setTeamAt k t).parts = s.parts := rfl
@[simp] theorem State.setTeamAt_clusters (s : State) (k : Nat) (t : Team) : (s.setTeamAt k t).clusters = s.clusters := rfl
@[simp] theorem State.setTeamAt_vectors (s : State) (k : Nat) (t : Team) : (s.setTeamAt k t).vectors = s.vectors := rfl
@[simp] theorem State.setTeamAt_queueEnds (s : State) (k : Nat) (t : Team) : (s.setTeamAt k t).queueEnds = s.queueEnds := rfl
@[simp] theorem State.setTeamAt_convs (s : State) (k : Nat) (t : Team) : (s.setTeamAt k t).convs = s.convs := rfl
@[simp] theorem State.setTeamAt_cowHold (s : State) (k : Nat) (t : Team) : (s.setTeamAt k t).cowHold = s.cowHold := rfl
@[simp] theorem State.setTeamAt_cowReports (s : State) (k : Nat) (t : Team) : (s.setTeamAt k t).cowReports = s.cowReports := rfl
@[simp] theorem State.setTeamAt_pools (s : State) (k : Nat) (t : Team) : (s.setTeamAt k t).pools = s.pools := rfl
@[simp] theorem State.setTeamAt_expect (s : State) (k : Nat) (t : Team) : (s.setTeamAt k t).expect = s.expect := rfl
@[simp] theorem State.setTeamAt_bar0 (s : State) (k : Nat) (t : Team) : (s.setTeamAt k t).bar0 = s.bar0 := rfl
@[simp] theorem State.setTeamAt_rings (s : State) (k : Nat) (t : Team) : (s.setTeamAt k t).rings = s.rings := rfl
@[simp] theorem State.setTeamAt_msix (s : State) (k : Nat) (t : Team) : (s.setTeamAt k t).msix = s.msix := rfl
@[simp] theorem State.setTeamAt_notices (s : State) (k : Nat) (t : Team) : (s.setTeamAt k t).notices = s.notices := rfl
@[simp] theorem State.setTeamAt_secure (s : State) (k : Nat) (t : Team) : (s.setTeamAt k t).secure = s.secure := rfl
@[simp] theorem State.setTeamAt_meas (s : State) (k : Nat) (t : Team) : (s.setTeamAt k t).meas = s.meas := rfl
@[simp] theorem State.setTeamAt_fenced (s : State) (k : Nat) (t : Team) : (s.setTeamAt k t).fenced = s.fenced := rfl
@[simp] theorem State.setTeamAt_fencing (s : State) (k : Nat) (t : Team) : (s.setTeamAt k t).fencing = s.fencing := rfl
@[simp] theorem State.setTeamAt_retired (s : State) (k : Nat) (t : Team) : (s.setTeamAt k t).retired = s.retired := rfl
@[simp] theorem State.setTeamAt_bmc (s : State) (k : Nat) (t : Team) : (s.setTeamAt k t).bmc = s.bmc := rfl
@[simp] theorem State.setTeamAt_errors (s : State) (k : Nat) (t : Team) : (s.setTeamAt k t).errors = s.errors := rfl
@[simp] theorem State.setTeamAt_struck (s : State) (k : Nat) (t : Team) : (s.setTeamAt k t).struck = s.struck := rfl
@[simp] theorem State.setTeamAt_tally (s : State) (k : Nat) (t : Team) : (s.setTeamAt k t).tally = s.tally := rfl
@[simp] theorem State.setTeamAt_limits (s : State) (k : Nat) (t : Team) : (s.setTeamAt k t).limits = s.limits := rfl
@[simp] theorem State.setTeamAt_upsets (s : State) (k : Nat) (t : Team) : (s.setTeamAt k t).upsets = s.upsets := rfl
@[simp] theorem State.setTeamAt_links (s : State) (k : Nat) (t : Team) : (s.setTeamAt k t).links = s.links := rfl
@[simp] theorem State.setTeamAt_fabric (s : State) (k : Nat) (t : Team) : (s.setTeamAt k t).fabric = s.fabric := rfl
@[simp] theorem State.setTeamAt_nextReq (s : State) (k : Nat) (t : Team) : (s.setTeamAt k t).nextReq = s.nextReq := rfl
@[simp] theorem State.setTeamAt_ends (s : State) (k : Nat) (t : Team) : (s.setTeamAt k t).ends = s.ends := rfl
@[simp] theorem State.setTeamAt_irqs (s : State) (k : Nat) (t : Team) : (s.setTeamAt k t).irqs = s.irqs := rfl
@[simp] theorem State.setTeamAt_capture (s : State) (k : Nat) (t : Team) : (s.setTeamAt k t).capture = s.capture := rfl
@[simp] theorem State.setTeamAt_drain (s : State) (k : Nat) (t : Team) : (s.setTeamAt k t).drain = s.drain := rfl
@[simp] theorem State.setTeamAt_drainAt (s : State) (k : Nat) (t : Team) : (s.setTeamAt k t).drainAt = s.drainAt := rfl
@[simp] theorem State.setTeamAt_attest (s : State) (k : Nat) (t : Team) : (s.setTeamAt k t).attest = s.attest := rfl
@[simp] theorem State.setTeamAt_aged (s : State) (k : Nat) (t : Team) : (s.setTeamAt k t).aged = s.aged := rfl
@[simp] theorem State.setTeamAt_limited (s : State) (k : Nat) (t : Team) : (s.setTeamAt k t).limited = s.limited := rfl
@[simp] theorem State.setTeamAt_halted (s : State) (k : Nat) (t : Team) : (s.setTeamAt k t).halted = s.halted := rfl
@[simp] theorem State.setTeamAt_booted (s : State) (k : Nat) (t : Team) : (s.setTeamAt k t).booted = s.booted := rfl
@[simp] theorem State.setTeamAt_clock (s : State) (k : Nat) (t : Team) : (s.setTeamAt k t).clock = s.clock := rfl
@[simp] theorem State.setTeamAt_fresh (s : State) (k : Nat) (t : Team) : (s.setTeamAt k t).fresh = s.fresh := rfl
@[simp] theorem State.setTeamAt_wrote (s : State) (k : Nat) (t : Team) : (s.setTeamAt k t).wrote = s.wrote := rfl
@[simp] theorem State.setTeamAt_inputs (s : State) (k : Nat) (t : Team) : (s.setTeamAt k t).inputs = s.inputs := rfl
@[simp] theorem State.setTeamAt_opened (s : State) (k : Nat) (t : Team) : (s.setTeamAt k t).opened = s.opened := rfl
@[simp] theorem State.setTeamAt_early (s : State) (k : Nat) (t : Team) : (s.setTeamAt k t).early = s.early := rfl
@[simp] theorem State.setTeamAt_hostRead (s : State) (k : Nat) (t : Team) : (s.setTeamAt k t).hostRead = s.hostRead := rfl
@[simp] theorem State.setTeamAt_attReport (s : State) (k : Nat) (t : Team) : (s.setTeamAt k t).attReport = s.attReport := rfl

@[simp] theorem State.setTeam_mem (s : State) (t : Team) : (s.setTeam t).mem = s.mem := rfl
@[simp] theorem State.setTeam_poison (s : State) (t : Team) : (s.setTeam t).poison = s.poison := rfl
@[simp] theorem State.setTeam_cur (s : State) (t : Team) : (s.setTeam t).cur = s.cur := rfl
@[simp] theorem State.setTeam_crews (s : State) (t : Team) : (s.setTeam t).crews = s.crews := rfl
@[simp] theorem State.setTeam_slots (s : State) (t : Team) : (s.setTeam t).slots = s.slots := rfl
@[simp] theorem State.setTeam_launches (s : State) (t : Team) : (s.setTeam t).launches = s.launches := rfl
@[simp] theorem State.setTeam_parts (s : State) (t : Team) : (s.setTeam t).parts = s.parts := rfl
@[simp] theorem State.setTeam_clusters (s : State) (t : Team) : (s.setTeam t).clusters = s.clusters := rfl
@[simp] theorem State.setTeam_vectors (s : State) (t : Team) : (s.setTeam t).vectors = s.vectors := rfl
@[simp] theorem State.setTeam_queueEnds (s : State) (t : Team) : (s.setTeam t).queueEnds = s.queueEnds := rfl
@[simp] theorem State.setTeam_convs (s : State) (t : Team) : (s.setTeam t).convs = s.convs := rfl
@[simp] theorem State.setTeam_cowHold (s : State) (t : Team) : (s.setTeam t).cowHold = s.cowHold := rfl
@[simp] theorem State.setTeam_cowReports (s : State) (t : Team) : (s.setTeam t).cowReports = s.cowReports := rfl
@[simp] theorem State.setTeam_pools (s : State) (t : Team) : (s.setTeam t).pools = s.pools := rfl
@[simp] theorem State.setTeam_expect (s : State) (t : Team) : (s.setTeam t).expect = s.expect := rfl
@[simp] theorem State.setTeam_bar0 (s : State) (t : Team) : (s.setTeam t).bar0 = s.bar0 := rfl
@[simp] theorem State.setTeam_rings (s : State) (t : Team) : (s.setTeam t).rings = s.rings := rfl
@[simp] theorem State.setTeam_msix (s : State) (t : Team) : (s.setTeam t).msix = s.msix := rfl
@[simp] theorem State.setTeam_notices (s : State) (t : Team) : (s.setTeam t).notices = s.notices := rfl
@[simp] theorem State.setTeam_secure (s : State) (t : Team) : (s.setTeam t).secure = s.secure := rfl
@[simp] theorem State.setTeam_meas (s : State) (t : Team) : (s.setTeam t).meas = s.meas := rfl
@[simp] theorem State.setTeam_fenced (s : State) (t : Team) : (s.setTeam t).fenced = s.fenced := rfl
@[simp] theorem State.setTeam_fencing (s : State) (t : Team) : (s.setTeam t).fencing = s.fencing := rfl
@[simp] theorem State.setTeam_retired (s : State) (t : Team) : (s.setTeam t).retired = s.retired := rfl
@[simp] theorem State.setTeam_bmc (s : State) (t : Team) : (s.setTeam t).bmc = s.bmc := rfl
@[simp] theorem State.setTeam_errors (s : State) (t : Team) : (s.setTeam t).errors = s.errors := rfl
@[simp] theorem State.setTeam_struck (s : State) (t : Team) : (s.setTeam t).struck = s.struck := rfl
@[simp] theorem State.setTeam_tally (s : State) (t : Team) : (s.setTeam t).tally = s.tally := rfl
@[simp] theorem State.setTeam_limits (s : State) (t : Team) : (s.setTeam t).limits = s.limits := rfl
@[simp] theorem State.setTeam_upsets (s : State) (t : Team) : (s.setTeam t).upsets = s.upsets := rfl
@[simp] theorem State.setTeam_links (s : State) (t : Team) : (s.setTeam t).links = s.links := rfl
@[simp] theorem State.setTeam_fabric (s : State) (t : Team) : (s.setTeam t).fabric = s.fabric := rfl
@[simp] theorem State.setTeam_nextReq (s : State) (t : Team) : (s.setTeam t).nextReq = s.nextReq := rfl
@[simp] theorem State.setTeam_ends (s : State) (t : Team) : (s.setTeam t).ends = s.ends := rfl
@[simp] theorem State.setTeam_irqs (s : State) (t : Team) : (s.setTeam t).irqs = s.irqs := rfl
@[simp] theorem State.setTeam_capture (s : State) (t : Team) : (s.setTeam t).capture = s.capture := rfl
@[simp] theorem State.setTeam_drain (s : State) (t : Team) : (s.setTeam t).drain = s.drain := rfl
@[simp] theorem State.setTeam_drainAt (s : State) (t : Team) : (s.setTeam t).drainAt = s.drainAt := rfl
@[simp] theorem State.setTeam_attest (s : State) (t : Team) : (s.setTeam t).attest = s.attest := rfl
@[simp] theorem State.setTeam_aged (s : State) (t : Team) : (s.setTeam t).aged = s.aged := rfl
@[simp] theorem State.setTeam_limited (s : State) (t : Team) : (s.setTeam t).limited = s.limited := rfl
@[simp] theorem State.setTeam_halted (s : State) (t : Team) : (s.setTeam t).halted = s.halted := rfl
@[simp] theorem State.setTeam_booted (s : State) (t : Team) : (s.setTeam t).booted = s.booted := rfl
@[simp] theorem State.setTeam_clock (s : State) (t : Team) : (s.setTeam t).clock = s.clock := rfl
@[simp] theorem State.setTeam_fresh (s : State) (t : Team) : (s.setTeam t).fresh = s.fresh := rfl
@[simp] theorem State.setTeam_wrote (s : State) (t : Team) : (s.setTeam t).wrote = s.wrote := rfl
@[simp] theorem State.setTeam_inputs (s : State) (t : Team) : (s.setTeam t).inputs = s.inputs := rfl
@[simp] theorem State.setTeam_opened (s : State) (t : Team) : (s.setTeam t).opened = s.opened := rfl
@[simp] theorem State.setTeam_early (s : State) (t : Team) : (s.setTeam t).early = s.early := rfl
@[simp] theorem State.setTeam_hostRead (s : State) (t : Team) : (s.setTeam t).hostRead = s.hostRead := rfl
@[simp] theorem State.setTeam_attReport (s : State) (t : Team) : (s.setTeam t).attReport = s.attReport := rfl

@[simp] theorem State.setSlotAt_mem (s : State) (k : Nat) (e : Slot) : (s.setSlotAt k e).mem = s.mem := rfl
@[simp] theorem State.setSlotAt_poison (s : State) (k : Nat) (e : Slot) : (s.setSlotAt k e).poison = s.poison := rfl
@[simp] theorem State.setSlotAt_cur (s : State) (k : Nat) (e : Slot) : (s.setSlotAt k e).cur = s.cur := rfl
@[simp] theorem State.setSlotAt_crews (s : State) (k : Nat) (e : Slot) : (s.setSlotAt k e).crews = s.crews := rfl
@[simp] theorem State.setSlotAt_teams (s : State) (k : Nat) (e : Slot) : (s.setSlotAt k e).teams = s.teams := rfl
@[simp] theorem State.setSlotAt_launches (s : State) (k : Nat) (e : Slot) : (s.setSlotAt k e).launches = s.launches := rfl
@[simp] theorem State.setSlotAt_parts (s : State) (k : Nat) (e : Slot) : (s.setSlotAt k e).parts = s.parts := rfl
@[simp] theorem State.setSlotAt_clusters (s : State) (k : Nat) (e : Slot) : (s.setSlotAt k e).clusters = s.clusters := rfl
@[simp] theorem State.setSlotAt_vectors (s : State) (k : Nat) (e : Slot) : (s.setSlotAt k e).vectors = s.vectors := rfl
@[simp] theorem State.setSlotAt_queueEnds (s : State) (k : Nat) (e : Slot) : (s.setSlotAt k e).queueEnds = s.queueEnds := rfl
@[simp] theorem State.setSlotAt_convs (s : State) (k : Nat) (e : Slot) : (s.setSlotAt k e).convs = s.convs := rfl
@[simp] theorem State.setSlotAt_cowHold (s : State) (k : Nat) (e : Slot) : (s.setSlotAt k e).cowHold = s.cowHold := rfl
@[simp] theorem State.setSlotAt_cowReports (s : State) (k : Nat) (e : Slot) : (s.setSlotAt k e).cowReports = s.cowReports := rfl
@[simp] theorem State.setSlotAt_pools (s : State) (k : Nat) (e : Slot) : (s.setSlotAt k e).pools = s.pools := rfl
@[simp] theorem State.setSlotAt_expect (s : State) (k : Nat) (e : Slot) : (s.setSlotAt k e).expect = s.expect := rfl
@[simp] theorem State.setSlotAt_bar0 (s : State) (k : Nat) (e : Slot) : (s.setSlotAt k e).bar0 = s.bar0 := rfl
@[simp] theorem State.setSlotAt_rings (s : State) (k : Nat) (e : Slot) : (s.setSlotAt k e).rings = s.rings := rfl
@[simp] theorem State.setSlotAt_msix (s : State) (k : Nat) (e : Slot) : (s.setSlotAt k e).msix = s.msix := rfl
@[simp] theorem State.setSlotAt_notices (s : State) (k : Nat) (e : Slot) : (s.setSlotAt k e).notices = s.notices := rfl
@[simp] theorem State.setSlotAt_secure (s : State) (k : Nat) (e : Slot) : (s.setSlotAt k e).secure = s.secure := rfl
@[simp] theorem State.setSlotAt_meas (s : State) (k : Nat) (e : Slot) : (s.setSlotAt k e).meas = s.meas := rfl
@[simp] theorem State.setSlotAt_fenced (s : State) (k : Nat) (e : Slot) : (s.setSlotAt k e).fenced = s.fenced := rfl
@[simp] theorem State.setSlotAt_fencing (s : State) (k : Nat) (e : Slot) : (s.setSlotAt k e).fencing = s.fencing := rfl
@[simp] theorem State.setSlotAt_retired (s : State) (k : Nat) (e : Slot) : (s.setSlotAt k e).retired = s.retired := rfl
@[simp] theorem State.setSlotAt_bmc (s : State) (k : Nat) (e : Slot) : (s.setSlotAt k e).bmc = s.bmc := rfl
@[simp] theorem State.setSlotAt_errors (s : State) (k : Nat) (e : Slot) : (s.setSlotAt k e).errors = s.errors := rfl
@[simp] theorem State.setSlotAt_struck (s : State) (k : Nat) (e : Slot) : (s.setSlotAt k e).struck = s.struck := rfl
@[simp] theorem State.setSlotAt_tally (s : State) (k : Nat) (e : Slot) : (s.setSlotAt k e).tally = s.tally := rfl
@[simp] theorem State.setSlotAt_limits (s : State) (k : Nat) (e : Slot) : (s.setSlotAt k e).limits = s.limits := rfl
@[simp] theorem State.setSlotAt_upsets (s : State) (k : Nat) (e : Slot) : (s.setSlotAt k e).upsets = s.upsets := rfl
@[simp] theorem State.setSlotAt_links (s : State) (k : Nat) (e : Slot) : (s.setSlotAt k e).links = s.links := rfl
@[simp] theorem State.setSlotAt_fabric (s : State) (k : Nat) (e : Slot) : (s.setSlotAt k e).fabric = s.fabric := rfl
@[simp] theorem State.setSlotAt_nextReq (s : State) (k : Nat) (e : Slot) : (s.setSlotAt k e).nextReq = s.nextReq := rfl
@[simp] theorem State.setSlotAt_ends (s : State) (k : Nat) (e : Slot) : (s.setSlotAt k e).ends = s.ends := rfl
@[simp] theorem State.setSlotAt_irqs (s : State) (k : Nat) (e : Slot) : (s.setSlotAt k e).irqs = s.irqs := rfl
@[simp] theorem State.setSlotAt_capture (s : State) (k : Nat) (e : Slot) : (s.setSlotAt k e).capture = s.capture := rfl
@[simp] theorem State.setSlotAt_drain (s : State) (k : Nat) (e : Slot) : (s.setSlotAt k e).drain = s.drain := rfl
@[simp] theorem State.setSlotAt_drainAt (s : State) (k : Nat) (e : Slot) : (s.setSlotAt k e).drainAt = s.drainAt := rfl
@[simp] theorem State.setSlotAt_attest (s : State) (k : Nat) (e : Slot) : (s.setSlotAt k e).attest = s.attest := rfl
@[simp] theorem State.setSlotAt_aged (s : State) (k : Nat) (e : Slot) : (s.setSlotAt k e).aged = s.aged := rfl
@[simp] theorem State.setSlotAt_limited (s : State) (k : Nat) (e : Slot) : (s.setSlotAt k e).limited = s.limited := rfl
@[simp] theorem State.setSlotAt_halted (s : State) (k : Nat) (e : Slot) : (s.setSlotAt k e).halted = s.halted := rfl
@[simp] theorem State.setSlotAt_booted (s : State) (k : Nat) (e : Slot) : (s.setSlotAt k e).booted = s.booted := rfl
@[simp] theorem State.setSlotAt_clock (s : State) (k : Nat) (e : Slot) : (s.setSlotAt k e).clock = s.clock := rfl
@[simp] theorem State.setSlotAt_fresh (s : State) (k : Nat) (e : Slot) : (s.setSlotAt k e).fresh = s.fresh := rfl
@[simp] theorem State.setSlotAt_wrote (s : State) (k : Nat) (e : Slot) : (s.setSlotAt k e).wrote = s.wrote := rfl
@[simp] theorem State.setSlotAt_inputs (s : State) (k : Nat) (e : Slot) : (s.setSlotAt k e).inputs = s.inputs := rfl
@[simp] theorem State.setSlotAt_opened (s : State) (k : Nat) (e : Slot) : (s.setSlotAt k e).opened = s.opened := rfl
@[simp] theorem State.setSlotAt_early (s : State) (k : Nat) (e : Slot) : (s.setSlotAt k e).early = s.early := rfl
@[simp] theorem State.setSlotAt_hostRead (s : State) (k : Nat) (e : Slot) : (s.setSlotAt k e).hostRead = s.hostRead := rfl
@[simp] theorem State.setSlotAt_attReport (s : State) (k : Nat) (e : Slot) : (s.setSlotAt k e).attReport = s.attReport := rfl

@[simp] theorem State.setLaunchAt_mem (s : State) (k : Nat) (l : Launch) : (s.setLaunchAt k l).mem = s.mem := rfl
@[simp] theorem State.setLaunchAt_poison (s : State) (k : Nat) (l : Launch) : (s.setLaunchAt k l).poison = s.poison := rfl
@[simp] theorem State.setLaunchAt_cur (s : State) (k : Nat) (l : Launch) : (s.setLaunchAt k l).cur = s.cur := rfl
@[simp] theorem State.setLaunchAt_crews (s : State) (k : Nat) (l : Launch) : (s.setLaunchAt k l).crews = s.crews := rfl
@[simp] theorem State.setLaunchAt_teams (s : State) (k : Nat) (l : Launch) : (s.setLaunchAt k l).teams = s.teams := rfl
@[simp] theorem State.setLaunchAt_slots (s : State) (k : Nat) (l : Launch) : (s.setLaunchAt k l).slots = s.slots := rfl
@[simp] theorem State.setLaunchAt_parts (s : State) (k : Nat) (l : Launch) : (s.setLaunchAt k l).parts = s.parts := rfl
@[simp] theorem State.setLaunchAt_clusters (s : State) (k : Nat) (l : Launch) : (s.setLaunchAt k l).clusters = s.clusters := rfl
@[simp] theorem State.setLaunchAt_vectors (s : State) (k : Nat) (l : Launch) : (s.setLaunchAt k l).vectors = s.vectors := rfl
@[simp] theorem State.setLaunchAt_queueEnds (s : State) (k : Nat) (l : Launch) : (s.setLaunchAt k l).queueEnds = s.queueEnds := rfl
@[simp] theorem State.setLaunchAt_convs (s : State) (k : Nat) (l : Launch) : (s.setLaunchAt k l).convs = s.convs := rfl
@[simp] theorem State.setLaunchAt_cowHold (s : State) (k : Nat) (l : Launch) : (s.setLaunchAt k l).cowHold = s.cowHold := rfl
@[simp] theorem State.setLaunchAt_cowReports (s : State) (k : Nat) (l : Launch) : (s.setLaunchAt k l).cowReports = s.cowReports := rfl
@[simp] theorem State.setLaunchAt_pools (s : State) (k : Nat) (l : Launch) : (s.setLaunchAt k l).pools = s.pools := rfl
@[simp] theorem State.setLaunchAt_expect (s : State) (k : Nat) (l : Launch) : (s.setLaunchAt k l).expect = s.expect := rfl
@[simp] theorem State.setLaunchAt_bar0 (s : State) (k : Nat) (l : Launch) : (s.setLaunchAt k l).bar0 = s.bar0 := rfl
@[simp] theorem State.setLaunchAt_rings (s : State) (k : Nat) (l : Launch) : (s.setLaunchAt k l).rings = s.rings := rfl
@[simp] theorem State.setLaunchAt_msix (s : State) (k : Nat) (l : Launch) : (s.setLaunchAt k l).msix = s.msix := rfl
@[simp] theorem State.setLaunchAt_notices (s : State) (k : Nat) (l : Launch) : (s.setLaunchAt k l).notices = s.notices := rfl
@[simp] theorem State.setLaunchAt_secure (s : State) (k : Nat) (l : Launch) : (s.setLaunchAt k l).secure = s.secure := rfl
@[simp] theorem State.setLaunchAt_meas (s : State) (k : Nat) (l : Launch) : (s.setLaunchAt k l).meas = s.meas := rfl
@[simp] theorem State.setLaunchAt_fenced (s : State) (k : Nat) (l : Launch) : (s.setLaunchAt k l).fenced = s.fenced := rfl
@[simp] theorem State.setLaunchAt_fencing (s : State) (k : Nat) (l : Launch) : (s.setLaunchAt k l).fencing = s.fencing := rfl
@[simp] theorem State.setLaunchAt_retired (s : State) (k : Nat) (l : Launch) : (s.setLaunchAt k l).retired = s.retired := rfl
@[simp] theorem State.setLaunchAt_bmc (s : State) (k : Nat) (l : Launch) : (s.setLaunchAt k l).bmc = s.bmc := rfl
@[simp] theorem State.setLaunchAt_errors (s : State) (k : Nat) (l : Launch) : (s.setLaunchAt k l).errors = s.errors := rfl
@[simp] theorem State.setLaunchAt_struck (s : State) (k : Nat) (l : Launch) : (s.setLaunchAt k l).struck = s.struck := rfl
@[simp] theorem State.setLaunchAt_tally (s : State) (k : Nat) (l : Launch) : (s.setLaunchAt k l).tally = s.tally := rfl
@[simp] theorem State.setLaunchAt_limits (s : State) (k : Nat) (l : Launch) : (s.setLaunchAt k l).limits = s.limits := rfl
@[simp] theorem State.setLaunchAt_upsets (s : State) (k : Nat) (l : Launch) : (s.setLaunchAt k l).upsets = s.upsets := rfl
@[simp] theorem State.setLaunchAt_links (s : State) (k : Nat) (l : Launch) : (s.setLaunchAt k l).links = s.links := rfl
@[simp] theorem State.setLaunchAt_fabric (s : State) (k : Nat) (l : Launch) : (s.setLaunchAt k l).fabric = s.fabric := rfl
@[simp] theorem State.setLaunchAt_nextReq (s : State) (k : Nat) (l : Launch) : (s.setLaunchAt k l).nextReq = s.nextReq := rfl
@[simp] theorem State.setLaunchAt_ends (s : State) (k : Nat) (l : Launch) : (s.setLaunchAt k l).ends = s.ends := rfl
@[simp] theorem State.setLaunchAt_irqs (s : State) (k : Nat) (l : Launch) : (s.setLaunchAt k l).irqs = s.irqs := rfl
@[simp] theorem State.setLaunchAt_capture (s : State) (k : Nat) (l : Launch) : (s.setLaunchAt k l).capture = s.capture := rfl
@[simp] theorem State.setLaunchAt_drain (s : State) (k : Nat) (l : Launch) : (s.setLaunchAt k l).drain = s.drain := rfl
@[simp] theorem State.setLaunchAt_drainAt (s : State) (k : Nat) (l : Launch) : (s.setLaunchAt k l).drainAt = s.drainAt := rfl
@[simp] theorem State.setLaunchAt_attest (s : State) (k : Nat) (l : Launch) : (s.setLaunchAt k l).attest = s.attest := rfl
@[simp] theorem State.setLaunchAt_aged (s : State) (k : Nat) (l : Launch) : (s.setLaunchAt k l).aged = s.aged := rfl
@[simp] theorem State.setLaunchAt_limited (s : State) (k : Nat) (l : Launch) : (s.setLaunchAt k l).limited = s.limited := rfl
@[simp] theorem State.setLaunchAt_halted (s : State) (k : Nat) (l : Launch) : (s.setLaunchAt k l).halted = s.halted := rfl
@[simp] theorem State.setLaunchAt_booted (s : State) (k : Nat) (l : Launch) : (s.setLaunchAt k l).booted = s.booted := rfl
@[simp] theorem State.setLaunchAt_clock (s : State) (k : Nat) (l : Launch) : (s.setLaunchAt k l).clock = s.clock := rfl
@[simp] theorem State.setLaunchAt_fresh (s : State) (k : Nat) (l : Launch) : (s.setLaunchAt k l).fresh = s.fresh := rfl
@[simp] theorem State.setLaunchAt_wrote (s : State) (k : Nat) (l : Launch) : (s.setLaunchAt k l).wrote = s.wrote := rfl
@[simp] theorem State.setLaunchAt_inputs (s : State) (k : Nat) (l : Launch) : (s.setLaunchAt k l).inputs = s.inputs := rfl
@[simp] theorem State.setLaunchAt_opened (s : State) (k : Nat) (l : Launch) : (s.setLaunchAt k l).opened = s.opened := rfl
@[simp] theorem State.setLaunchAt_early (s : State) (k : Nat) (l : Launch) : (s.setLaunchAt k l).early = s.early := rfl
@[simp] theorem State.setLaunchAt_hostRead (s : State) (k : Nat) (l : Launch) : (s.setLaunchAt k l).hostRead = s.hostRead := rfl
@[simp] theorem State.setLaunchAt_attReport (s : State) (k : Nat) (l : Launch) : (s.setLaunchAt k l).attReport = s.attReport := rfl

@[simp] theorem State.setClusterAt_mem (s : State) (k : Nat) (c : Cluster) : (s.setClusterAt k c).mem = s.mem := rfl
@[simp] theorem State.setClusterAt_poison (s : State) (k : Nat) (c : Cluster) : (s.setClusterAt k c).poison = s.poison := rfl
@[simp] theorem State.setClusterAt_cur (s : State) (k : Nat) (c : Cluster) : (s.setClusterAt k c).cur = s.cur := rfl
@[simp] theorem State.setClusterAt_crews (s : State) (k : Nat) (c : Cluster) : (s.setClusterAt k c).crews = s.crews := rfl
@[simp] theorem State.setClusterAt_teams (s : State) (k : Nat) (c : Cluster) : (s.setClusterAt k c).teams = s.teams := rfl
@[simp] theorem State.setClusterAt_slots (s : State) (k : Nat) (c : Cluster) : (s.setClusterAt k c).slots = s.slots := rfl
@[simp] theorem State.setClusterAt_launches (s : State) (k : Nat) (c : Cluster) : (s.setClusterAt k c).launches = s.launches := rfl
@[simp] theorem State.setClusterAt_parts (s : State) (k : Nat) (c : Cluster) : (s.setClusterAt k c).parts = s.parts := rfl
@[simp] theorem State.setClusterAt_vectors (s : State) (k : Nat) (c : Cluster) : (s.setClusterAt k c).vectors = s.vectors := rfl
@[simp] theorem State.setClusterAt_queueEnds (s : State) (k : Nat) (c : Cluster) : (s.setClusterAt k c).queueEnds = s.queueEnds := rfl
@[simp] theorem State.setClusterAt_convs (s : State) (k : Nat) (c : Cluster) : (s.setClusterAt k c).convs = s.convs := rfl
@[simp] theorem State.setClusterAt_cowHold (s : State) (k : Nat) (c : Cluster) : (s.setClusterAt k c).cowHold = s.cowHold := rfl
@[simp] theorem State.setClusterAt_cowReports (s : State) (k : Nat) (c : Cluster) : (s.setClusterAt k c).cowReports = s.cowReports := rfl
@[simp] theorem State.setClusterAt_pools (s : State) (k : Nat) (c : Cluster) : (s.setClusterAt k c).pools = s.pools := rfl
@[simp] theorem State.setClusterAt_expect (s : State) (k : Nat) (c : Cluster) : (s.setClusterAt k c).expect = s.expect := rfl
@[simp] theorem State.setClusterAt_bar0 (s : State) (k : Nat) (c : Cluster) : (s.setClusterAt k c).bar0 = s.bar0 := rfl
@[simp] theorem State.setClusterAt_rings (s : State) (k : Nat) (c : Cluster) : (s.setClusterAt k c).rings = s.rings := rfl
@[simp] theorem State.setClusterAt_msix (s : State) (k : Nat) (c : Cluster) : (s.setClusterAt k c).msix = s.msix := rfl
@[simp] theorem State.setClusterAt_notices (s : State) (k : Nat) (c : Cluster) : (s.setClusterAt k c).notices = s.notices := rfl
@[simp] theorem State.setClusterAt_secure (s : State) (k : Nat) (c : Cluster) : (s.setClusterAt k c).secure = s.secure := rfl
@[simp] theorem State.setClusterAt_meas (s : State) (k : Nat) (c : Cluster) : (s.setClusterAt k c).meas = s.meas := rfl
@[simp] theorem State.setClusterAt_fenced (s : State) (k : Nat) (c : Cluster) : (s.setClusterAt k c).fenced = s.fenced := rfl
@[simp] theorem State.setClusterAt_fencing (s : State) (k : Nat) (c : Cluster) : (s.setClusterAt k c).fencing = s.fencing := rfl
@[simp] theorem State.setClusterAt_retired (s : State) (k : Nat) (c : Cluster) : (s.setClusterAt k c).retired = s.retired := rfl
@[simp] theorem State.setClusterAt_bmc (s : State) (k : Nat) (c : Cluster) : (s.setClusterAt k c).bmc = s.bmc := rfl
@[simp] theorem State.setClusterAt_errors (s : State) (k : Nat) (c : Cluster) : (s.setClusterAt k c).errors = s.errors := rfl
@[simp] theorem State.setClusterAt_struck (s : State) (k : Nat) (c : Cluster) : (s.setClusterAt k c).struck = s.struck := rfl
@[simp] theorem State.setClusterAt_tally (s : State) (k : Nat) (c : Cluster) : (s.setClusterAt k c).tally = s.tally := rfl
@[simp] theorem State.setClusterAt_limits (s : State) (k : Nat) (c : Cluster) : (s.setClusterAt k c).limits = s.limits := rfl
@[simp] theorem State.setClusterAt_upsets (s : State) (k : Nat) (c : Cluster) : (s.setClusterAt k c).upsets = s.upsets := rfl
@[simp] theorem State.setClusterAt_links (s : State) (k : Nat) (c : Cluster) : (s.setClusterAt k c).links = s.links := rfl
@[simp] theorem State.setClusterAt_fabric (s : State) (k : Nat) (c : Cluster) : (s.setClusterAt k c).fabric = s.fabric := rfl
@[simp] theorem State.setClusterAt_nextReq (s : State) (k : Nat) (c : Cluster) : (s.setClusterAt k c).nextReq = s.nextReq := rfl
@[simp] theorem State.setClusterAt_ends (s : State) (k : Nat) (c : Cluster) : (s.setClusterAt k c).ends = s.ends := rfl
@[simp] theorem State.setClusterAt_irqs (s : State) (k : Nat) (c : Cluster) : (s.setClusterAt k c).irqs = s.irqs := rfl
@[simp] theorem State.setClusterAt_capture (s : State) (k : Nat) (c : Cluster) : (s.setClusterAt k c).capture = s.capture := rfl
@[simp] theorem State.setClusterAt_drain (s : State) (k : Nat) (c : Cluster) : (s.setClusterAt k c).drain = s.drain := rfl
@[simp] theorem State.setClusterAt_drainAt (s : State) (k : Nat) (c : Cluster) : (s.setClusterAt k c).drainAt = s.drainAt := rfl
@[simp] theorem State.setClusterAt_attest (s : State) (k : Nat) (c : Cluster) : (s.setClusterAt k c).attest = s.attest := rfl
@[simp] theorem State.setClusterAt_aged (s : State) (k : Nat) (c : Cluster) : (s.setClusterAt k c).aged = s.aged := rfl
@[simp] theorem State.setClusterAt_limited (s : State) (k : Nat) (c : Cluster) : (s.setClusterAt k c).limited = s.limited := rfl
@[simp] theorem State.setClusterAt_halted (s : State) (k : Nat) (c : Cluster) : (s.setClusterAt k c).halted = s.halted := rfl
@[simp] theorem State.setClusterAt_booted (s : State) (k : Nat) (c : Cluster) : (s.setClusterAt k c).booted = s.booted := rfl
@[simp] theorem State.setClusterAt_clock (s : State) (k : Nat) (c : Cluster) : (s.setClusterAt k c).clock = s.clock := rfl
@[simp] theorem State.setClusterAt_fresh (s : State) (k : Nat) (c : Cluster) : (s.setClusterAt k c).fresh = s.fresh := rfl
@[simp] theorem State.setClusterAt_wrote (s : State) (k : Nat) (c : Cluster) : (s.setClusterAt k c).wrote = s.wrote := rfl
@[simp] theorem State.setClusterAt_inputs (s : State) (k : Nat) (c : Cluster) : (s.setClusterAt k c).inputs = s.inputs := rfl
@[simp] theorem State.setClusterAt_opened (s : State) (k : Nat) (c : Cluster) : (s.setClusterAt k c).opened = s.opened := rfl
@[simp] theorem State.setClusterAt_early (s : State) (k : Nat) (c : Cluster) : (s.setClusterAt k c).early = s.early := rfl
@[simp] theorem State.setClusterAt_hostRead (s : State) (k : Nat) (c : Cluster) : (s.setClusterAt k c).hostRead = s.hostRead := rfl
@[simp] theorem State.setClusterAt_attReport (s : State) (k : Nat) (c : Cluster) : (s.setClusterAt k c).attReport = s.attReport := rfl

@[simp] theorem State.setConvAt_mem (s : State) (k : Nat) (c : Conv) : (s.setConvAt k c).mem = s.mem := rfl
@[simp] theorem State.setConvAt_poison (s : State) (k : Nat) (c : Conv) : (s.setConvAt k c).poison = s.poison := rfl
@[simp] theorem State.setConvAt_cur (s : State) (k : Nat) (c : Conv) : (s.setConvAt k c).cur = s.cur := rfl
@[simp] theorem State.setConvAt_crews (s : State) (k : Nat) (c : Conv) : (s.setConvAt k c).crews = s.crews := rfl
@[simp] theorem State.setConvAt_teams (s : State) (k : Nat) (c : Conv) : (s.setConvAt k c).teams = s.teams := rfl
@[simp] theorem State.setConvAt_slots (s : State) (k : Nat) (c : Conv) : (s.setConvAt k c).slots = s.slots := rfl
@[simp] theorem State.setConvAt_launches (s : State) (k : Nat) (c : Conv) : (s.setConvAt k c).launches = s.launches := rfl
@[simp] theorem State.setConvAt_parts (s : State) (k : Nat) (c : Conv) : (s.setConvAt k c).parts = s.parts := rfl
@[simp] theorem State.setConvAt_clusters (s : State) (k : Nat) (c : Conv) : (s.setConvAt k c).clusters = s.clusters := rfl
@[simp] theorem State.setConvAt_vectors (s : State) (k : Nat) (c : Conv) : (s.setConvAt k c).vectors = s.vectors := rfl
@[simp] theorem State.setConvAt_queueEnds (s : State) (k : Nat) (c : Conv) : (s.setConvAt k c).queueEnds = s.queueEnds := rfl
@[simp] theorem State.setConvAt_cowHold (s : State) (k : Nat) (c : Conv) : (s.setConvAt k c).cowHold = s.cowHold := rfl
@[simp] theorem State.setConvAt_cowReports (s : State) (k : Nat) (c : Conv) : (s.setConvAt k c).cowReports = s.cowReports := rfl
@[simp] theorem State.setConvAt_pools (s : State) (k : Nat) (c : Conv) : (s.setConvAt k c).pools = s.pools := rfl
@[simp] theorem State.setConvAt_expect (s : State) (k : Nat) (c : Conv) : (s.setConvAt k c).expect = s.expect := rfl
@[simp] theorem State.setConvAt_bar0 (s : State) (k : Nat) (c : Conv) : (s.setConvAt k c).bar0 = s.bar0 := rfl
@[simp] theorem State.setConvAt_rings (s : State) (k : Nat) (c : Conv) : (s.setConvAt k c).rings = s.rings := rfl
@[simp] theorem State.setConvAt_msix (s : State) (k : Nat) (c : Conv) : (s.setConvAt k c).msix = s.msix := rfl
@[simp] theorem State.setConvAt_notices (s : State) (k : Nat) (c : Conv) : (s.setConvAt k c).notices = s.notices := rfl
@[simp] theorem State.setConvAt_secure (s : State) (k : Nat) (c : Conv) : (s.setConvAt k c).secure = s.secure := rfl
@[simp] theorem State.setConvAt_meas (s : State) (k : Nat) (c : Conv) : (s.setConvAt k c).meas = s.meas := rfl
@[simp] theorem State.setConvAt_fenced (s : State) (k : Nat) (c : Conv) : (s.setConvAt k c).fenced = s.fenced := rfl
@[simp] theorem State.setConvAt_fencing (s : State) (k : Nat) (c : Conv) : (s.setConvAt k c).fencing = s.fencing := rfl
@[simp] theorem State.setConvAt_retired (s : State) (k : Nat) (c : Conv) : (s.setConvAt k c).retired = s.retired := rfl
@[simp] theorem State.setConvAt_bmc (s : State) (k : Nat) (c : Conv) : (s.setConvAt k c).bmc = s.bmc := rfl
@[simp] theorem State.setConvAt_errors (s : State) (k : Nat) (c : Conv) : (s.setConvAt k c).errors = s.errors := rfl
@[simp] theorem State.setConvAt_struck (s : State) (k : Nat) (c : Conv) : (s.setConvAt k c).struck = s.struck := rfl
@[simp] theorem State.setConvAt_tally (s : State) (k : Nat) (c : Conv) : (s.setConvAt k c).tally = s.tally := rfl
@[simp] theorem State.setConvAt_limits (s : State) (k : Nat) (c : Conv) : (s.setConvAt k c).limits = s.limits := rfl
@[simp] theorem State.setConvAt_upsets (s : State) (k : Nat) (c : Conv) : (s.setConvAt k c).upsets = s.upsets := rfl
@[simp] theorem State.setConvAt_links (s : State) (k : Nat) (c : Conv) : (s.setConvAt k c).links = s.links := rfl
@[simp] theorem State.setConvAt_fabric (s : State) (k : Nat) (c : Conv) : (s.setConvAt k c).fabric = s.fabric := rfl
@[simp] theorem State.setConvAt_nextReq (s : State) (k : Nat) (c : Conv) : (s.setConvAt k c).nextReq = s.nextReq := rfl
@[simp] theorem State.setConvAt_ends (s : State) (k : Nat) (c : Conv) : (s.setConvAt k c).ends = s.ends := rfl
@[simp] theorem State.setConvAt_irqs (s : State) (k : Nat) (c : Conv) : (s.setConvAt k c).irqs = s.irqs := rfl
@[simp] theorem State.setConvAt_capture (s : State) (k : Nat) (c : Conv) : (s.setConvAt k c).capture = s.capture := rfl
@[simp] theorem State.setConvAt_drain (s : State) (k : Nat) (c : Conv) : (s.setConvAt k c).drain = s.drain := rfl
@[simp] theorem State.setConvAt_drainAt (s : State) (k : Nat) (c : Conv) : (s.setConvAt k c).drainAt = s.drainAt := rfl
@[simp] theorem State.setConvAt_attest (s : State) (k : Nat) (c : Conv) : (s.setConvAt k c).attest = s.attest := rfl
@[simp] theorem State.setConvAt_aged (s : State) (k : Nat) (c : Conv) : (s.setConvAt k c).aged = s.aged := rfl
@[simp] theorem State.setConvAt_limited (s : State) (k : Nat) (c : Conv) : (s.setConvAt k c).limited = s.limited := rfl
@[simp] theorem State.setConvAt_halted (s : State) (k : Nat) (c : Conv) : (s.setConvAt k c).halted = s.halted := rfl
@[simp] theorem State.setConvAt_booted (s : State) (k : Nat) (c : Conv) : (s.setConvAt k c).booted = s.booted := rfl
@[simp] theorem State.setConvAt_clock (s : State) (k : Nat) (c : Conv) : (s.setConvAt k c).clock = s.clock := rfl
@[simp] theorem State.setConvAt_fresh (s : State) (k : Nat) (c : Conv) : (s.setConvAt k c).fresh = s.fresh := rfl
@[simp] theorem State.setConvAt_wrote (s : State) (k : Nat) (c : Conv) : (s.setConvAt k c).wrote = s.wrote := rfl
@[simp] theorem State.setConvAt_inputs (s : State) (k : Nat) (c : Conv) : (s.setConvAt k c).inputs = s.inputs := rfl
@[simp] theorem State.setConvAt_opened (s : State) (k : Nat) (c : Conv) : (s.setConvAt k c).opened = s.opened := rfl
@[simp] theorem State.setConvAt_early (s : State) (k : Nat) (c : Conv) : (s.setConvAt k c).early = s.early := rfl
@[simp] theorem State.setConvAt_hostRead (s : State) (k : Nat) (c : Conv) : (s.setConvAt k c).hostRead = s.hostRead := rfl
@[simp] theorem State.setConvAt_attReport (s : State) (k : Nat) (c : Conv) : (s.setConvAt k c).attReport = s.attReport := rfl

@[simp] theorem State.setReg_mem (s : State) (fn off : Nat) (v : DWord) : (s.setReg fn off v).mem = s.mem := rfl
@[simp] theorem State.setReg_poison (s : State) (fn off : Nat) (v : DWord) : (s.setReg fn off v).poison = s.poison := rfl
@[simp] theorem State.setReg_cur (s : State) (fn off : Nat) (v : DWord) : (s.setReg fn off v).cur = s.cur := rfl
@[simp] theorem State.setReg_crews (s : State) (fn off : Nat) (v : DWord) : (s.setReg fn off v).crews = s.crews := rfl
@[simp] theorem State.setReg_teams (s : State) (fn off : Nat) (v : DWord) : (s.setReg fn off v).teams = s.teams := rfl
@[simp] theorem State.setReg_slots (s : State) (fn off : Nat) (v : DWord) : (s.setReg fn off v).slots = s.slots := rfl
@[simp] theorem State.setReg_launches (s : State) (fn off : Nat) (v : DWord) : (s.setReg fn off v).launches = s.launches := rfl
@[simp] theorem State.setReg_parts (s : State) (fn off : Nat) (v : DWord) : (s.setReg fn off v).parts = s.parts := rfl
@[simp] theorem State.setReg_clusters (s : State) (fn off : Nat) (v : DWord) : (s.setReg fn off v).clusters = s.clusters := rfl
@[simp] theorem State.setReg_vectors (s : State) (fn off : Nat) (v : DWord) : (s.setReg fn off v).vectors = s.vectors := rfl
@[simp] theorem State.setReg_queueEnds (s : State) (fn off : Nat) (v : DWord) : (s.setReg fn off v).queueEnds = s.queueEnds := rfl
@[simp] theorem State.setReg_convs (s : State) (fn off : Nat) (v : DWord) : (s.setReg fn off v).convs = s.convs := rfl
@[simp] theorem State.setReg_cowHold (s : State) (fn off : Nat) (v : DWord) : (s.setReg fn off v).cowHold = s.cowHold := rfl
@[simp] theorem State.setReg_cowReports (s : State) (fn off : Nat) (v : DWord) : (s.setReg fn off v).cowReports = s.cowReports := rfl
@[simp] theorem State.setReg_pools (s : State) (fn off : Nat) (v : DWord) : (s.setReg fn off v).pools = s.pools := rfl
@[simp] theorem State.setReg_expect (s : State) (fn off : Nat) (v : DWord) : (s.setReg fn off v).expect = s.expect := rfl
@[simp] theorem State.setReg_rings (s : State) (fn off : Nat) (v : DWord) : (s.setReg fn off v).rings = s.rings := rfl
@[simp] theorem State.setReg_msix (s : State) (fn off : Nat) (v : DWord) : (s.setReg fn off v).msix = s.msix := rfl
@[simp] theorem State.setReg_notices (s : State) (fn off : Nat) (v : DWord) : (s.setReg fn off v).notices = s.notices := rfl
@[simp] theorem State.setReg_secure (s : State) (fn off : Nat) (v : DWord) : (s.setReg fn off v).secure = s.secure := rfl
@[simp] theorem State.setReg_meas (s : State) (fn off : Nat) (v : DWord) : (s.setReg fn off v).meas = s.meas := rfl
@[simp] theorem State.setReg_fenced (s : State) (fn off : Nat) (v : DWord) : (s.setReg fn off v).fenced = s.fenced := rfl
@[simp] theorem State.setReg_fencing (s : State) (fn off : Nat) (v : DWord) : (s.setReg fn off v).fencing = s.fencing := rfl
@[simp] theorem State.setReg_retired (s : State) (fn off : Nat) (v : DWord) : (s.setReg fn off v).retired = s.retired := rfl
@[simp] theorem State.setReg_bmc (s : State) (fn off : Nat) (v : DWord) : (s.setReg fn off v).bmc = s.bmc := rfl
@[simp] theorem State.setReg_errors (s : State) (fn off : Nat) (v : DWord) : (s.setReg fn off v).errors = s.errors := rfl
@[simp] theorem State.setReg_struck (s : State) (fn off : Nat) (v : DWord) : (s.setReg fn off v).struck = s.struck := rfl
@[simp] theorem State.setReg_tally (s : State) (fn off : Nat) (v : DWord) : (s.setReg fn off v).tally = s.tally := rfl
@[simp] theorem State.setReg_limits (s : State) (fn off : Nat) (v : DWord) : (s.setReg fn off v).limits = s.limits := rfl
@[simp] theorem State.setReg_upsets (s : State) (fn off : Nat) (v : DWord) : (s.setReg fn off v).upsets = s.upsets := rfl
@[simp] theorem State.setReg_links (s : State) (fn off : Nat) (v : DWord) : (s.setReg fn off v).links = s.links := rfl
@[simp] theorem State.setReg_fabric (s : State) (fn off : Nat) (v : DWord) : (s.setReg fn off v).fabric = s.fabric := rfl
@[simp] theorem State.setReg_nextReq (s : State) (fn off : Nat) (v : DWord) : (s.setReg fn off v).nextReq = s.nextReq := rfl
@[simp] theorem State.setReg_ends (s : State) (fn off : Nat) (v : DWord) : (s.setReg fn off v).ends = s.ends := rfl
@[simp] theorem State.setReg_irqs (s : State) (fn off : Nat) (v : DWord) : (s.setReg fn off v).irqs = s.irqs := rfl
@[simp] theorem State.setReg_capture (s : State) (fn off : Nat) (v : DWord) : (s.setReg fn off v).capture = s.capture := rfl
@[simp] theorem State.setReg_drain (s : State) (fn off : Nat) (v : DWord) : (s.setReg fn off v).drain = s.drain := rfl
@[simp] theorem State.setReg_drainAt (s : State) (fn off : Nat) (v : DWord) : (s.setReg fn off v).drainAt = s.drainAt := rfl
@[simp] theorem State.setReg_attest (s : State) (fn off : Nat) (v : DWord) : (s.setReg fn off v).attest = s.attest := rfl
@[simp] theorem State.setReg_aged (s : State) (fn off : Nat) (v : DWord) : (s.setReg fn off v).aged = s.aged := rfl
@[simp] theorem State.setReg_limited (s : State) (fn off : Nat) (v : DWord) : (s.setReg fn off v).limited = s.limited := rfl
@[simp] theorem State.setReg_halted (s : State) (fn off : Nat) (v : DWord) : (s.setReg fn off v).halted = s.halted := rfl
@[simp] theorem State.setReg_booted (s : State) (fn off : Nat) (v : DWord) : (s.setReg fn off v).booted = s.booted := rfl
@[simp] theorem State.setReg_clock (s : State) (fn off : Nat) (v : DWord) : (s.setReg fn off v).clock = s.clock := rfl
@[simp] theorem State.setReg_fresh (s : State) (fn off : Nat) (v : DWord) : (s.setReg fn off v).fresh = s.fresh := rfl
@[simp] theorem State.setReg_wrote (s : State) (fn off : Nat) (v : DWord) : (s.setReg fn off v).wrote = s.wrote := rfl
@[simp] theorem State.setReg_inputs (s : State) (fn off : Nat) (v : DWord) : (s.setReg fn off v).inputs = s.inputs := rfl
@[simp] theorem State.setReg_opened (s : State) (fn off : Nat) (v : DWord) : (s.setReg fn off v).opened = s.opened := rfl
@[simp] theorem State.setReg_early (s : State) (fn off : Nat) (v : DWord) : (s.setReg fn off v).early = s.early := rfl
@[simp] theorem State.setReg_hostRead (s : State) (fn off : Nat) (v : DWord) : (s.setReg fn off v).hostRead = s.hostRead := rfl
@[simp] theorem State.setReg_attReport (s : State) (fn off : Nat) (v : DWord) : (s.setReg fn off v).attReport = s.attReport := rfl

@[simp] theorem State.writeMem_cur (s : State) (a : Nat) (bs : List Byte) : (s.writeMem a bs).cur = s.cur := rfl
@[simp] theorem State.writeMem_crews (s : State) (a : Nat) (bs : List Byte) : (s.writeMem a bs).crews = s.crews := rfl
@[simp] theorem State.writeMem_teams (s : State) (a : Nat) (bs : List Byte) : (s.writeMem a bs).teams = s.teams := rfl
@[simp] theorem State.writeMem_slots (s : State) (a : Nat) (bs : List Byte) : (s.writeMem a bs).slots = s.slots := rfl
@[simp] theorem State.writeMem_launches (s : State) (a : Nat) (bs : List Byte) : (s.writeMem a bs).launches = s.launches := rfl
@[simp] theorem State.writeMem_parts (s : State) (a : Nat) (bs : List Byte) : (s.writeMem a bs).parts = s.parts := rfl
@[simp] theorem State.writeMem_clusters (s : State) (a : Nat) (bs : List Byte) : (s.writeMem a bs).clusters = s.clusters := rfl
@[simp] theorem State.writeMem_vectors (s : State) (a : Nat) (bs : List Byte) : (s.writeMem a bs).vectors = s.vectors := rfl
@[simp] theorem State.writeMem_queueEnds (s : State) (a : Nat) (bs : List Byte) : (s.writeMem a bs).queueEnds = s.queueEnds := rfl
@[simp] theorem State.writeMem_convs (s : State) (a : Nat) (bs : List Byte) : (s.writeMem a bs).convs = s.convs := rfl
@[simp] theorem State.writeMem_cowHold (s : State) (a : Nat) (bs : List Byte) : (s.writeMem a bs).cowHold = s.cowHold := rfl
@[simp] theorem State.writeMem_cowReports (s : State) (a : Nat) (bs : List Byte) : (s.writeMem a bs).cowReports = s.cowReports := rfl
@[simp] theorem State.writeMem_pools (s : State) (a : Nat) (bs : List Byte) : (s.writeMem a bs).pools = s.pools := rfl
@[simp] theorem State.writeMem_expect (s : State) (a : Nat) (bs : List Byte) : (s.writeMem a bs).expect = s.expect := rfl
@[simp] theorem State.writeMem_bar0 (s : State) (a : Nat) (bs : List Byte) : (s.writeMem a bs).bar0 = s.bar0 := rfl
@[simp] theorem State.writeMem_rings (s : State) (a : Nat) (bs : List Byte) : (s.writeMem a bs).rings = s.rings := rfl
@[simp] theorem State.writeMem_msix (s : State) (a : Nat) (bs : List Byte) : (s.writeMem a bs).msix = s.msix := rfl
@[simp] theorem State.writeMem_notices (s : State) (a : Nat) (bs : List Byte) : (s.writeMem a bs).notices = s.notices := rfl
@[simp] theorem State.writeMem_secure (s : State) (a : Nat) (bs : List Byte) : (s.writeMem a bs).secure = s.secure := rfl
@[simp] theorem State.writeMem_meas (s : State) (a : Nat) (bs : List Byte) : (s.writeMem a bs).meas = s.meas := rfl
@[simp] theorem State.writeMem_fenced (s : State) (a : Nat) (bs : List Byte) : (s.writeMem a bs).fenced = s.fenced := rfl
@[simp] theorem State.writeMem_fencing (s : State) (a : Nat) (bs : List Byte) : (s.writeMem a bs).fencing = s.fencing := rfl
@[simp] theorem State.writeMem_retired (s : State) (a : Nat) (bs : List Byte) : (s.writeMem a bs).retired = s.retired := rfl
@[simp] theorem State.writeMem_bmc (s : State) (a : Nat) (bs : List Byte) : (s.writeMem a bs).bmc = s.bmc := rfl
@[simp] theorem State.writeMem_errors (s : State) (a : Nat) (bs : List Byte) : (s.writeMem a bs).errors = s.errors := rfl
@[simp] theorem State.writeMem_struck (s : State) (a : Nat) (bs : List Byte) : (s.writeMem a bs).struck = s.struck := rfl
@[simp] theorem State.writeMem_tally (s : State) (a : Nat) (bs : List Byte) : (s.writeMem a bs).tally = s.tally := rfl
@[simp] theorem State.writeMem_limits (s : State) (a : Nat) (bs : List Byte) : (s.writeMem a bs).limits = s.limits := rfl
@[simp] theorem State.writeMem_upsets (s : State) (a : Nat) (bs : List Byte) : (s.writeMem a bs).upsets = s.upsets := rfl
@[simp] theorem State.writeMem_links (s : State) (a : Nat) (bs : List Byte) : (s.writeMem a bs).links = s.links := rfl
@[simp] theorem State.writeMem_fabric (s : State) (a : Nat) (bs : List Byte) : (s.writeMem a bs).fabric = s.fabric := rfl
@[simp] theorem State.writeMem_nextReq (s : State) (a : Nat) (bs : List Byte) : (s.writeMem a bs).nextReq = s.nextReq := rfl
@[simp] theorem State.writeMem_ends (s : State) (a : Nat) (bs : List Byte) : (s.writeMem a bs).ends = s.ends := rfl
@[simp] theorem State.writeMem_irqs (s : State) (a : Nat) (bs : List Byte) : (s.writeMem a bs).irqs = s.irqs := rfl
@[simp] theorem State.writeMem_capture (s : State) (a : Nat) (bs : List Byte) : (s.writeMem a bs).capture = s.capture := rfl
@[simp] theorem State.writeMem_drain (s : State) (a : Nat) (bs : List Byte) : (s.writeMem a bs).drain = s.drain := rfl
@[simp] theorem State.writeMem_drainAt (s : State) (a : Nat) (bs : List Byte) : (s.writeMem a bs).drainAt = s.drainAt := rfl
@[simp] theorem State.writeMem_attest (s : State) (a : Nat) (bs : List Byte) : (s.writeMem a bs).attest = s.attest := rfl
@[simp] theorem State.writeMem_aged (s : State) (a : Nat) (bs : List Byte) : (s.writeMem a bs).aged = s.aged := rfl
@[simp] theorem State.writeMem_limited (s : State) (a : Nat) (bs : List Byte) : (s.writeMem a bs).limited = s.limited := rfl
@[simp] theorem State.writeMem_halted (s : State) (a : Nat) (bs : List Byte) : (s.writeMem a bs).halted = s.halted := rfl
@[simp] theorem State.writeMem_booted (s : State) (a : Nat) (bs : List Byte) : (s.writeMem a bs).booted = s.booted := rfl
@[simp] theorem State.writeMem_clock (s : State) (a : Nat) (bs : List Byte) : (s.writeMem a bs).clock = s.clock := rfl
@[simp] theorem State.writeMem_fresh (s : State) (a : Nat) (bs : List Byte) : (s.writeMem a bs).fresh = s.fresh := rfl
@[simp] theorem State.writeMem_wrote (s : State) (a : Nat) (bs : List Byte) : (s.writeMem a bs).wrote = s.wrote := rfl
@[simp] theorem State.writeMem_inputs (s : State) (a : Nat) (bs : List Byte) : (s.writeMem a bs).inputs = s.inputs := rfl
@[simp] theorem State.writeMem_opened (s : State) (a : Nat) (bs : List Byte) : (s.writeMem a bs).opened = s.opened := rfl
@[simp] theorem State.writeMem_early (s : State) (a : Nat) (bs : List Byte) : (s.writeMem a bs).early = s.early := rfl
@[simp] theorem State.writeMem_hostRead (s : State) (a : Nat) (bs : List Byte) : (s.writeMem a bs).hostRead = s.hostRead := rfl
@[simp] theorem State.writeMem_attReport (s : State) (a : Nat) (bs : List Byte) : (s.writeMem a bs).attReport = s.attReport := rfl

@[simp] theorem State.at_mem (s : State) (k : Nat) : (s.at_ k).mem = s.mem := rfl
@[simp] theorem State.at_poison (s : State) (k : Nat) : (s.at_ k).poison = s.poison := rfl
@[simp] theorem State.at_crews (s : State) (k : Nat) : (s.at_ k).crews = s.crews := rfl
@[simp] theorem State.at_teams (s : State) (k : Nat) : (s.at_ k).teams = s.teams := rfl
@[simp] theorem State.at_slots (s : State) (k : Nat) : (s.at_ k).slots = s.slots := rfl
@[simp] theorem State.at_launches (s : State) (k : Nat) : (s.at_ k).launches = s.launches := rfl
@[simp] theorem State.at_parts (s : State) (k : Nat) : (s.at_ k).parts = s.parts := rfl
@[simp] theorem State.at_clusters (s : State) (k : Nat) : (s.at_ k).clusters = s.clusters := rfl
@[simp] theorem State.at_vectors (s : State) (k : Nat) : (s.at_ k).vectors = s.vectors := rfl
@[simp] theorem State.at_queueEnds (s : State) (k : Nat) : (s.at_ k).queueEnds = s.queueEnds := rfl
@[simp] theorem State.at_convs (s : State) (k : Nat) : (s.at_ k).convs = s.convs := rfl
@[simp] theorem State.at_cowHold (s : State) (k : Nat) : (s.at_ k).cowHold = s.cowHold := rfl
@[simp] theorem State.at_cowReports (s : State) (k : Nat) : (s.at_ k).cowReports = s.cowReports := rfl
@[simp] theorem State.at_pools (s : State) (k : Nat) : (s.at_ k).pools = s.pools := rfl
@[simp] theorem State.at_expect (s : State) (k : Nat) : (s.at_ k).expect = s.expect := rfl
@[simp] theorem State.at_bar0 (s : State) (k : Nat) : (s.at_ k).bar0 = s.bar0 := rfl
@[simp] theorem State.at_rings (s : State) (k : Nat) : (s.at_ k).rings = s.rings := rfl
@[simp] theorem State.at_msix (s : State) (k : Nat) : (s.at_ k).msix = s.msix := rfl
@[simp] theorem State.at_notices (s : State) (k : Nat) : (s.at_ k).notices = s.notices := rfl
@[simp] theorem State.at_secure (s : State) (k : Nat) : (s.at_ k).secure = s.secure := rfl
@[simp] theorem State.at_meas (s : State) (k : Nat) : (s.at_ k).meas = s.meas := rfl
@[simp] theorem State.at_fenced (s : State) (k : Nat) : (s.at_ k).fenced = s.fenced := rfl
@[simp] theorem State.at_fencing (s : State) (k : Nat) : (s.at_ k).fencing = s.fencing := rfl
@[simp] theorem State.at_retired (s : State) (k : Nat) : (s.at_ k).retired = s.retired := rfl
@[simp] theorem State.at_bmc (s : State) (k : Nat) : (s.at_ k).bmc = s.bmc := rfl
@[simp] theorem State.at_errors (s : State) (k : Nat) : (s.at_ k).errors = s.errors := rfl
@[simp] theorem State.at_struck (s : State) (k : Nat) : (s.at_ k).struck = s.struck := rfl
@[simp] theorem State.at_tally (s : State) (k : Nat) : (s.at_ k).tally = s.tally := rfl
@[simp] theorem State.at_limits (s : State) (k : Nat) : (s.at_ k).limits = s.limits := rfl
@[simp] theorem State.at_upsets (s : State) (k : Nat) : (s.at_ k).upsets = s.upsets := rfl
@[simp] theorem State.at_links (s : State) (k : Nat) : (s.at_ k).links = s.links := rfl
@[simp] theorem State.at_fabric (s : State) (k : Nat) : (s.at_ k).fabric = s.fabric := rfl
@[simp] theorem State.at_nextReq (s : State) (k : Nat) : (s.at_ k).nextReq = s.nextReq := rfl
@[simp] theorem State.at_ends (s : State) (k : Nat) : (s.at_ k).ends = s.ends := rfl
@[simp] theorem State.at_irqs (s : State) (k : Nat) : (s.at_ k).irqs = s.irqs := rfl
@[simp] theorem State.at_capture (s : State) (k : Nat) : (s.at_ k).capture = s.capture := rfl
@[simp] theorem State.at_drain (s : State) (k : Nat) : (s.at_ k).drain = s.drain := rfl
@[simp] theorem State.at_drainAt (s : State) (k : Nat) : (s.at_ k).drainAt = s.drainAt := rfl
@[simp] theorem State.at_attest (s : State) (k : Nat) : (s.at_ k).attest = s.attest := rfl
@[simp] theorem State.at_aged (s : State) (k : Nat) : (s.at_ k).aged = s.aged := rfl
@[simp] theorem State.at_limited (s : State) (k : Nat) : (s.at_ k).limited = s.limited := rfl
@[simp] theorem State.at_halted (s : State) (k : Nat) : (s.at_ k).halted = s.halted := rfl
@[simp] theorem State.at_booted (s : State) (k : Nat) : (s.at_ k).booted = s.booted := rfl
@[simp] theorem State.at_clock (s : State) (k : Nat) : (s.at_ k).clock = s.clock := rfl
@[simp] theorem State.at_fresh (s : State) (k : Nat) : (s.at_ k).fresh = s.fresh := rfl
@[simp] theorem State.at_wrote (s : State) (k : Nat) : (s.at_ k).wrote = s.wrote := rfl
@[simp] theorem State.at_inputs (s : State) (k : Nat) : (s.at_ k).inputs = s.inputs := rfl
@[simp] theorem State.at_opened (s : State) (k : Nat) : (s.at_ k).opened = s.opened := rfl
@[simp] theorem State.at_early (s : State) (k : Nat) : (s.at_ k).early = s.early := rfl
@[simp] theorem State.at_hostRead (s : State) (k : Nat) : (s.at_ k).hostRead = s.hostRead := rfl
@[simp] theorem State.at_attReport (s : State) (k : Nat) : (s.at_ k).attReport = s.attReport := rfl
@[simp] theorem State.at_cur (s : State) (k : Nat) : (s.at_ k).cur = k := rfl

@[simp] theorem Crew.setV_bound (c : Crew) (r l : Nat) (x : Word) : (c.setV r l x).bound = c.bound := rfl
@[simp] theorem Crew.setV_live (c : Crew) (r l : Nat) (x : Word) : (c.setV r l x).live = c.live := rfl
@[simp] theorem Crew.setV_exm (c : Crew) (r l : Nat) (x : Word) : (c.setV r l x).exm = c.exm := rfl
@[simp] theorem Crew.setV_pc (c : Crew) (r l : Nat) (x : Word) : (c.setV r l x).pc = c.pc := rfl
@[simp] theorem Crew.setV_sr (c : Crew) (r l : Nat) (x : Word) : (c.setV r l x).sr = c.sr := rfl
@[simp] theorem Crew.setV_bl0 (c : Crew) (r l : Nat) (x : Word) : (c.setV r l x).bl0 = c.bl0 := rfl
@[simp] theorem Crew.setV_bl1 (c : Crew) (r l : Nat) (x : Word) : (c.setV r l x).bl1 = c.bl1 := rfl
@[simp] theorem Crew.setV_bl2 (c : Crew) (r l : Nat) (x : Word) : (c.setV r l x).bl2 = c.bl2 := rfl
@[simp] theorem Crew.setV_bl3 (c : Crew) (r l : Nat) (x : Word) : (c.setV r l x).bl3 = c.bl3 := rfl
@[simp] theorem Crew.setV_bs0 (c : Crew) (r l : Nat) (x : Word) : (c.setV r l x).bs0 = c.bs0 := rfl
@[simp] theorem Crew.setV_bs1 (c : Crew) (r l : Nat) (x : Word) : (c.setV r l x).bs1 = c.bs1 := rfl
@[simp] theorem Crew.setV_bs2 (c : Crew) (r l : Nat) (x : Word) : (c.setV r l x).bs2 = c.bs2 := rfl
@[simp] theorem Crew.setV_bs3 (c : Crew) (r l : Nat) (x : Word) : (c.setV r l x).bs3 = c.bs3 := rfl
@[simp] theorem Crew.setV_nL (c : Crew) (r l : Nat) (x : Word) : (c.setV r l x).nL = c.nL := rfl
@[simp] theorem Crew.setV_nS (c : Crew) (r l : Nat) (x : Word) : (c.setV r l x).nS = c.nS := rfl
@[simp] theorem Crew.setV_fin (c : Crew) (r l : Nat) (x : Word) : (c.setV r l x).fin = c.fin := rfl
@[simp] theorem Crew.setV_head (c : Crew) (r l : Nat) (x : Word) : (c.setV r l x).head = c.head := rfl
@[simp] theorem Crew.setV_fpcr (c : Crew) (r l : Nat) (x : Word) : (c.setV r l x).fpcr = c.fpcr := rfl
@[simp] theorem Crew.setV_fpsr (c : Crew) (r l : Nat) (x : Word) : (c.setV r l x).fpsr = c.fpsr := rfl
@[simp] theorem Crew.setV_psel (c : Crew) (r l : Nat) (x : Word) : (c.setV r l x).psel = c.psel := rfl
@[simp] theorem Crew.setV_rxf (c : Crew) (r l : Nat) (x : Word) : (c.setV r l x).rxf = c.rxf := rfl
@[simp] theorem Crew.setV_strmdef (c : Crew) (r l : Nat) (x : Word) : (c.setV r l x).strmdef = c.strmdef := rfl
@[simp] theorem Crew.setV_trapcause (c : Crew) (r l : Nat) (x : Word) : (c.setV r l x).trapcause = c.trapcause := rfl
@[simp] theorem Crew.setV_trappc (c : Crew) (r l : Nat) (x : Word) : (c.setV r l x).trappc = c.trappc := rfl
@[simp] theorem Crew.setV_traplanes (c : Crew) (r l : Nat) (x : Word) : (c.setV r l x).traplanes = c.traplanes := rfl
@[simp] theorem Crew.setV_trapaddr (c : Crew) (r l : Nat) (x : Word) : (c.setV r l x).trapaddr = c.trapaddr := rfl
@[simp] theorem Crew.setV_traprep (c : Crew) (r l : Nat) (x : Word) : (c.setV r l x).traprep = c.traprep := rfl
@[simp] theorem Crew.setV_resumepc (c : Crew) (r l : Nat) (x : Word) : (c.setV r l x).resumepc = c.resumepc := rfl
@[simp] theorem Crew.setV_cvrole (c : Crew) (r l : Nat) (x : Word) : (c.setV r l x).cvrole = c.cvrole := rfl
@[simp] theorem Crew.setV_seed (c : Crew) (r l : Nat) (x : Word) : (c.setV r l x).seed = c.seed := rfl
@[simp] theorem Crew.setV_inHandler (c : Crew) (r l : Nat) (x : Word) : (c.setV r l x).inHandler = c.inHandler := rfl
@[simp] theorem Crew.setV_handlerCount (c : Crew) (r l : Nat) (x : Word) : (c.setV r l x).handlerCount = c.handlerCount := rfl
@[simp] theorem Crew.setV_halted (c : Crew) (r l : Nat) (x : Word) : (c.setV r l x).halted = c.halted := rfl
@[simp] theorem Crew.setV_block (c : Crew) (r l : Nat) (x : Word) : (c.setV r l x).block = c.block := rfl
@[simp] theorem Crew.setV_run (c : Crew) (r l : Nat) (x : Word) : (c.setV r l x).run = c.run := rfl
@[simp] theorem Crew.setV_arrivals (c : Crew) (r l : Nat) (x : Word) : (c.setV r l x).arrivals = c.arrivals := rfl
@[simp] theorem Crew.setV_pendS (c : Crew) (r l : Nat) (x : Word) : (c.setV r l x).pendS = c.pendS := rfl
@[simp] theorem Crew.setV_loads (c : Crew) (r l : Nat) (x : Word) : (c.setV r l x).loads = c.loads := rfl
@[simp] theorem Crew.setV_pend (c : Crew) (r l : Nat) (x : Word) : (c.setV r l x).pend = c.pend := rfl
@[simp] theorem Crew.setV_waitL (c : Crew) (r l : Nat) (x : Word) : (c.setV r l x).waitL = c.waitL := rfl
@[simp] theorem Crew.setV_waitS (c : Crew) (r l : Nat) (x : Word) : (c.setV r l x).waitS = c.waitS := rfl
@[simp] theorem Crew.setV_urgentL (c : Crew) (r l : Nat) (x : Word) : (c.setV r l x).urgentL = c.urgentL := rfl
@[simp] theorem Crew.setV_urgentS (c : Crew) (r l : Nat) (x : Word) : (c.setV r l x).urgentS = c.urgentS := rfl
@[simp] theorem Crew.setV_lastL (c : Crew) (r l : Nat) (x : Word) : (c.setV r l x).lastL = c.lastL := rfl
@[simp] theorem Crew.setV_lastS (c : Crew) (r l : Nat) (x : Word) : (c.setV r l x).lastS = c.lastS := rfl
@[simp] theorem Crew.setV_together (c : Crew) (r l : Nat) (x : Word) : (c.setV r l x).together = c.together := rfl
@[simp] theorem Crew.setV_irq (c : Crew) (r l : Nat) (x : Word) : (c.setV r l x).irq = c.irq := rfl
@[simp] theorem Crew.setV_stop (c : Crew) (r l : Nat) (x : Word) : (c.setV r l x).stop = c.stop := rfl
@[simp] theorem Crew.setV_reissue (c : Crew) (r l : Nat) (x : Word) : (c.setV r l x).reissue = c.reissue := rfl
@[simp] theorem Crew.setV_served (c : Crew) (r l : Nat) (x : Word) : (c.setV r l x).served = c.served := rfl
@[simp] theorem Crew.setV_since (c : Crew) (r l : Nat) (x : Word) : (c.setV r l x).since = c.since := rfl
@[simp] theorem Crew.setV_order (c : Crew) (r l : Nat) (x : Word) : (c.setV r l x).order = c.order := rfl
@[simp] theorem Crew.setV_resuming (c : Crew) (r l : Nat) (x : Word) : (c.setV r l x).resuming = c.resuming := rfl
@[simp] theorem Crew.setV_got (c : Crew) (r l : Nat) (x : Word) : (c.setV r l x).got = c.got := rfl

@[simp] theorem Crew.setS_bound (c : Crew) (r : Nat) (x : DWord) : (c.setS r x).bound = c.bound := rfl
@[simp] theorem Crew.setS_live (c : Crew) (r : Nat) (x : DWord) : (c.setS r x).live = c.live := rfl
@[simp] theorem Crew.setS_exm (c : Crew) (r : Nat) (x : DWord) : (c.setS r x).exm = c.exm := rfl
@[simp] theorem Crew.setS_pc (c : Crew) (r : Nat) (x : DWord) : (c.setS r x).pc = c.pc := rfl
@[simp] theorem Crew.setS_v (c : Crew) (r : Nat) (x : DWord) : (c.setS r x).v = c.v := rfl
@[simp] theorem Crew.setS_bl0 (c : Crew) (r : Nat) (x : DWord) : (c.setS r x).bl0 = c.bl0 := rfl
@[simp] theorem Crew.setS_bl1 (c : Crew) (r : Nat) (x : DWord) : (c.setS r x).bl1 = c.bl1 := rfl
@[simp] theorem Crew.setS_bl2 (c : Crew) (r : Nat) (x : DWord) : (c.setS r x).bl2 = c.bl2 := rfl
@[simp] theorem Crew.setS_bl3 (c : Crew) (r : Nat) (x : DWord) : (c.setS r x).bl3 = c.bl3 := rfl
@[simp] theorem Crew.setS_bs0 (c : Crew) (r : Nat) (x : DWord) : (c.setS r x).bs0 = c.bs0 := rfl
@[simp] theorem Crew.setS_bs1 (c : Crew) (r : Nat) (x : DWord) : (c.setS r x).bs1 = c.bs1 := rfl
@[simp] theorem Crew.setS_bs2 (c : Crew) (r : Nat) (x : DWord) : (c.setS r x).bs2 = c.bs2 := rfl
@[simp] theorem Crew.setS_bs3 (c : Crew) (r : Nat) (x : DWord) : (c.setS r x).bs3 = c.bs3 := rfl
@[simp] theorem Crew.setS_nL (c : Crew) (r : Nat) (x : DWord) : (c.setS r x).nL = c.nL := rfl
@[simp] theorem Crew.setS_nS (c : Crew) (r : Nat) (x : DWord) : (c.setS r x).nS = c.nS := rfl
@[simp] theorem Crew.setS_fin (c : Crew) (r : Nat) (x : DWord) : (c.setS r x).fin = c.fin := rfl
@[simp] theorem Crew.setS_head (c : Crew) (r : Nat) (x : DWord) : (c.setS r x).head = c.head := rfl
@[simp] theorem Crew.setS_fpcr (c : Crew) (r : Nat) (x : DWord) : (c.setS r x).fpcr = c.fpcr := rfl
@[simp] theorem Crew.setS_fpsr (c : Crew) (r : Nat) (x : DWord) : (c.setS r x).fpsr = c.fpsr := rfl
@[simp] theorem Crew.setS_psel (c : Crew) (r : Nat) (x : DWord) : (c.setS r x).psel = c.psel := rfl
@[simp] theorem Crew.setS_rxf (c : Crew) (r : Nat) (x : DWord) : (c.setS r x).rxf = c.rxf := rfl
@[simp] theorem Crew.setS_strmdef (c : Crew) (r : Nat) (x : DWord) : (c.setS r x).strmdef = c.strmdef := rfl
@[simp] theorem Crew.setS_trapcause (c : Crew) (r : Nat) (x : DWord) : (c.setS r x).trapcause = c.trapcause := rfl
@[simp] theorem Crew.setS_trappc (c : Crew) (r : Nat) (x : DWord) : (c.setS r x).trappc = c.trappc := rfl
@[simp] theorem Crew.setS_traplanes (c : Crew) (r : Nat) (x : DWord) : (c.setS r x).traplanes = c.traplanes := rfl
@[simp] theorem Crew.setS_trapaddr (c : Crew) (r : Nat) (x : DWord) : (c.setS r x).trapaddr = c.trapaddr := rfl
@[simp] theorem Crew.setS_traprep (c : Crew) (r : Nat) (x : DWord) : (c.setS r x).traprep = c.traprep := rfl
@[simp] theorem Crew.setS_resumepc (c : Crew) (r : Nat) (x : DWord) : (c.setS r x).resumepc = c.resumepc := rfl
@[simp] theorem Crew.setS_cvrole (c : Crew) (r : Nat) (x : DWord) : (c.setS r x).cvrole = c.cvrole := rfl
@[simp] theorem Crew.setS_seed (c : Crew) (r : Nat) (x : DWord) : (c.setS r x).seed = c.seed := rfl
@[simp] theorem Crew.setS_inHandler (c : Crew) (r : Nat) (x : DWord) : (c.setS r x).inHandler = c.inHandler := rfl
@[simp] theorem Crew.setS_handlerCount (c : Crew) (r : Nat) (x : DWord) : (c.setS r x).handlerCount = c.handlerCount := rfl
@[simp] theorem Crew.setS_halted (c : Crew) (r : Nat) (x : DWord) : (c.setS r x).halted = c.halted := rfl
@[simp] theorem Crew.setS_block (c : Crew) (r : Nat) (x : DWord) : (c.setS r x).block = c.block := rfl
@[simp] theorem Crew.setS_run (c : Crew) (r : Nat) (x : DWord) : (c.setS r x).run = c.run := rfl
@[simp] theorem Crew.setS_arrivals (c : Crew) (r : Nat) (x : DWord) : (c.setS r x).arrivals = c.arrivals := rfl
@[simp] theorem Crew.setS_pendS (c : Crew) (r : Nat) (x : DWord) : (c.setS r x).pendS = c.pendS := rfl
@[simp] theorem Crew.setS_loads (c : Crew) (r : Nat) (x : DWord) : (c.setS r x).loads = c.loads := rfl
@[simp] theorem Crew.setS_pend (c : Crew) (r : Nat) (x : DWord) : (c.setS r x).pend = c.pend := rfl
@[simp] theorem Crew.setS_waitL (c : Crew) (r : Nat) (x : DWord) : (c.setS r x).waitL = c.waitL := rfl
@[simp] theorem Crew.setS_waitS (c : Crew) (r : Nat) (x : DWord) : (c.setS r x).waitS = c.waitS := rfl
@[simp] theorem Crew.setS_urgentL (c : Crew) (r : Nat) (x : DWord) : (c.setS r x).urgentL = c.urgentL := rfl
@[simp] theorem Crew.setS_urgentS (c : Crew) (r : Nat) (x : DWord) : (c.setS r x).urgentS = c.urgentS := rfl
@[simp] theorem Crew.setS_lastL (c : Crew) (r : Nat) (x : DWord) : (c.setS r x).lastL = c.lastL := rfl
@[simp] theorem Crew.setS_lastS (c : Crew) (r : Nat) (x : DWord) : (c.setS r x).lastS = c.lastS := rfl
@[simp] theorem Crew.setS_together (c : Crew) (r : Nat) (x : DWord) : (c.setS r x).together = c.together := rfl
@[simp] theorem Crew.setS_irq (c : Crew) (r : Nat) (x : DWord) : (c.setS r x).irq = c.irq := rfl
@[simp] theorem Crew.setS_stop (c : Crew) (r : Nat) (x : DWord) : (c.setS r x).stop = c.stop := rfl
@[simp] theorem Crew.setS_reissue (c : Crew) (r : Nat) (x : DWord) : (c.setS r x).reissue = c.reissue := rfl
@[simp] theorem Crew.setS_served (c : Crew) (r : Nat) (x : DWord) : (c.setS r x).served = c.served := rfl
@[simp] theorem Crew.setS_since (c : Crew) (r : Nat) (x : DWord) : (c.setS r x).since = c.since := rfl
@[simp] theorem Crew.setS_order (c : Crew) (r : Nat) (x : DWord) : (c.setS r x).order = c.order := rfl
@[simp] theorem Crew.setS_resuming (c : Crew) (r : Nat) (x : DWord) : (c.setS r x).resuming = c.resuming := rfl
@[simp] theorem Crew.setS_got (c : Crew) (r : Nat) (x : DWord) : (c.setS r x).got = c.got := rfl

@[simp] theorem Crew.setPair_bound (c : Crew) (r l : Nat) (x : DWord) : (c.setPair r l x).bound = c.bound := rfl
@[simp] theorem Crew.setPair_live (c : Crew) (r l : Nat) (x : DWord) : (c.setPair r l x).live = c.live := rfl
@[simp] theorem Crew.setPair_exm (c : Crew) (r l : Nat) (x : DWord) : (c.setPair r l x).exm = c.exm := rfl
@[simp] theorem Crew.setPair_pc (c : Crew) (r l : Nat) (x : DWord) : (c.setPair r l x).pc = c.pc := rfl
@[simp] theorem Crew.setPair_sr (c : Crew) (r l : Nat) (x : DWord) : (c.setPair r l x).sr = c.sr := rfl
@[simp] theorem Crew.setPair_bl0 (c : Crew) (r l : Nat) (x : DWord) : (c.setPair r l x).bl0 = c.bl0 := rfl
@[simp] theorem Crew.setPair_bl1 (c : Crew) (r l : Nat) (x : DWord) : (c.setPair r l x).bl1 = c.bl1 := rfl
@[simp] theorem Crew.setPair_bl2 (c : Crew) (r l : Nat) (x : DWord) : (c.setPair r l x).bl2 = c.bl2 := rfl
@[simp] theorem Crew.setPair_bl3 (c : Crew) (r l : Nat) (x : DWord) : (c.setPair r l x).bl3 = c.bl3 := rfl
@[simp] theorem Crew.setPair_bs0 (c : Crew) (r l : Nat) (x : DWord) : (c.setPair r l x).bs0 = c.bs0 := rfl
@[simp] theorem Crew.setPair_bs1 (c : Crew) (r l : Nat) (x : DWord) : (c.setPair r l x).bs1 = c.bs1 := rfl
@[simp] theorem Crew.setPair_bs2 (c : Crew) (r l : Nat) (x : DWord) : (c.setPair r l x).bs2 = c.bs2 := rfl
@[simp] theorem Crew.setPair_bs3 (c : Crew) (r l : Nat) (x : DWord) : (c.setPair r l x).bs3 = c.bs3 := rfl
@[simp] theorem Crew.setPair_nL (c : Crew) (r l : Nat) (x : DWord) : (c.setPair r l x).nL = c.nL := rfl
@[simp] theorem Crew.setPair_nS (c : Crew) (r l : Nat) (x : DWord) : (c.setPair r l x).nS = c.nS := rfl
@[simp] theorem Crew.setPair_fin (c : Crew) (r l : Nat) (x : DWord) : (c.setPair r l x).fin = c.fin := rfl
@[simp] theorem Crew.setPair_head (c : Crew) (r l : Nat) (x : DWord) : (c.setPair r l x).head = c.head := rfl
@[simp] theorem Crew.setPair_fpcr (c : Crew) (r l : Nat) (x : DWord) : (c.setPair r l x).fpcr = c.fpcr := rfl
@[simp] theorem Crew.setPair_fpsr (c : Crew) (r l : Nat) (x : DWord) : (c.setPair r l x).fpsr = c.fpsr := rfl
@[simp] theorem Crew.setPair_psel (c : Crew) (r l : Nat) (x : DWord) : (c.setPair r l x).psel = c.psel := rfl
@[simp] theorem Crew.setPair_rxf (c : Crew) (r l : Nat) (x : DWord) : (c.setPair r l x).rxf = c.rxf := rfl
@[simp] theorem Crew.setPair_strmdef (c : Crew) (r l : Nat) (x : DWord) : (c.setPair r l x).strmdef = c.strmdef := rfl
@[simp] theorem Crew.setPair_trapcause (c : Crew) (r l : Nat) (x : DWord) : (c.setPair r l x).trapcause = c.trapcause := rfl
@[simp] theorem Crew.setPair_trappc (c : Crew) (r l : Nat) (x : DWord) : (c.setPair r l x).trappc = c.trappc := rfl
@[simp] theorem Crew.setPair_traplanes (c : Crew) (r l : Nat) (x : DWord) : (c.setPair r l x).traplanes = c.traplanes := rfl
@[simp] theorem Crew.setPair_trapaddr (c : Crew) (r l : Nat) (x : DWord) : (c.setPair r l x).trapaddr = c.trapaddr := rfl
@[simp] theorem Crew.setPair_traprep (c : Crew) (r l : Nat) (x : DWord) : (c.setPair r l x).traprep = c.traprep := rfl
@[simp] theorem Crew.setPair_resumepc (c : Crew) (r l : Nat) (x : DWord) : (c.setPair r l x).resumepc = c.resumepc := rfl
@[simp] theorem Crew.setPair_cvrole (c : Crew) (r l : Nat) (x : DWord) : (c.setPair r l x).cvrole = c.cvrole := rfl
@[simp] theorem Crew.setPair_seed (c : Crew) (r l : Nat) (x : DWord) : (c.setPair r l x).seed = c.seed := rfl
@[simp] theorem Crew.setPair_inHandler (c : Crew) (r l : Nat) (x : DWord) : (c.setPair r l x).inHandler = c.inHandler := rfl
@[simp] theorem Crew.setPair_handlerCount (c : Crew) (r l : Nat) (x : DWord) : (c.setPair r l x).handlerCount = c.handlerCount := rfl
@[simp] theorem Crew.setPair_halted (c : Crew) (r l : Nat) (x : DWord) : (c.setPair r l x).halted = c.halted := rfl
@[simp] theorem Crew.setPair_block (c : Crew) (r l : Nat) (x : DWord) : (c.setPair r l x).block = c.block := rfl
@[simp] theorem Crew.setPair_run (c : Crew) (r l : Nat) (x : DWord) : (c.setPair r l x).run = c.run := rfl
@[simp] theorem Crew.setPair_arrivals (c : Crew) (r l : Nat) (x : DWord) : (c.setPair r l x).arrivals = c.arrivals := rfl
@[simp] theorem Crew.setPair_pendS (c : Crew) (r l : Nat) (x : DWord) : (c.setPair r l x).pendS = c.pendS := rfl
@[simp] theorem Crew.setPair_loads (c : Crew) (r l : Nat) (x : DWord) : (c.setPair r l x).loads = c.loads := rfl
@[simp] theorem Crew.setPair_pend (c : Crew) (r l : Nat) (x : DWord) : (c.setPair r l x).pend = c.pend := rfl
@[simp] theorem Crew.setPair_waitL (c : Crew) (r l : Nat) (x : DWord) : (c.setPair r l x).waitL = c.waitL := rfl
@[simp] theorem Crew.setPair_waitS (c : Crew) (r l : Nat) (x : DWord) : (c.setPair r l x).waitS = c.waitS := rfl
@[simp] theorem Crew.setPair_urgentL (c : Crew) (r l : Nat) (x : DWord) : (c.setPair r l x).urgentL = c.urgentL := rfl
@[simp] theorem Crew.setPair_urgentS (c : Crew) (r l : Nat) (x : DWord) : (c.setPair r l x).urgentS = c.urgentS := rfl
@[simp] theorem Crew.setPair_lastL (c : Crew) (r l : Nat) (x : DWord) : (c.setPair r l x).lastL = c.lastL := rfl
@[simp] theorem Crew.setPair_lastS (c : Crew) (r l : Nat) (x : DWord) : (c.setPair r l x).lastS = c.lastS := rfl
@[simp] theorem Crew.setPair_together (c : Crew) (r l : Nat) (x : DWord) : (c.setPair r l x).together = c.together := rfl
@[simp] theorem Crew.setPair_irq (c : Crew) (r l : Nat) (x : DWord) : (c.setPair r l x).irq = c.irq := rfl
@[simp] theorem Crew.setPair_stop (c : Crew) (r l : Nat) (x : DWord) : (c.setPair r l x).stop = c.stop := rfl
@[simp] theorem Crew.setPair_reissue (c : Crew) (r l : Nat) (x : DWord) : (c.setPair r l x).reissue = c.reissue := rfl
@[simp] theorem Crew.setPair_served (c : Crew) (r l : Nat) (x : DWord) : (c.setPair r l x).served = c.served := rfl
@[simp] theorem Crew.setPair_since (c : Crew) (r l : Nat) (x : DWord) : (c.setPair r l x).since = c.since := rfl
@[simp] theorem Crew.setPair_order (c : Crew) (r l : Nat) (x : DWord) : (c.setPair r l x).order = c.order := rfl
@[simp] theorem Crew.setPair_resuming (c : Crew) (r l : Nat) (x : DWord) : (c.setPair r l x).resuming = c.resuming := rfl
@[simp] theorem Crew.setPair_got (c : Crew) (r l : Nat) (x : DWord) : (c.setPair r l x).got = c.got := rfl

@[simp] theorem Crew.pushL_bound (c : Crew) (ls : List Nat) (f : Nat → DWord) : (c.pushL ls f).bound = c.bound := rfl
@[simp] theorem Crew.pushL_live (c : Crew) (ls : List Nat) (f : Nat → DWord) : (c.pushL ls f).live = c.live := rfl
@[simp] theorem Crew.pushL_exm (c : Crew) (ls : List Nat) (f : Nat → DWord) : (c.pushL ls f).exm = c.exm := rfl
@[simp] theorem Crew.pushL_pc (c : Crew) (ls : List Nat) (f : Nat → DWord) : (c.pushL ls f).pc = c.pc := rfl
@[simp] theorem Crew.pushL_v (c : Crew) (ls : List Nat) (f : Nat → DWord) : (c.pushL ls f).v = c.v := rfl
@[simp] theorem Crew.pushL_sr (c : Crew) (ls : List Nat) (f : Nat → DWord) : (c.pushL ls f).sr = c.sr := rfl
@[simp] theorem Crew.pushL_bs0 (c : Crew) (ls : List Nat) (f : Nat → DWord) : (c.pushL ls f).bs0 = c.bs0 := rfl
@[simp] theorem Crew.pushL_bs1 (c : Crew) (ls : List Nat) (f : Nat → DWord) : (c.pushL ls f).bs1 = c.bs1 := rfl
@[simp] theorem Crew.pushL_bs2 (c : Crew) (ls : List Nat) (f : Nat → DWord) : (c.pushL ls f).bs2 = c.bs2 := rfl
@[simp] theorem Crew.pushL_bs3 (c : Crew) (ls : List Nat) (f : Nat → DWord) : (c.pushL ls f).bs3 = c.bs3 := rfl
@[simp] theorem Crew.pushL_nL (c : Crew) (ls : List Nat) (f : Nat → DWord) : (c.pushL ls f).nL = c.nL := rfl
@[simp] theorem Crew.pushL_nS (c : Crew) (ls : List Nat) (f : Nat → DWord) : (c.pushL ls f).nS = c.nS := rfl
@[simp] theorem Crew.pushL_fin (c : Crew) (ls : List Nat) (f : Nat → DWord) : (c.pushL ls f).fin = c.fin := rfl
@[simp] theorem Crew.pushL_head (c : Crew) (ls : List Nat) (f : Nat → DWord) : (c.pushL ls f).head = c.head := rfl
@[simp] theorem Crew.pushL_fpcr (c : Crew) (ls : List Nat) (f : Nat → DWord) : (c.pushL ls f).fpcr = c.fpcr := rfl
@[simp] theorem Crew.pushL_fpsr (c : Crew) (ls : List Nat) (f : Nat → DWord) : (c.pushL ls f).fpsr = c.fpsr := rfl
@[simp] theorem Crew.pushL_psel (c : Crew) (ls : List Nat) (f : Nat → DWord) : (c.pushL ls f).psel = c.psel := rfl
@[simp] theorem Crew.pushL_rxf (c : Crew) (ls : List Nat) (f : Nat → DWord) : (c.pushL ls f).rxf = c.rxf := rfl
@[simp] theorem Crew.pushL_strmdef (c : Crew) (ls : List Nat) (f : Nat → DWord) : (c.pushL ls f).strmdef = c.strmdef := rfl
@[simp] theorem Crew.pushL_trapcause (c : Crew) (ls : List Nat) (f : Nat → DWord) : (c.pushL ls f).trapcause = c.trapcause := rfl
@[simp] theorem Crew.pushL_trappc (c : Crew) (ls : List Nat) (f : Nat → DWord) : (c.pushL ls f).trappc = c.trappc := rfl
@[simp] theorem Crew.pushL_traplanes (c : Crew) (ls : List Nat) (f : Nat → DWord) : (c.pushL ls f).traplanes = c.traplanes := rfl
@[simp] theorem Crew.pushL_trapaddr (c : Crew) (ls : List Nat) (f : Nat → DWord) : (c.pushL ls f).trapaddr = c.trapaddr := rfl
@[simp] theorem Crew.pushL_traprep (c : Crew) (ls : List Nat) (f : Nat → DWord) : (c.pushL ls f).traprep = c.traprep := rfl
@[simp] theorem Crew.pushL_resumepc (c : Crew) (ls : List Nat) (f : Nat → DWord) : (c.pushL ls f).resumepc = c.resumepc := rfl
@[simp] theorem Crew.pushL_cvrole (c : Crew) (ls : List Nat) (f : Nat → DWord) : (c.pushL ls f).cvrole = c.cvrole := rfl
@[simp] theorem Crew.pushL_seed (c : Crew) (ls : List Nat) (f : Nat → DWord) : (c.pushL ls f).seed = c.seed := rfl
@[simp] theorem Crew.pushL_inHandler (c : Crew) (ls : List Nat) (f : Nat → DWord) : (c.pushL ls f).inHandler = c.inHandler := rfl
@[simp] theorem Crew.pushL_handlerCount (c : Crew) (ls : List Nat) (f : Nat → DWord) : (c.pushL ls f).handlerCount = c.handlerCount := rfl
@[simp] theorem Crew.pushL_halted (c : Crew) (ls : List Nat) (f : Nat → DWord) : (c.pushL ls f).halted = c.halted := rfl
@[simp] theorem Crew.pushL_block (c : Crew) (ls : List Nat) (f : Nat → DWord) : (c.pushL ls f).block = c.block := rfl
@[simp] theorem Crew.pushL_run (c : Crew) (ls : List Nat) (f : Nat → DWord) : (c.pushL ls f).run = c.run := rfl
@[simp] theorem Crew.pushL_arrivals (c : Crew) (ls : List Nat) (f : Nat → DWord) : (c.pushL ls f).arrivals = c.arrivals := rfl
@[simp] theorem Crew.pushL_pendS (c : Crew) (ls : List Nat) (f : Nat → DWord) : (c.pushL ls f).pendS = c.pendS := rfl
@[simp] theorem Crew.pushL_loads (c : Crew) (ls : List Nat) (f : Nat → DWord) : (c.pushL ls f).loads = c.loads := rfl
@[simp] theorem Crew.pushL_pend (c : Crew) (ls : List Nat) (f : Nat → DWord) : (c.pushL ls f).pend = c.pend := rfl
@[simp] theorem Crew.pushL_waitL (c : Crew) (ls : List Nat) (f : Nat → DWord) : (c.pushL ls f).waitL = c.waitL := rfl
@[simp] theorem Crew.pushL_waitS (c : Crew) (ls : List Nat) (f : Nat → DWord) : (c.pushL ls f).waitS = c.waitS := rfl
@[simp] theorem Crew.pushL_urgentL (c : Crew) (ls : List Nat) (f : Nat → DWord) : (c.pushL ls f).urgentL = c.urgentL := rfl
@[simp] theorem Crew.pushL_urgentS (c : Crew) (ls : List Nat) (f : Nat → DWord) : (c.pushL ls f).urgentS = c.urgentS := rfl
@[simp] theorem Crew.pushL_lastL (c : Crew) (ls : List Nat) (f : Nat → DWord) : (c.pushL ls f).lastL = c.lastL := rfl
@[simp] theorem Crew.pushL_lastS (c : Crew) (ls : List Nat) (f : Nat → DWord) : (c.pushL ls f).lastS = c.lastS := rfl
@[simp] theorem Crew.pushL_together (c : Crew) (ls : List Nat) (f : Nat → DWord) : (c.pushL ls f).together = c.together := rfl
@[simp] theorem Crew.pushL_irq (c : Crew) (ls : List Nat) (f : Nat → DWord) : (c.pushL ls f).irq = c.irq := rfl
@[simp] theorem Crew.pushL_stop (c : Crew) (ls : List Nat) (f : Nat → DWord) : (c.pushL ls f).stop = c.stop := rfl
@[simp] theorem Crew.pushL_reissue (c : Crew) (ls : List Nat) (f : Nat → DWord) : (c.pushL ls f).reissue = c.reissue := rfl
@[simp] theorem Crew.pushL_served (c : Crew) (ls : List Nat) (f : Nat → DWord) : (c.pushL ls f).served = c.served := rfl
@[simp] theorem Crew.pushL_since (c : Crew) (ls : List Nat) (f : Nat → DWord) : (c.pushL ls f).since = c.since := rfl
@[simp] theorem Crew.pushL_order (c : Crew) (ls : List Nat) (f : Nat → DWord) : (c.pushL ls f).order = c.order := rfl
@[simp] theorem Crew.pushL_resuming (c : Crew) (ls : List Nat) (f : Nat → DWord) : (c.pushL ls f).resuming = c.resuming := rfl
@[simp] theorem Crew.pushL_got (c : Crew) (ls : List Nat) (f : Nat → DWord) : (c.pushL ls f).got = c.got := rfl

@[simp] theorem Crew.pushS_bound (c : Crew) (x : DWord) : (c.pushS x).bound = c.bound := rfl
@[simp] theorem Crew.pushS_live (c : Crew) (x : DWord) : (c.pushS x).live = c.live := rfl
@[simp] theorem Crew.pushS_exm (c : Crew) (x : DWord) : (c.pushS x).exm = c.exm := rfl
@[simp] theorem Crew.pushS_pc (c : Crew) (x : DWord) : (c.pushS x).pc = c.pc := rfl
@[simp] theorem Crew.pushS_v (c : Crew) (x : DWord) : (c.pushS x).v = c.v := rfl
@[simp] theorem Crew.pushS_sr (c : Crew) (x : DWord) : (c.pushS x).sr = c.sr := rfl
@[simp] theorem Crew.pushS_bl0 (c : Crew) (x : DWord) : (c.pushS x).bl0 = c.bl0 := rfl
@[simp] theorem Crew.pushS_bl1 (c : Crew) (x : DWord) : (c.pushS x).bl1 = c.bl1 := rfl
@[simp] theorem Crew.pushS_bl2 (c : Crew) (x : DWord) : (c.pushS x).bl2 = c.bl2 := rfl
@[simp] theorem Crew.pushS_bl3 (c : Crew) (x : DWord) : (c.pushS x).bl3 = c.bl3 := rfl
@[simp] theorem Crew.pushS_nL (c : Crew) (x : DWord) : (c.pushS x).nL = c.nL := rfl
@[simp] theorem Crew.pushS_nS (c : Crew) (x : DWord) : (c.pushS x).nS = c.nS := rfl
@[simp] theorem Crew.pushS_fin (c : Crew) (x : DWord) : (c.pushS x).fin = c.fin := rfl
@[simp] theorem Crew.pushS_head (c : Crew) (x : DWord) : (c.pushS x).head = c.head := rfl
@[simp] theorem Crew.pushS_fpcr (c : Crew) (x : DWord) : (c.pushS x).fpcr = c.fpcr := rfl
@[simp] theorem Crew.pushS_fpsr (c : Crew) (x : DWord) : (c.pushS x).fpsr = c.fpsr := rfl
@[simp] theorem Crew.pushS_psel (c : Crew) (x : DWord) : (c.pushS x).psel = c.psel := rfl
@[simp] theorem Crew.pushS_rxf (c : Crew) (x : DWord) : (c.pushS x).rxf = c.rxf := rfl
@[simp] theorem Crew.pushS_strmdef (c : Crew) (x : DWord) : (c.pushS x).strmdef = c.strmdef := rfl
@[simp] theorem Crew.pushS_trapcause (c : Crew) (x : DWord) : (c.pushS x).trapcause = c.trapcause := rfl
@[simp] theorem Crew.pushS_trappc (c : Crew) (x : DWord) : (c.pushS x).trappc = c.trappc := rfl
@[simp] theorem Crew.pushS_traplanes (c : Crew) (x : DWord) : (c.pushS x).traplanes = c.traplanes := rfl
@[simp] theorem Crew.pushS_trapaddr (c : Crew) (x : DWord) : (c.pushS x).trapaddr = c.trapaddr := rfl
@[simp] theorem Crew.pushS_traprep (c : Crew) (x : DWord) : (c.pushS x).traprep = c.traprep := rfl
@[simp] theorem Crew.pushS_resumepc (c : Crew) (x : DWord) : (c.pushS x).resumepc = c.resumepc := rfl
@[simp] theorem Crew.pushS_cvrole (c : Crew) (x : DWord) : (c.pushS x).cvrole = c.cvrole := rfl
@[simp] theorem Crew.pushS_seed (c : Crew) (x : DWord) : (c.pushS x).seed = c.seed := rfl
@[simp] theorem Crew.pushS_inHandler (c : Crew) (x : DWord) : (c.pushS x).inHandler = c.inHandler := rfl
@[simp] theorem Crew.pushS_handlerCount (c : Crew) (x : DWord) : (c.pushS x).handlerCount = c.handlerCount := rfl
@[simp] theorem Crew.pushS_halted (c : Crew) (x : DWord) : (c.pushS x).halted = c.halted := rfl
@[simp] theorem Crew.pushS_block (c : Crew) (x : DWord) : (c.pushS x).block = c.block := rfl
@[simp] theorem Crew.pushS_run (c : Crew) (x : DWord) : (c.pushS x).run = c.run := rfl
@[simp] theorem Crew.pushS_arrivals (c : Crew) (x : DWord) : (c.pushS x).arrivals = c.arrivals := rfl
@[simp] theorem Crew.pushS_pendS (c : Crew) (x : DWord) : (c.pushS x).pendS = c.pendS := rfl
@[simp] theorem Crew.pushS_loads (c : Crew) (x : DWord) : (c.pushS x).loads = c.loads := rfl
@[simp] theorem Crew.pushS_pend (c : Crew) (x : DWord) : (c.pushS x).pend = c.pend := rfl
@[simp] theorem Crew.pushS_waitL (c : Crew) (x : DWord) : (c.pushS x).waitL = c.waitL := rfl
@[simp] theorem Crew.pushS_waitS (c : Crew) (x : DWord) : (c.pushS x).waitS = c.waitS := rfl
@[simp] theorem Crew.pushS_urgentL (c : Crew) (x : DWord) : (c.pushS x).urgentL = c.urgentL := rfl
@[simp] theorem Crew.pushS_urgentS (c : Crew) (x : DWord) : (c.pushS x).urgentS = c.urgentS := rfl
@[simp] theorem Crew.pushS_lastL (c : Crew) (x : DWord) : (c.pushS x).lastL = c.lastL := rfl
@[simp] theorem Crew.pushS_lastS (c : Crew) (x : DWord) : (c.pushS x).lastS = c.lastS := rfl
@[simp] theorem Crew.pushS_together (c : Crew) (x : DWord) : (c.pushS x).together = c.together := rfl
@[simp] theorem Crew.pushS_irq (c : Crew) (x : DWord) : (c.pushS x).irq = c.irq := rfl
@[simp] theorem Crew.pushS_stop (c : Crew) (x : DWord) : (c.pushS x).stop = c.stop := rfl
@[simp] theorem Crew.pushS_reissue (c : Crew) (x : DWord) : (c.pushS x).reissue = c.reissue := rfl
@[simp] theorem Crew.pushS_served (c : Crew) (x : DWord) : (c.pushS x).served = c.served := rfl
@[simp] theorem Crew.pushS_since (c : Crew) (x : DWord) : (c.pushS x).since = c.since := rfl
@[simp] theorem Crew.pushS_order (c : Crew) (x : DWord) : (c.pushS x).order = c.order := rfl
@[simp] theorem Crew.pushS_resuming (c : Crew) (x : DWord) : (c.pushS x).resuming = c.resuming := rfl
@[simp] theorem Crew.pushS_got (c : Crew) (x : DWord) : (c.pushS x).got = c.got := rfl

@[simp] theorem Crew.clearChain_bound (c : Crew) : (c.clearChain).bound = c.bound := rfl
@[simp] theorem Crew.clearChain_live (c : Crew) : (c.clearChain).live = c.live := rfl
@[simp] theorem Crew.clearChain_exm (c : Crew) : (c.clearChain).exm = c.exm := rfl
@[simp] theorem Crew.clearChain_pc (c : Crew) : (c.clearChain).pc = c.pc := rfl
@[simp] theorem Crew.clearChain_v (c : Crew) : (c.clearChain).v = c.v := rfl
@[simp] theorem Crew.clearChain_sr (c : Crew) : (c.clearChain).sr = c.sr := rfl
@[simp] theorem Crew.clearChain_fpcr (c : Crew) : (c.clearChain).fpcr = c.fpcr := rfl
@[simp] theorem Crew.clearChain_fpsr (c : Crew) : (c.clearChain).fpsr = c.fpsr := rfl
@[simp] theorem Crew.clearChain_psel (c : Crew) : (c.clearChain).psel = c.psel := rfl
@[simp] theorem Crew.clearChain_rxf (c : Crew) : (c.clearChain).rxf = c.rxf := rfl
@[simp] theorem Crew.clearChain_strmdef (c : Crew) : (c.clearChain).strmdef = c.strmdef := rfl
@[simp] theorem Crew.clearChain_trapcause (c : Crew) : (c.clearChain).trapcause = c.trapcause := rfl
@[simp] theorem Crew.clearChain_trappc (c : Crew) : (c.clearChain).trappc = c.trappc := rfl
@[simp] theorem Crew.clearChain_traplanes (c : Crew) : (c.clearChain).traplanes = c.traplanes := rfl
@[simp] theorem Crew.clearChain_trapaddr (c : Crew) : (c.clearChain).trapaddr = c.trapaddr := rfl
@[simp] theorem Crew.clearChain_traprep (c : Crew) : (c.clearChain).traprep = c.traprep := rfl
@[simp] theorem Crew.clearChain_resumepc (c : Crew) : (c.clearChain).resumepc = c.resumepc := rfl
@[simp] theorem Crew.clearChain_cvrole (c : Crew) : (c.clearChain).cvrole = c.cvrole := rfl
@[simp] theorem Crew.clearChain_seed (c : Crew) : (c.clearChain).seed = c.seed := rfl
@[simp] theorem Crew.clearChain_inHandler (c : Crew) : (c.clearChain).inHandler = c.inHandler := rfl
@[simp] theorem Crew.clearChain_handlerCount (c : Crew) : (c.clearChain).handlerCount = c.handlerCount := rfl
@[simp] theorem Crew.clearChain_halted (c : Crew) : (c.clearChain).halted = c.halted := rfl
@[simp] theorem Crew.clearChain_block (c : Crew) : (c.clearChain).block = c.block := rfl
@[simp] theorem Crew.clearChain_run (c : Crew) : (c.clearChain).run = c.run := rfl
@[simp] theorem Crew.clearChain_arrivals (c : Crew) : (c.clearChain).arrivals = c.arrivals := rfl
@[simp] theorem Crew.clearChain_pendS (c : Crew) : (c.clearChain).pendS = c.pendS := rfl
@[simp] theorem Crew.clearChain_loads (c : Crew) : (c.clearChain).loads = c.loads := rfl
@[simp] theorem Crew.clearChain_pend (c : Crew) : (c.clearChain).pend = c.pend := rfl
@[simp] theorem Crew.clearChain_waitL (c : Crew) : (c.clearChain).waitL = c.waitL := rfl
@[simp] theorem Crew.clearChain_waitS (c : Crew) : (c.clearChain).waitS = c.waitS := rfl
@[simp] theorem Crew.clearChain_urgentL (c : Crew) : (c.clearChain).urgentL = c.urgentL := rfl
@[simp] theorem Crew.clearChain_urgentS (c : Crew) : (c.clearChain).urgentS = c.urgentS := rfl
@[simp] theorem Crew.clearChain_lastL (c : Crew) : (c.clearChain).lastL = c.lastL := rfl
@[simp] theorem Crew.clearChain_lastS (c : Crew) : (c.clearChain).lastS = c.lastS := rfl
@[simp] theorem Crew.clearChain_together (c : Crew) : (c.clearChain).together = c.together := rfl
@[simp] theorem Crew.clearChain_irq (c : Crew) : (c.clearChain).irq = c.irq := rfl
@[simp] theorem Crew.clearChain_stop (c : Crew) : (c.clearChain).stop = c.stop := rfl
@[simp] theorem Crew.clearChain_reissue (c : Crew) : (c.clearChain).reissue = c.reissue := rfl
@[simp] theorem Crew.clearChain_served (c : Crew) : (c.clearChain).served = c.served := rfl
@[simp] theorem Crew.clearChain_since (c : Crew) : (c.clearChain).since = c.since := rfl
@[simp] theorem Crew.clearChain_order (c : Crew) : (c.clearChain).order = c.order := rfl
@[simp] theorem Crew.clearChain_resuming (c : Crew) : (c.clearChain).resuming = c.resuming := rfl
@[simp] theorem Crew.clearChain_got (c : Crew) : (c.clearChain).got = c.got := rfl

@[simp] theorem Crew.clearCounts_bound (c : Crew) : (c.clearCounts).bound = c.bound := rfl
@[simp] theorem Crew.clearCounts_live (c : Crew) : (c.clearCounts).live = c.live := rfl
@[simp] theorem Crew.clearCounts_exm (c : Crew) : (c.clearCounts).exm = c.exm := rfl
@[simp] theorem Crew.clearCounts_pc (c : Crew) : (c.clearCounts).pc = c.pc := rfl
@[simp] theorem Crew.clearCounts_v (c : Crew) : (c.clearCounts).v = c.v := rfl
@[simp] theorem Crew.clearCounts_sr (c : Crew) : (c.clearCounts).sr = c.sr := rfl
@[simp] theorem Crew.clearCounts_bl0 (c : Crew) : (c.clearCounts).bl0 = c.bl0 := rfl
@[simp] theorem Crew.clearCounts_bl1 (c : Crew) : (c.clearCounts).bl1 = c.bl1 := rfl
@[simp] theorem Crew.clearCounts_bl2 (c : Crew) : (c.clearCounts).bl2 = c.bl2 := rfl
@[simp] theorem Crew.clearCounts_bl3 (c : Crew) : (c.clearCounts).bl3 = c.bl3 := rfl
@[simp] theorem Crew.clearCounts_bs0 (c : Crew) : (c.clearCounts).bs0 = c.bs0 := rfl
@[simp] theorem Crew.clearCounts_bs1 (c : Crew) : (c.clearCounts).bs1 = c.bs1 := rfl
@[simp] theorem Crew.clearCounts_bs2 (c : Crew) : (c.clearCounts).bs2 = c.bs2 := rfl
@[simp] theorem Crew.clearCounts_bs3 (c : Crew) : (c.clearCounts).bs3 = c.bs3 := rfl
@[simp] theorem Crew.clearCounts_fpcr (c : Crew) : (c.clearCounts).fpcr = c.fpcr := rfl
@[simp] theorem Crew.clearCounts_fpsr (c : Crew) : (c.clearCounts).fpsr = c.fpsr := rfl
@[simp] theorem Crew.clearCounts_psel (c : Crew) : (c.clearCounts).psel = c.psel := rfl
@[simp] theorem Crew.clearCounts_rxf (c : Crew) : (c.clearCounts).rxf = c.rxf := rfl
@[simp] theorem Crew.clearCounts_strmdef (c : Crew) : (c.clearCounts).strmdef = c.strmdef := rfl
@[simp] theorem Crew.clearCounts_trapcause (c : Crew) : (c.clearCounts).trapcause = c.trapcause := rfl
@[simp] theorem Crew.clearCounts_trappc (c : Crew) : (c.clearCounts).trappc = c.trappc := rfl
@[simp] theorem Crew.clearCounts_traplanes (c : Crew) : (c.clearCounts).traplanes = c.traplanes := rfl
@[simp] theorem Crew.clearCounts_trapaddr (c : Crew) : (c.clearCounts).trapaddr = c.trapaddr := rfl
@[simp] theorem Crew.clearCounts_traprep (c : Crew) : (c.clearCounts).traprep = c.traprep := rfl
@[simp] theorem Crew.clearCounts_resumepc (c : Crew) : (c.clearCounts).resumepc = c.resumepc := rfl
@[simp] theorem Crew.clearCounts_cvrole (c : Crew) : (c.clearCounts).cvrole = c.cvrole := rfl
@[simp] theorem Crew.clearCounts_seed (c : Crew) : (c.clearCounts).seed = c.seed := rfl
@[simp] theorem Crew.clearCounts_inHandler (c : Crew) : (c.clearCounts).inHandler = c.inHandler := rfl
@[simp] theorem Crew.clearCounts_handlerCount (c : Crew) : (c.clearCounts).handlerCount = c.handlerCount := rfl
@[simp] theorem Crew.clearCounts_halted (c : Crew) : (c.clearCounts).halted = c.halted := rfl
@[simp] theorem Crew.clearCounts_block (c : Crew) : (c.clearCounts).block = c.block := rfl
@[simp] theorem Crew.clearCounts_run (c : Crew) : (c.clearCounts).run = c.run := rfl
@[simp] theorem Crew.clearCounts_arrivals (c : Crew) : (c.clearCounts).arrivals = c.arrivals := rfl
@[simp] theorem Crew.clearCounts_pendS (c : Crew) : (c.clearCounts).pendS = c.pendS := rfl
@[simp] theorem Crew.clearCounts_loads (c : Crew) : (c.clearCounts).loads = c.loads := rfl
@[simp] theorem Crew.clearCounts_pend (c : Crew) : (c.clearCounts).pend = c.pend := rfl
@[simp] theorem Crew.clearCounts_waitL (c : Crew) : (c.clearCounts).waitL = c.waitL := rfl
@[simp] theorem Crew.clearCounts_waitS (c : Crew) : (c.clearCounts).waitS = c.waitS := rfl
@[simp] theorem Crew.clearCounts_urgentL (c : Crew) : (c.clearCounts).urgentL = c.urgentL := rfl
@[simp] theorem Crew.clearCounts_urgentS (c : Crew) : (c.clearCounts).urgentS = c.urgentS := rfl
@[simp] theorem Crew.clearCounts_lastL (c : Crew) : (c.clearCounts).lastL = c.lastL := rfl
@[simp] theorem Crew.clearCounts_lastS (c : Crew) : (c.clearCounts).lastS = c.lastS := rfl
@[simp] theorem Crew.clearCounts_together (c : Crew) : (c.clearCounts).together = c.together := rfl
@[simp] theorem Crew.clearCounts_irq (c : Crew) : (c.clearCounts).irq = c.irq := rfl
@[simp] theorem Crew.clearCounts_stop (c : Crew) : (c.clearCounts).stop = c.stop := rfl
@[simp] theorem Crew.clearCounts_reissue (c : Crew) : (c.clearCounts).reissue = c.reissue := rfl
@[simp] theorem Crew.clearCounts_served (c : Crew) : (c.clearCounts).served = c.served := rfl
@[simp] theorem Crew.clearCounts_since (c : Crew) : (c.clearCounts).since = c.since := rfl
@[simp] theorem Crew.clearCounts_order (c : Crew) : (c.clearCounts).order = c.order := rfl
@[simp] theorem Crew.clearCounts_resuming (c : Crew) : (c.clearCounts).resuming = c.resuming := rfl
@[simp] theorem Crew.clearCounts_got (c : Crew) : (c.clearCounts).got = c.got := rfl

@[simp] theorem Crew.trapRegs_bound (c : Crew) (t : Trap) (pc resume : BitVec 32) (rep : DWord) : (c.trapRegs t pc resume rep).bound = c.bound := by unfold Crew.trapRegs; rfl
@[simp] theorem Crew.trapRegs_live (c : Crew) (t : Trap) (pc resume : BitVec 32) (rep : DWord) : (c.trapRegs t pc resume rep).live = c.live := by unfold Crew.trapRegs; rfl
@[simp] theorem Crew.trapRegs_exm (c : Crew) (t : Trap) (pc resume : BitVec 32) (rep : DWord) : (c.trapRegs t pc resume rep).exm = c.exm := by unfold Crew.trapRegs; rfl
@[simp] theorem Crew.trapRegs_pc (c : Crew) (t : Trap) (pc resume : BitVec 32) (rep : DWord) : (c.trapRegs t pc resume rep).pc = c.pc := by unfold Crew.trapRegs; rfl
@[simp] theorem Crew.trapRegs_v (c : Crew) (t : Trap) (pc resume : BitVec 32) (rep : DWord) : (c.trapRegs t pc resume rep).v = c.v := by unfold Crew.trapRegs; rfl
@[simp] theorem Crew.trapRegs_sr (c : Crew) (t : Trap) (pc resume : BitVec 32) (rep : DWord) : (c.trapRegs t pc resume rep).sr = c.sr := by unfold Crew.trapRegs; rfl
@[simp] theorem Crew.trapRegs_bl0 (c : Crew) (t : Trap) (pc resume : BitVec 32) (rep : DWord) : (c.trapRegs t pc resume rep).bl0 = c.bl0 := by unfold Crew.trapRegs; rfl
@[simp] theorem Crew.trapRegs_bl1 (c : Crew) (t : Trap) (pc resume : BitVec 32) (rep : DWord) : (c.trapRegs t pc resume rep).bl1 = c.bl1 := by unfold Crew.trapRegs; rfl
@[simp] theorem Crew.trapRegs_bl2 (c : Crew) (t : Trap) (pc resume : BitVec 32) (rep : DWord) : (c.trapRegs t pc resume rep).bl2 = c.bl2 := by unfold Crew.trapRegs; rfl
@[simp] theorem Crew.trapRegs_bl3 (c : Crew) (t : Trap) (pc resume : BitVec 32) (rep : DWord) : (c.trapRegs t pc resume rep).bl3 = c.bl3 := by unfold Crew.trapRegs; rfl
@[simp] theorem Crew.trapRegs_bs0 (c : Crew) (t : Trap) (pc resume : BitVec 32) (rep : DWord) : (c.trapRegs t pc resume rep).bs0 = c.bs0 := by unfold Crew.trapRegs; rfl
@[simp] theorem Crew.trapRegs_bs1 (c : Crew) (t : Trap) (pc resume : BitVec 32) (rep : DWord) : (c.trapRegs t pc resume rep).bs1 = c.bs1 := by unfold Crew.trapRegs; rfl
@[simp] theorem Crew.trapRegs_bs2 (c : Crew) (t : Trap) (pc resume : BitVec 32) (rep : DWord) : (c.trapRegs t pc resume rep).bs2 = c.bs2 := by unfold Crew.trapRegs; rfl
@[simp] theorem Crew.trapRegs_bs3 (c : Crew) (t : Trap) (pc resume : BitVec 32) (rep : DWord) : (c.trapRegs t pc resume rep).bs3 = c.bs3 := by unfold Crew.trapRegs; rfl
@[simp] theorem Crew.trapRegs_nL (c : Crew) (t : Trap) (pc resume : BitVec 32) (rep : DWord) : (c.trapRegs t pc resume rep).nL = c.nL := by unfold Crew.trapRegs; rfl
@[simp] theorem Crew.trapRegs_nS (c : Crew) (t : Trap) (pc resume : BitVec 32) (rep : DWord) : (c.trapRegs t pc resume rep).nS = c.nS := by unfold Crew.trapRegs; rfl
@[simp] theorem Crew.trapRegs_fin (c : Crew) (t : Trap) (pc resume : BitVec 32) (rep : DWord) : (c.trapRegs t pc resume rep).fin = c.fin := by unfold Crew.trapRegs; rfl
@[simp] theorem Crew.trapRegs_head (c : Crew) (t : Trap) (pc resume : BitVec 32) (rep : DWord) : (c.trapRegs t pc resume rep).head = c.head := by unfold Crew.trapRegs; rfl
@[simp] theorem Crew.trapRegs_fpcr (c : Crew) (t : Trap) (pc resume : BitVec 32) (rep : DWord) : (c.trapRegs t pc resume rep).fpcr = c.fpcr := by unfold Crew.trapRegs; rfl
@[simp] theorem Crew.trapRegs_fpsr (c : Crew) (t : Trap) (pc resume : BitVec 32) (rep : DWord) : (c.trapRegs t pc resume rep).fpsr = c.fpsr := by unfold Crew.trapRegs; rfl
@[simp] theorem Crew.trapRegs_psel (c : Crew) (t : Trap) (pc resume : BitVec 32) (rep : DWord) : (c.trapRegs t pc resume rep).psel = c.psel := by unfold Crew.trapRegs; rfl
@[simp] theorem Crew.trapRegs_rxf (c : Crew) (t : Trap) (pc resume : BitVec 32) (rep : DWord) : (c.trapRegs t pc resume rep).rxf = c.rxf := by unfold Crew.trapRegs; rfl
@[simp] theorem Crew.trapRegs_strmdef (c : Crew) (t : Trap) (pc resume : BitVec 32) (rep : DWord) : (c.trapRegs t pc resume rep).strmdef = c.strmdef := by unfold Crew.trapRegs; rfl
@[simp] theorem Crew.trapRegs_cvrole (c : Crew) (t : Trap) (pc resume : BitVec 32) (rep : DWord) : (c.trapRegs t pc resume rep).cvrole = c.cvrole := by unfold Crew.trapRegs; rfl
@[simp] theorem Crew.trapRegs_seed (c : Crew) (t : Trap) (pc resume : BitVec 32) (rep : DWord) : (c.trapRegs t pc resume rep).seed = c.seed := by unfold Crew.trapRegs; rfl
@[simp] theorem Crew.trapRegs_inHandler (c : Crew) (t : Trap) (pc resume : BitVec 32) (rep : DWord) : (c.trapRegs t pc resume rep).inHandler = c.inHandler := by unfold Crew.trapRegs; rfl
@[simp] theorem Crew.trapRegs_handlerCount (c : Crew) (t : Trap) (pc resume : BitVec 32) (rep : DWord) : (c.trapRegs t pc resume rep).handlerCount = c.handlerCount := by unfold Crew.trapRegs; rfl
@[simp] theorem Crew.trapRegs_halted (c : Crew) (t : Trap) (pc resume : BitVec 32) (rep : DWord) : (c.trapRegs t pc resume rep).halted = c.halted := by unfold Crew.trapRegs; rfl
@[simp] theorem Crew.trapRegs_block (c : Crew) (t : Trap) (pc resume : BitVec 32) (rep : DWord) : (c.trapRegs t pc resume rep).block = c.block := by unfold Crew.trapRegs; rfl
@[simp] theorem Crew.trapRegs_run (c : Crew) (t : Trap) (pc resume : BitVec 32) (rep : DWord) : (c.trapRegs t pc resume rep).run = c.run := by unfold Crew.trapRegs; rfl
@[simp] theorem Crew.trapRegs_arrivals (c : Crew) (t : Trap) (pc resume : BitVec 32) (rep : DWord) : (c.trapRegs t pc resume rep).arrivals = c.arrivals := by unfold Crew.trapRegs; rfl
@[simp] theorem Crew.trapRegs_pendS (c : Crew) (t : Trap) (pc resume : BitVec 32) (rep : DWord) : (c.trapRegs t pc resume rep).pendS = c.pendS := by unfold Crew.trapRegs; rfl
@[simp] theorem Crew.trapRegs_loads (c : Crew) (t : Trap) (pc resume : BitVec 32) (rep : DWord) : (c.trapRegs t pc resume rep).loads = c.loads := by unfold Crew.trapRegs; rfl
@[simp] theorem Crew.trapRegs_pend (c : Crew) (t : Trap) (pc resume : BitVec 32) (rep : DWord) : (c.trapRegs t pc resume rep).pend = c.pend := by unfold Crew.trapRegs; rfl
@[simp] theorem Crew.trapRegs_waitL (c : Crew) (t : Trap) (pc resume : BitVec 32) (rep : DWord) : (c.trapRegs t pc resume rep).waitL = c.waitL := by unfold Crew.trapRegs; rfl
@[simp] theorem Crew.trapRegs_waitS (c : Crew) (t : Trap) (pc resume : BitVec 32) (rep : DWord) : (c.trapRegs t pc resume rep).waitS = c.waitS := by unfold Crew.trapRegs; rfl
@[simp] theorem Crew.trapRegs_urgentL (c : Crew) (t : Trap) (pc resume : BitVec 32) (rep : DWord) : (c.trapRegs t pc resume rep).urgentL = c.urgentL := by unfold Crew.trapRegs; rfl
@[simp] theorem Crew.trapRegs_urgentS (c : Crew) (t : Trap) (pc resume : BitVec 32) (rep : DWord) : (c.trapRegs t pc resume rep).urgentS = c.urgentS := by unfold Crew.trapRegs; rfl
@[simp] theorem Crew.trapRegs_lastL (c : Crew) (t : Trap) (pc resume : BitVec 32) (rep : DWord) : (c.trapRegs t pc resume rep).lastL = c.lastL := by unfold Crew.trapRegs; rfl
@[simp] theorem Crew.trapRegs_lastS (c : Crew) (t : Trap) (pc resume : BitVec 32) (rep : DWord) : (c.trapRegs t pc resume rep).lastS = c.lastS := by unfold Crew.trapRegs; rfl
@[simp] theorem Crew.trapRegs_together (c : Crew) (t : Trap) (pc resume : BitVec 32) (rep : DWord) : (c.trapRegs t pc resume rep).together = c.together := by unfold Crew.trapRegs; rfl
@[simp] theorem Crew.trapRegs_irq (c : Crew) (t : Trap) (pc resume : BitVec 32) (rep : DWord) : (c.trapRegs t pc resume rep).irq = c.irq := by unfold Crew.trapRegs; rfl
@[simp] theorem Crew.trapRegs_stop (c : Crew) (t : Trap) (pc resume : BitVec 32) (rep : DWord) : (c.trapRegs t pc resume rep).stop = c.stop := by unfold Crew.trapRegs; rfl
@[simp] theorem Crew.trapRegs_reissue (c : Crew) (t : Trap) (pc resume : BitVec 32) (rep : DWord) : (c.trapRegs t pc resume rep).reissue = c.reissue := by unfold Crew.trapRegs; rfl
@[simp] theorem Crew.trapRegs_served (c : Crew) (t : Trap) (pc resume : BitVec 32) (rep : DWord) : (c.trapRegs t pc resume rep).served = c.served := by unfold Crew.trapRegs; rfl
@[simp] theorem Crew.trapRegs_since (c : Crew) (t : Trap) (pc resume : BitVec 32) (rep : DWord) : (c.trapRegs t pc resume rep).since = c.since := by unfold Crew.trapRegs; rfl
@[simp] theorem Crew.trapRegs_order (c : Crew) (t : Trap) (pc resume : BitVec 32) (rep : DWord) : (c.trapRegs t pc resume rep).order = c.order := by unfold Crew.trapRegs; rfl
@[simp] theorem Crew.trapRegs_resuming (c : Crew) (t : Trap) (pc resume : BitVec 32) (rep : DWord) : (c.trapRegs t pc resume rep).resuming = c.resuming := by unfold Crew.trapRegs; rfl
@[simp] theorem Crew.trapRegs_got (c : Crew) (t : Trap) (pc resume : BitVec 32) (rep : DWord) : (c.trapRegs t pc resume rep).got = c.got := by unfold Crew.trapRegs; rfl

@[simp] theorem Crew.trapRegs_trapcause (c : Crew) (t : Trap) (pc resume : BitVec 32) (rep : DWord) :
    (c.trapRegs t pc resume rep).trapcause = t.causeWord := by unfold Crew.trapRegs; rfl
@[simp] theorem Crew.trapRegs_trappc (c : Crew) (t : Trap) (pc resume : BitVec 32) (rep : DWord) :
    (c.trapRegs t pc resume rep).trappc = pc.setWidth 64 := by unfold Crew.trapRegs; rfl
@[simp] theorem Crew.trapRegs_traplanes (c : Crew) (t : Trap) (pc resume : BitVec 32) (rep : DWord) :
    (c.trapRegs t pc resume rep).traplanes = t.lanes.setWidth 64 := by unfold Crew.trapRegs; rfl
@[simp] theorem Crew.trapRegs_trapaddr (c : Crew) (t : Trap) (pc resume : BitVec 32) (rep : DWord) :
    (c.trapRegs t pc resume rep).trapaddr = t.addr := by unfold Crew.trapRegs; rfl
@[simp] theorem Crew.trapRegs_resumepc (c : Crew) (t : Trap) (pc resume : BitVec 32) (rep : DWord) :
    (c.trapRegs t pc resume rep).resumepc = resume.setWidth 64 := by unfold Crew.trapRegs; rfl
@[simp] theorem Crew.trapRegs_traprep (c : Crew) (t : Trap) (pc resume : BitVec 32) (rep : DWord) :
    (c.trapRegs t pc resume rep).traprep = rep := by unfold Crew.trapRegs; rfl

end Sys2Proof.Machine
end

