-- ==== Sys2Proof/Laws/Frame.lean ====
section
/-! SUPPORT. What the frame of every crew instruction can do: one lemma for each way it ends, with what it leaves. -/
namespace Sys2Proof.Machine
open Sys2Proof.Safety

/-! The beginning of an instruction leaves every register, the lanes and everything outside the crew. -/

@[simp] theorem State.begin_crew (s : State) (ch : Bool) : (s.begin ch).crew = s.crew.begin ch :=
  fget_insert_self _ _ _ _
@[simp] theorem State.begin_cur (s : State) (ch : Bool) : (s.begin ch).cur = s.cur := rfl
@[simp] theorem State.begin_team (s : State) (ch : Bool) : (s.begin ch).team = s.team := rfl
@[simp] theorem State.begin_mem (s : State) (ch : Bool) : (s.begin ch).mem = s.mem := rfl
@[simp] theorem State.begin_width (s : State) (ch : Bool) : (s.begin ch).width = s.width := rfl
@[simp] theorem State.begin_macroWords (s : State) (ch : Bool) : (s.begin ch).macroWords = s.macroWords := by
  unfold State.macroWords State.textWord State.image
  simp only [State.begin_crew]
  rfl

theorem State.begin_eq (s : State) (ch : Bool) :
    s.begin ch = { s with crews := insert s.crews s.cur (s.crew.begin ch), fresh := s.fresh + 1 } := rfl

@[simp] theorem State.begin_actMask (s : State) (ch : Bool) : (s.begin ch).actMask = s.actMask := by
  simp [State.actMask, Crew.begin]
@[simp] theorem State.begin_liveMask (s : State) (ch : Bool) : (s.begin ch).liveMask = s.liveMask := by
  simp [State.liveMask, Crew.begin]
@[simp] theorem State.begin_active (s : State) (ch : Bool) : (s.begin ch).active = s.active := by
  simp [State.active]

@[simp] theorem Crew.begin_getV (c : Crew) (ch : Bool) (r l : Nat) : (c.begin ch).getV r l = c.getV r l := rfl
@[simp] theorem Crew.begin_getPair (c : Crew) (ch : Bool) (r l : Nat) : (c.begin ch).getPair r l = c.getPair r l := rfl
@[simp] theorem Crew.begin_getS (c : Crew) (ch : Bool) (r : Nat) : (c.begin ch).getS r = c.getS r := rfl
@[simp] theorem Crew.begin_bs (c : Crew) (ch : Bool) (j : Nat) : (c.begin ch).bs j = c.bs j := rfl
@[simp] theorem Crew.begin_bl (c : Crew) (ch : Bool) (j l : Nat) : (c.begin ch).bl j l = c.bl j l := rfl
@[simp] theorem Crew.begin_mode (c : Crew) (ch : Bool) : (c.begin ch).fpcr = c.fpcr := rfl

@[simp] theorem State.begin_special (s : State) (ch : Bool) (c : BitVec 8) : (s.begin ch).special c = s.special c := rfl
@[simp] theorem State.begin_uni (s : State) (ch : Bool) (c : BitVec 8) : (s.begin ch).uni c = s.uni c := by
  simp [State.uni]
@[simp] theorem State.begin_pair (s : State) (ch : Bool) (c : BitVec 8) (l : Nat) : (s.begin ch).pair c l = s.pair c l := by
  simp [State.pair]
@[simp] theorem State.begin_lane (s : State) (ch : Bool) (c : BitVec 8) (l : Nat) : (s.begin ch).lane c l = s.lane c l := by
  simp [State.lane]
@[simp] theorem State.begin_laneW (s : State) (ch wide : Bool) (c : BitVec 8) (l : Nat) :
    (s.begin ch).laneW wide c l = s.laneW wide c l := by
  simp [State.laneW]

/-- An instruction that may run, with its operand checks passed, has its effect. -/
theorem perform_ok (p : Plan) (s : State) (body : State → Effect) (hm : mayRun s p.srcs) (hok : p.ok = true) :
    perform p s body = (body (s.begin (readsLatch p.srcs))).finish p s := by
  have hp : pushed (s.begin (readsLatch p.srcs)).crew p.srcs = true := by
    cases hr : readsLatch p.srcs with
    | true => simpa [pushed, Crew.begin] using (hm hr).2
    | false =>
      simp only [readsLatch, List.any_eq_false] at hr
      simp only [pushed, List.all_eq_true]
      intro x hx
      have := hr x hx
      cases h : latchOf x with
      | none => rfl
      | some v => simp [h] at this
  have hf : (readsLatch p.srcs && (s.begin (readsLatch p.srcs)).crew.fin) = false := by
    cases hr : readsLatch p.srcs with
    | true => simp [Crew.begin, (hm hr).1]
    | false => rfl
  unfold perform
  simp only [hf, hok, hp, Bool.false_eq_true, if_false, Bool.and_self, Bool.not_true]

/-! The end of an instruction. -/

@[simp] theorem rest_begin (c : Crew) (ch : Bool) : rest (c.begin ch) = rest c := rfl
@[simp] theorem rest_setV (c : Crew) (r l : Nat) (x : Word) : rest (c.setV r l x) = rest c := rfl
@[simp] theorem rest_setS (c : Crew) (r : Nat) (x : DWord) : rest (c.setS r x) = rest c := rfl
@[simp] theorem rest_pushL (c : Crew) (ls : List Nat) (f : Nat → DWord) : rest (c.pushL ls f) = rest c := rfl
@[simp] theorem rest_pushS (c : Crew) (x : DWord) : rest (c.pushS x) = rest c := rfl
@[simp] theorem rest_clearCounts (c : Crew) : rest c.clearCounts = rest c := rfl
@[simp] theorem rest_clearChain (c : Crew) : rest c.clearChain = rest c := rfl

/-- What moving past an instruction leaves of a crew. -/
theorem Crew.advanced_keeps (c : Crew) (last n : Nat) :
    rest (c.advanced last n) = rest c ∧ (c.advanced last n).v = c.v ∧ (c.advanced last n).sr = c.sr ∧
      (c.advanced last n).bl0 = c.bl0 ∧ (c.advanced last n).bl1 = c.bl1 ∧ (c.advanced last n).bl2 = c.bl2 ∧
      (c.advanced last n).bl3 = c.bl3 ∧ (c.advanced last n).bs0 = c.bs0 ∧ (c.advanced last n).bs1 = c.bs1 ∧
      (c.advanced last n).bs2 = c.bs2 ∧ (c.advanced last n).bs3 = c.bs3 ∧ (c.advanced last n).fpsr = c.fpsr ∧
      (c.advanced last n).rxf = c.rxf := by
  unfold Crew.advanced
  split
  · simp only [rest, and_self]
  · split <;> simp only [rest, Crew.clearCounts, and_self]
  · split <;> simp only [rest, Crew.clearCounts, and_self]

theorem State.macroWords_setCrew (s : State) (c : Crew) (h : c.pc = s.crew.pc) : (s.setCrew c).macroWords = s.macroWords := by
  unfold State.macroWords State.textWord State.image
  simp only [State.crew_setCrew, h]
  rfl

/-- The state after an instruction whose effect is on the current crew alone. -/
theorem finish_crew (p : Plan) (s : State) (c : Crew) (hpc : c.pc = s.crew.pc) :
    Effect.finish (.done ((s.begin (readsLatch p.srcs)).setCrew c)) p s =
      .next ((s.begin (readsLatch p.srcs)).setCrew ((c.counted p).advanced (entryEnd s.macroWords) p.words)) := by
  simp only [Effect.finish, State.chainAfter, State.advance, State.crew_setCrew, State.setCrew_setCrew]
  rw [State.macroWords_setCrew _ _ (by simpa [Crew.counted, Crew.begin] using hpc), State.begin_macroWords]

/-- Where the crew stands then. -/
theorem moved_advanced (s t : State) (p : Plan) (c : Crew) (ch : Bool) (hpc : c.pc = s.crew.pc) (hrun : c.run = s.crew.runAt ch)
    (ht : t.crew = (c.counted p).advanced (entryEnd s.macroWords) p.words) : moved s t ch p.words := by
  have hp : (c.counted p).pc = s.crew.pc := hpc
  have hr : (c.counted p).run = s.crew.runAt ch := hrun
  unfold moved
  rw [ht]
  unfold Crew.advanced
  rw [hr, hp]
  unfold Crew.runAt
  cases h : s.crew.run with
  | none => cases ch <;> simp_all
  | some r =>
    cases r with
    | rep i cnt => cases ch <;> simp only [Bool.false_eq_true, if_false, if_true] <;> split <;> simp_all
    | mcall op head => cases ch <;> simp only [Bool.false_eq_true, if_false, if_true] <;> split <;> simp_all

theorem onlyCrew_begin (s : State) (ch : Bool) (c : Crew) : onlyCrew s ((s.begin ch).setCrew c) := by
  refine ⟨rfl, fun k hk => ?_⟩
  rw [State.crewAt_setCrew_ne _ _ (by simpa using hk)]
  exact fget_insert_ne _ _ _ hk

/-! Lane and uniform results. -/

theorem mem_active_lt (s : State) {l : Nat} (h : l ∈ s.active) : l < 32 := by
  simp only [State.active, lanesOf, List.mem_filter, List.mem_range, State.width] at h
  split at h <;> omega

theorem vIndex_ne_succ (c : Crew) (r : Nat) : vIndex c r ≠ vIndex c (r + 1) := by
  unfold vIndex
  cases c.inHandler <;> simp
  split <;> split <;> omega

theorem fget_setV (c : Crew) (r l n : Nat) (x : Word) :
    fget 0 (c.setV r l x).v n = if n = 32 * vIndex c r + l then x else fget 0 c.v n := fget_fset _ _ _ _ _

theorem fget_setVs (c : Crew) (r : Nat) (ls : List Nat) (f : Nat → Word) (hl : ∀ l ∈ ls, l < 32) (n : Nat) :
    fget 0 (c.setVs r ls f).v n = if n / 32 = vIndex c r ∧ n % 32 ∈ ls then f (n % 32) else fget 0 c.v n := by
  induction ls generalizing c with
  | nil => simp [Crew.setVs]
  | cons l ls ih =>
    have h1 : l < 32 := hl l (by simp)
    have h2 : (c.setVs r (l :: ls) f) = (c.setV r l (f l)).setVs r ls f := rfl
    rw [h2, ih _ (fun x hx => hl x (by simp [hx])), fget_setV]
    have h3 : vIndex (c.setV r l (f l)) r = vIndex c r := rfl
    rw [h3]
    by_cases ha : n / 32 = vIndex c r ∧ n % 32 ∈ ls
    · rw [if_pos ha, if_pos ⟨ha.1, by simp [ha.2]⟩]
    · rw [if_neg ha]
      by_cases hb : n = 32 * vIndex c r + l
      · have e1 : n / 32 = vIndex c r := by omega
        have e2 : n % 32 = l := by omega
        rw [if_pos hb, if_pos ⟨e1, by simp [e2]⟩, e2]
      · rw [if_neg hb, if_neg]
        rintro ⟨h5, h6⟩
        rcases List.mem_cons.1 h6 with h7 | h7
        · omega
        · exact ha ⟨h5, h7⟩

theorem fget_setPairs (c : Crew) (r : Nat) (ls : List Nat) (f : Nat → DWord) (hl : ∀ l ∈ ls, l < 32) (n : Nat) :
    fget 0 (c.setPairs r ls f).v n =
      if n / 32 = vIndex c r ∧ n % 32 ∈ ls then (f (n % 32)).extractLsb' 0 32
      else if n / 32 = vIndex c (r + 1) ∧ n % 32 ∈ ls then (f (n % 32)).extractLsb' 32 32
      else fget 0 c.v n := by
  have hne := vIndex_ne_succ c r
  induction ls generalizing c with
  | nil => simp [Crew.setPairs]
  | cons l ls ih =>
    have h1 : l < 32 := hl l (by simp)
    have h2 : (c.setPairs r (l :: ls) f) = (c.setPair r l (f l)).setPairs r ls f := rfl
    have h3 : ∀ k, vIndex (c.setPair r l (f l)) k = vIndex c k := fun _ => rfl
    rw [h2, ih _ (fun x hx => hl x (by simp [hx])) (by simpa [h3] using hne), h3, h3, Crew.setPair, fget_setV, fget_setV]
    have h4 : vIndex (c.setV r l ((f l).extractLsb' 0 32)) (r + 1) = vIndex c (r + 1) := rfl
    rw [h4]
    by_cases ha : n / 32 = vIndex c r
    · by_cases hm : n % 32 ∈ ls
      · simp [ha, hm]
      · have hx : n / 32 ≠ vIndex c (r + 1) := by omega
        have hy : ¬ n = 32 * vIndex c (r + 1) + l := by omega
        by_cases hb : n % 32 = l
        · have : n = 32 * vIndex c r + l := by omega
          rw [if_neg (fun h => hm h.2), if_neg (fun h => hx h.1), if_neg hy, if_pos this, if_pos ⟨ha, by simp [hb]⟩, hb]
        · have hz : ¬ n = 32 * vIndex c r + l := by omega
          rw [if_neg (fun h => hm h.2), if_neg (fun h => hx h.1), if_neg hy, if_neg hz,
            if_neg (fun h => by rcases List.mem_cons.1 h.2 with h7 | h7 <;> simp_all), if_neg (fun h => hx h.1)]
    · have hz : ¬ n = 32 * vIndex c r + l := by omega
      by_cases hb : n / 32 = vIndex c (r + 1)
      · by_cases hm : n % 32 ∈ ls
        · rw [if_neg (fun h => ha h.1), if_pos ⟨hb, hm⟩, if_neg (fun h => ha h.1), if_pos ⟨hb, by simp [hm]⟩]
        · by_cases hc : n % 32 = l
          · have hy : n = 32 * vIndex c (r + 1) + l := by omega
            rw [if_neg (fun h => ha h.1), if_neg (fun h => hm h.2), if_pos hy, if_neg (fun h => ha h.1),
              if_pos ⟨hb, by simp [hc]⟩, hc]
          · have hy : ¬ n = 32 * vIndex c (r + 1) + l := by omega
            rw [if_neg (fun h => ha h.1), if_neg (fun h => hm h.2), if_neg hy, if_neg hz, if_neg (fun h => ha h.1),
              if_neg (fun h => by rcases List.mem_cons.1 h.2 with h7 | h7 <;> simp_all)]
      · have hy : ¬ n = 32 * vIndex c (r + 1) + l := by omega
        rw [if_neg (fun h => ha h.1), if_neg (fun h => hb h.1), if_neg hy, if_neg hz, if_neg (fun h => ha h.1),
          if_neg (fun h => hb h.1)]

theorem setVs_eq (c : Crew) (r : Nat) (ls : List Nat) (f : Nat → Word) : c.setVs r ls f = { c with v := (c.setVs r ls f).v } := by
  induction ls generalizing c with
  | nil => rfl
  | cons l ls ih => exact ih (c.setV r l (f l))

theorem setPairs_eq (c : Crew) (r : Nat) (ls : List Nat) (f : Nat → DWord) :
    c.setPairs r ls f = { c with v := (c.setPairs r ls f).v } := by
  induction ls generalizing c with
  | nil => rfl
  | cons l ls ih => exact ih (c.setPair r l (f l))

theorem fget_laneFile (ls : List Nat) (f : Nat → DWord) (l : Nat) : fget 0 (laneFile ls f) l = if l ∈ ls then f l else 0 := by
  have : ∀ m : List (Nat × DWord), fget 0 (ls.foldl (fun m l => fset 0 m l (f l)) m) l = if l ∈ ls then f l else fget 0 m l := by
    induction ls with
    | nil => simp
    | cons k ls ih =>
      intro m
      rw [List.foldl_cons, ih, fget_fset]
      by_cases h : l ∈ ls
      · simp [h]
      · by_cases h2 : l = k <;> simp [h, h2]
  exact this []

/-- The crew with a lane result in D, pushed. -/
def Crew.laneResult (c : Crew) (ls : List Nat) (wide nw : Bool) (d : Nat) (f : Nat → DWord) : Crew :=
  (if nw then c else if wide then c.setPairs d ls f else c.setVs d ls (fun l => (f l).setWidth 32)).pushL ls
    (fun l => if wide then f l else ((f l).setWidth 32).setWidth 64)

theorem putLane_eq (s : State) (wide nw : Bool) (d : BitVec 7) (f : Nat → DWord) :
    s.putLane wide nw d f = s.setCrew (s.crew.laneResult s.active wide nw d.toNat f) := rfl

/-- What a lane result is: its registers, its push, and nothing else. -/
theorem laneResult_spec (c : Crew) (ls : List Nat) (wide nw : Bool) (d : Nat) (f : Nat → DWord) (hl : ∀ l ∈ ls, l < 32) :
    rest (c.laneResult ls wide nw d f) = rest c ∧ uniformKept c (c.laneResult ls wide nw d f) ∧
      (c.laneResult ls wide nw d f).rxf = c.rxf ∧ (c.laneResult ls wide nw d f).fpsr = c.fpsr ∧
      (c.laneResult ls wide nw d f).pc = c.pc ∧ (c.laneResult ls wide nw d f).run = c.run ∧
      (∀ n, fget 0 (c.laneResult ls wide nw d f).v n =
        if nw = false ∧ n / 32 = vIndex c d ∧ n % 32 ∈ ls then (f (n % 32)).extractLsb' 0 32
        else if nw = false ∧ wide = true ∧ n / 32 = vIndex c (d + 1) ∧ n % 32 ∈ ls then (f (n % 32)).extractLsb' 32 32
        else fget 0 c.v n) ∧
      (∀ l, fget 0 (c.laneResult ls wide nw d f).bl0 l =
        if l ∈ ls then (if wide then f l else ((f l).setWidth 32).setWidth 64) else 0) ∧
      (c.laneResult ls wide nw d f).bl1 = c.bl0 ∧ (c.laneResult ls wide nw d f).bl2 = c.bl1 ∧
      (c.laneResult ls wide nw d f).bl3 = c.bl2 := by
  unfold Crew.laneResult
  cases nw with
  | true =>
    refine ⟨rfl, ⟨rfl, rfl, rfl, rfl, rfl⟩, rfl, rfl, rfl, rfl, ?_, ?_, rfl, rfl, rfl⟩
    · intro n; simp
    · intro l; exact fget_laneFile _ _ _
  | false =>
    cases wide with
    | true =>
      simp only [Bool.false_eq_true, if_false, if_true]
      have h := setPairs_eq c d ls f
      have hv := fget_setPairs c d ls f hl
      generalize c.setPairs d ls f = c1 at h hv
      generalize c1.v = v1 at h hv
      subst h
      refine ⟨rfl, ⟨rfl, rfl, rfl, rfl, rfl⟩, rfl, rfl, rfl, rfl, ?_, ?_, rfl, rfl, rfl⟩
      · intro n; simpa using hv n
      · intro l; exact fget_laneFile _ _ _
    | false =>
      simp only [Bool.false_eq_true, if_false]
      have h := setVs_eq c d ls (fun l => (f l).setWidth 32)
      have hv := fget_setVs c d ls (fun l => (f l).setWidth 32) hl
      generalize c.setVs d ls (fun l => (f l).setWidth 32) = c1 at h hv
      generalize c1.v = v1 at h hv
      subst h
      refine ⟨rfl, ⟨rfl, rfl, rfl, rfl, rfl⟩, rfl, rfl, rfl, rfl, ?_, ?_, rfl, rfl, rfl⟩
      · intro n
        have e : ∀ x : DWord, x.extractLsb' 0 32 = x.setWidth 32 := fun x => by
          ext i hi; simp [BitVec.getElem_extractLsb', BitVec.getElem_setWidth]
        simpa [e] using hv n
      · intro l; exact fget_laneFile _ _ _

/-- The frame of a lane instruction: with its operands good it completes, with its result and flags. -/
theorem laneDone_perform {o : Out} {s : State} {wide nw : Bool} {d : BitVec 7} {srcs : List (BitVec 8)} {words fl : Nat}
    {f g : Nat → DWord} {p : Plan} {body : State → Effect} (ho : o = perform p s body) (hsrc : p.srcs = srcs)
    (hw : p.words = words) (hm : mayRun s srcs) (hok : p.ok = true)
    (hb : body (s.begin (readsLatch p.srcs)) = .done (((s.begin (readsLatch p.srcs)).putLane wide nw d g).orFpsr fl))
    (hg : ∀ l ∈ s.active, g l = f l) : laneDone o s wide nw d srcs words fl f := by
  subst ho hsrc hw
  rw [perform_ok p s body hm hok, hb, putLane_eq, State.orFpsr]
  simp only [State.crew_setCrew, State.setCrew_setCrew, State.begin_crew, State.begin_active]
  have hs := laneResult_spec (s.crew.begin (readsLatch p.srcs)) s.active wide nw d.toNat g (fun l h => mem_active_lt s h)
  generalize hc : (s.crew.begin (readsLatch p.srcs)).laneResult s.active wide nw d.toNat g = c1 at hs
  obtain ⟨h1, h2, h3, h4, h5, h6, h7, h8, h9, h10, h11⟩ := hs
  rw [finish_crew p s _ (by exact h5)]
  refine ⟨_, rfl, onlyCrew_begin _ _ _, ?_⟩
  simp only [State.crew_setCrew]
  have hk := Crew.advanced_keeps (({ c1 with fpsr := c1.fpsr ||| dw fl } : Crew).counted p) (entryEnd s.macroWords) p.words
  obtain ⟨k1, k2, k3, k4, k5, k6, k7, k8, k9, k10, k11, k12, k13⟩ := hk
  have hv : ∀ r, vIndex (s.crew.begin (readsLatch p.srcs)) r = vIndex s.crew r := fun _ => rfl
  refine ⟨k1.trans h1, moved_advanced s _ p { c1 with fpsr := c1.fpsr ||| dw fl } _ h5 h6 (State.crew_setCrew _ _), ?_, k13.trans h3, ?_, ?_, ?_⟩
  · obtain ⟨u1, u2, u3, u4, u5⟩ := h2
    exact ⟨k3.trans u1, k8.trans u2, k9.trans u3, k10.trans u4, k11.trans u5⟩
  · rw [k12]; simp only [Crew.counted, h4]; rfl
  · intro n
    rw [k2]
    refine (h7 n).trans ?_
    simp only [hv]
    by_cases hn : n % 32 ∈ s.active
    · rw [hg _ hn]; rfl
    · simp only [hn, and_false, if_false]; rfl
  · refine ⟨fun l => ?_, k5.trans h9, k6.trans h10, k7.trans h11⟩
    rw [k4]
    refine (h8 l).trans ?_
    by_cases hn : l ∈ s.active
    · simp only [hn, if_true, hg _ hn]
    · simp only [hn, if_false]

theorem orFpsr_zero (s : State) (wide nw : Bool) (d : BitVec 7) (g : Nat → DWord) :
    (s.putLane wide nw d g).orFpsr 0 = s.putLane wide nw d g := by
  have h : ∀ c : Crew, { c with fpsr := c.fpsr ||| dw 0 } = c := fun c => by
    have : c.fpsr ||| dw 0 = c.fpsr := BitVec.or_zero
    simp only [this]
  rw [putLane_eq, State.orFpsr]
  simp only [State.crew_setCrew, State.setCrew_setCrew, h]

/-- The same without flags. -/
theorem laneDone_plain {o : Out} {s : State} {wide nw : Bool} {d : BitVec 7} {srcs : List (BitVec 8)} {words : Nat}
    {f g : Nat → DWord} {p : Plan} {body : State → Effect} (ho : o = perform p s body) (hsrc : p.srcs = srcs)
    (hw : p.words = words) (hm : mayRun s srcs) (hok : p.ok = true)
    (hb : body (s.begin (readsLatch p.srcs)) = .done ((s.begin (readsLatch p.srcs)).putLane wide nw d g))
    (hg : ∀ l ∈ s.active, g l = f l) : laneDone o s wide nw d srcs words 0 f :=
  laneDone_perform ho hsrc hw hm hok (by rw [hb, orFpsr_zero]) hg

/-- The crew with a uniform result in D, pushed. -/
def Crew.uniformResult (c : Crew) (nw : Bool) (d : Nat) (x : DWord) : Crew := (if nw then c else c.setS d x).pushS x

theorem putS_eq (s : State) (nw : Bool) (d : BitVec 7) (x : DWord) :
    s.putS nw d x = s.setCrew (s.crew.uniformResult nw (sNum d) x) := rfl

theorem uniformResult_spec (c : Crew) (nw : Bool) (d : Nat) (x : DWord) :
    rest (c.uniformResult nw d x) = rest c ∧ lanesKept c (c.uniformResult nw d x) ∧
      (c.uniformResult nw d x).rxf = c.rxf ∧ (c.uniformResult nw d x).fpsr = c.fpsr ∧
      (c.uniformResult nw d x).pc = c.pc ∧ (c.uniformResult nw d x).run = c.run ∧
      (∀ n, fget 0 (c.uniformResult nw d x).sr n = if nw = false ∧ n = sIndex c d then x else fget 0 c.sr n) ∧
      (c.uniformResult nw d x).bs0 = x ∧ (c.uniformResult nw d x).bs1 = c.bs0 ∧ (c.uniformResult nw d x).bs2 = c.bs1 ∧
      (c.uniformResult nw d x).bs3 = c.bs2 := by
  unfold Crew.uniformResult
  cases nw with
  | true => exact ⟨rfl, ⟨rfl, rfl, rfl, rfl, rfl⟩, rfl, rfl, rfl, rfl, fun n => by simp, rfl, rfl, rfl, rfl⟩
  | false =>
    refine ⟨rfl, ⟨rfl, rfl, rfl, rfl, rfl⟩, rfl, rfl, rfl, rfl, fun n => ?_, rfl, rfl, rfl, rfl⟩
    simp only [Bool.false_eq_true, if_false, true_and]
    exact fget_fset _ _ _ _ _

/-- The frame of a uniform instruction. -/
theorem uniformDone_perform {o : Out} {s : State} {nw : Bool} {d : BitVec 7} {srcs : List (BitVec 8)} {words fl : Nat}
    {x : DWord} {p : Plan} {body : State → Effect} (ho : o = perform p s body) (hsrc : p.srcs = srcs) (hw : p.words = words)
    (hm : mayRun s srcs) (hok : p.ok = true)
    (hb : body (s.begin (readsLatch p.srcs)) = .done (((s.begin (readsLatch p.srcs)).putS nw d x).orFpsr fl)) :
    uniformDone o s nw d srcs words fl x := by
  subst ho hsrc hw
  rw [perform_ok p s body hm hok, hb, putS_eq, State.orFpsr]
  simp only [State.crew_setCrew, State.setCrew_setCrew, State.begin_crew]
  have hs := uniformResult_spec (s.crew.begin (readsLatch p.srcs)) nw (sNum d) x
  generalize hc : (s.crew.begin (readsLatch p.srcs)).uniformResult nw (sNum d) x = c1 at hs
  obtain ⟨h1, h2, h3, h4, h5, h6, h7, h8, h9, h10, h11⟩ := hs
  rw [finish_crew p s _ (by exact h5)]
  refine ⟨_, rfl, onlyCrew_begin _ _ _, ?_⟩
  simp only [State.crew_setCrew]
  have hk := Crew.advanced_keeps (({ c1 with fpsr := c1.fpsr ||| dw fl } : Crew).counted p) (entryEnd s.macroWords) p.words
  obtain ⟨k1, k2, k3, k4, k5, k6, k7, k8, k9, k10, k11, k12, k13⟩ := hk
  refine ⟨k1.trans h1, moved_advanced s _ p { c1 with fpsr := c1.fpsr ||| dw fl } _ h5 h6 (State.crew_setCrew _ _), ?_, k13.trans h3, ?_, ?_⟩
  · obtain ⟨u1, u2, u3, u4, u5⟩ := h2
    exact ⟨k2.trans u1, k4.trans u2, k5.trans u3, k6.trans u4, k7.trans u5⟩
  · rw [k12]; simp only [Crew.counted, h4]; rfl
  · refine ⟨fun n => ?_, k8.trans h8, k9.trans h9, k10.trans h10, k11.trans h11⟩
    rw [k3]
    exact h7 n

theorem orFpsr_zero_putS (s : State) (nw : Bool) (d : BitVec 7) (x : DWord) :
    (s.putS nw d x).orFpsr 0 = s.putS nw d x := by
  have h : ∀ c : Crew, { c with fpsr := c.fpsr ||| dw 0 } = c := fun c => by
    have : c.fpsr ||| dw 0 = c.fpsr := BitVec.or_zero
    simp only [this]
  rw [putS_eq, State.orFpsr]
  simp only [State.crew_setCrew, State.setCrew_setCrew, h]

/-- The same without flags. -/
theorem uniformDone_plain {o : Out} {s : State} {nw : Bool} {d : BitVec 7} {srcs : List (BitVec 8)} {words : Nat}
    {x : DWord} {p : Plan} {body : State → Effect} (ho : o = perform p s body) (hsrc : p.srcs = srcs) (hw : p.words = words)
    (hm : mayRun s srcs) (hok : p.ok = true)
    (hb : body (s.begin (readsLatch p.srcs)) = .done ((s.begin (readsLatch p.srcs)).putS nw d x)) :
    uniformDone o s nw d srcs words 0 x :=
  uniformDone_perform ho hsrc hw hm hok (by rw [hb, orFpsr_zero_putS])

end Sys2Proof.Machine
end

