-- ==== Sys2Proof/Laws/Memory.lean ====
section
/-! SUPPORT. Device memory and scratchpad parts: a write gives its bytes, leaves the others, and keeps the canonical
form; a number read back from where it was written. -/
namespace Sys2Proof.Machine

/-! Bytes and numbers. -/

theorem length_bytesOf (n v : Nat) : (bytesOf n v).length = n := by
  induction n generalizing v with
  | zero => rfl
  | succ n ih => simp [bytesOf, ih]

theorem getD_bytesOf (n v k : Nat) (h : k < n) : (bytesOf n v).getD k 0 = BitVec.ofNat 8 (v / 2 ^ (8 * k)) := by
  induction n generalizing v k with
  | zero => omega
  | succ n ih =>
    cases k with
    | zero => simp [bytesOf]
    | succ k =>
      have e : v / 256 / 2 ^ (8 * k) = v / 2 ^ (8 * (k + 1)) := by
        rw [Nat.div_div_eq_div_mul, Nat.mul_add, Nat.pow_add, Nat.mul_comm]
      rw [bytesOf, List.getD_cons_succ, ih _ _ (by omega), e]

theorem natOf_bytesOf (n v : Nat) : natOf (bytesOf n v) = v % 2 ^ (8 * n) := by
  induction n generalizing v with
  | zero => simp [bytesOf, natOf, Nat.mod_one]
  | succ n ih =>
    have e : (2 : Nat) ^ (8 * (n + 1)) = 256 * 2 ^ (8 * n) := by rw [Nat.mul_add, Nat.pow_add, Nat.mul_comm]
    rw [bytesOf, natOf, ih, e, Nat.mod_mul, BitVec.toNat_ofNat]

theorem mem_of_lookup {α : Type} {m : List (Nat × α)} {a : Nat} {x : α} (h : lookup m a = some x) : (a, x) ∈ m := by
  induction m with
  | nil => simp [lookup] at h
  | cons e m ih =>
    obtain ⟨k, v⟩ := e
    simp only [lookup] at h
    split at h
    · next hk => cases h; subst hk; exact List.mem_cons_self ..
    · exact List.mem_cons_of_mem _ (ih h)

/-! Device memory. -/

theorem State.byte_writeMem (s : State) (a : Nat) (bs : List Byte) (x : Nat) :
    (s.writeMem a bs).byte x = if a ≤ x ∧ x < a + bs.length then bs.getD (x - a) 0 else s.byte x := by
  simp only [State.byte, State.writeMem, fget_fsetRun]

theorem State.byte_writeNat (s : State) (a n v x : Nat) :
    (s.writeNat a n v).byte x = if a ≤ x ∧ x < a + n then BitVec.ofNat 8 (v / 2 ^ (8 * (x - a))) else s.byte x := by
  rw [State.writeNat, State.byte_writeMem, length_bytesOf]
  split
  · rw [getD_bytesOf _ _ _ (by omega)]
  · rfl

@[simp] theorem State.readMem_writeMem (s : State) (a : Nat) (bs : List Byte) :
    (s.writeMem a bs).readMem a bs.length = bs := by
  simp only [State.readMem, State.writeMem, fgetRun_fsetRun]

/-- A number read back from where it was written. -/
theorem State.readNat_writeNat (s : State) (a n v : Nat) : (s.writeNat a n v).readNat a n = v % 2 ^ (8 * n) := by
  have h := s.readMem_writeMem a (bytesOf n v)
  rw [length_bytesOf] at h
  rw [State.readNat, State.writeNat, h, natOf_bytesOf]

/-- Bytes clear of a write read as before. -/
theorem State.readMem_writeMem_ne (s : State) (a b n : Nat) (bs : List Byte) (h : b + n ≤ a ∨ a + bs.length ≤ b) :
    (s.writeMem a bs).readMem b n = s.readMem b n := by
  apply fgetRun_congr
  intro x h1 h2
  rw [State.writeMem, fget_fsetRun, if_neg (by omega)]

/-- A write past the device memory leaves the package. -/
theorem State.storePhys_past (s : State) (pa : Nat) (bs : List Byte) (h : memTop < pa + bs.length) : s.storePhys pa bs = s := by
  rw [State.storePhys, if_neg (by omega)]

/-! The canonical form is kept. -/

theorem State.writeMem_wf (s : State) (a : Nat) (bs : List Byte) (h : Memory.wf s.mem = true) :
    Memory.wf (s.writeMem a bs).mem = true := canonical_fsetRun 0 bs s.mem a h

theorem State.writeNat_wf (s : State) (a n v : Nat) (h : Memory.wf s.mem = true) : Memory.wf (s.writeNat a n v).mem = true :=
  s.writeMem_wf a _ h

theorem State.storePhys_wf (s : State) (pa : Nat) (bs : List Byte) (h : Memory.wf s.mem = true) :
    Memory.wf (s.storePhys pa bs).mem = true := by
  unfold State.storePhys
  split
  · exact s.writeMem_wf pa bs h
  · exact h

theorem State.reset_wf : Memory.wf State.reset.mem = true := rfl

/-- Equal memories in the canonical form are equal data. -/
theorem Memory.wf_ext {m m' : Memory} (h : Memory.wf m = true) (h' : Memory.wf m' = true)
    (heq : ∀ a, fget (0 : Byte) m a = fget 0 m' a) : m = m' := by
  simp only [Memory.wf, canonical, Bool.and_eq_true, List.all_eq_true, decide_eq_true_eq] at h h'
  refine rising_ext h.1 h'.1 fun a => ?_
  have e := heq a
  unfold fget at e
  cases hm : lookup m a <;> cases hm' : lookup m' a <;> simp only [hm, hm', Option.getD] at e
  · rfl
  · exact absurd e.symm (h'.2 _ (mem_of_lookup hm'))
  · exact absurd e (h.2 _ (mem_of_lookup hm))
  · rw [e]

/-! Scratchpad parts. -/

@[simp] theorem Part.read_write (p : Part) (a : Nat) (bs : List Byte) : (p.write a bs).read a bs.length = bs := by
  simp only [Part.read, Part.write, fgetRun_fsetRun]

theorem Part.bytes_write (p : Part) (a : Nat) (bs : List Byte) (x : Nat) :
    fget 0 (p.write a bs).bytes x = if a ≤ x ∧ x < a + bs.length then bs.getD (x - a) 0 else fget 0 p.bytes x := by
  simp only [Part.write, fget_fsetRun]

theorem Part.write_wf (p : Part) (a : Nat) (bs : List Byte) (h : canonical (0 : Byte) p.bytes = true) :
    canonical (0 : Byte) (p.write a bs).bytes = true := canonical_fsetRun 0 bs p.bytes a h

theorem Part.engineWrite_wf (p : Part) (a : Nat) (bs : List Byte) (h : canonical (0 : Byte) p.bytes = true) :
    canonical (0 : Byte) (p.engineWrite a bs).bytes = true := canonical_fsetRun 0 bs p.bytes a h

theorem fget_setFlags (m : List (Nat × Bool)) (gs : List Nat) (b : Bool) (g : Nat) :
    fget false (setFlags m gs b) g = if g ∈ gs then b else fget false m g := by
  unfold setFlags
  induction gs generalizing m with
  | nil => simp
  | cons x gs ih =>
    simp only [List.foldl_cons, ih, fget_fset, List.mem_cons]
    by_cases h1 : g ∈ gs <;> by_cases h2 : g = x <;> simp [h1, h2]

theorem Part.isEmpty_setEmpty (p : Part) (gs : List Nat) (b : Bool) (g : Nat) :
    (p.setEmpty gs b).isEmpty g = if g ∈ gs then b else p.isEmpty g := fget_setFlags p.empty gs b g

end Sys2Proof.Machine
end

