-- ==== Sys2Proof/Laws/Trap.lean ====
section
/-! SUPPORT. What taking a trap does. -/
namespace Sys2Proof.Machine
open Sys2Proof.Safety

@[simp] theorem State.fireEquinox_keeps (s : State) (n : Nat) :
    (s.fireEquinox n).mem = s.mem ∧ (s.fireEquinox n).teams = s.teams ∧ (s.fireEquinox n).crews = s.crews ∧
      (s.fireEquinox n).cur = s.cur ∧ (s.fireEquinox n).ends = s.ends := by
  unfold State.fireEquinox
  simp only
  repeat' (first | exact ⟨rfl, rfl, rfl, rfl, rfl⟩ | split)

theorem State.irqDone_keeps (s : State) (k : Nat) (b : Bool) :
    (s.irqDone k b).mem = s.mem ∧ (s.irqDone k b).teams = s.teams ∧ (s.irqDone k b).crews = s.crews ∧
      (s.irqDone k b).cur = s.cur ∧ (s.irqDone k b).ends = s.ends := by
  unfold State.irqDone
  split <;> simp

/-- What a halt leaves and writes. -/
theorem State.haltCrew_keeps (s : State) :
    s.haltCrew.mem = s.mem ∧ s.haltCrew.teams = s.teams ∧ s.haltCrew.cur = s.cur ∧
      s.haltCrew.crew = { s.crew with halted := true, run := none, block := none, irq := false } ∧
      (∀ k, k ≠ s.cur → s.haltCrew.crewAt k = s.crewAt k) ∧
      s.haltCrew.ends = s.ends ++ [{ ctx := s.team.ctx, fdom := s.team.fdom, crew := some s.cur, driver := false }] := by
  have h : ∀ t : State, t.mem = s.mem ∧ t.teams = s.teams ∧ t.cur = s.cur ∧
      t.crew = { s.crew with halted := true, run := none, block := none, irq := false } ∧
      (∀ k, k ≠ s.cur → t.crewAt k = s.crewAt k) ∧
      t.ends = s.ends ++ [{ ctx := s.team.ctx, fdom := s.team.fdom, crew := some s.cur, driver := false }] →
      ∀ u : State, u.mem = t.mem ∧ u.teams = t.teams ∧ u.crews = t.crews ∧ u.cur = t.cur ∧ u.ends = t.ends →
      u.mem = s.mem ∧ u.teams = s.teams ∧ u.cur = s.cur ∧
      u.crew = { s.crew with halted := true, run := none, block := none, irq := false } ∧
      (∀ k, k ≠ s.cur → u.crewAt k = s.crewAt k) ∧
      u.ends = s.ends ++ [{ ctx := s.team.ctx, fdom := s.team.fdom, crew := some s.cur, driver := false }] := by
    rintro t ⟨h1, h2, h3, h4, h5, h6⟩ u ⟨u1, u2, u3, u4, u5⟩
    refine ⟨u1.trans h1, u2.trans h2, u4.trans h3, ?_, ?_, u5.trans h6⟩
    · rw [← h4]; unfold State.crew State.crewAt; rw [u3, u4]
    · intro k hk; rw [← h5 k hk]; unfold State.crewAt; rw [u3]
  have base : ∀ c : Crew, c = { s.crew with halted := true, run := none, block := none } →
      let t := ((s.setCrew c).endDomainOf s.cur).dropIrq s.cur
      t.mem = s.mem ∧ t.teams = s.teams ∧ t.cur = s.cur ∧
      t.crew = { s.crew with halted := true, run := none, block := none, irq := false } ∧
      (∀ k, k ≠ s.cur → t.crewAt k = s.crewAt k) ∧
      t.ends = s.ends ++ [{ ctx := s.team.ctx, fdom := s.team.fdom, crew := some s.cur, driver := false }] := by
    intro c hc
    refine h _ ?_ _ (State.irqDone_keeps _ _ _)
    refine ⟨rfl, rfl, rfl, ?_, ?_, rfl⟩
    · refine (fget_insert_self _ _ _ _).trans ?_
      have : ((s.setCrew c).endDomainOf s.cur).crewAt s.cur = c := fget_insert_self _ _ _ _
      rw [this, hc]
    · intro k hk
      refine (fget_insert_ne _ _ _ hk).trans ?_
      exact fget_insert_ne _ _ _ hk
  unfold State.haltCrew
  simp only
  split
  · exact h _ (base _ rfl) _ (State.fireEquinox_keeps _ _)
  · exact base _ rfl

/-- Taking a trap that is not asynchronous, from a crew c that has the registers of s. -/
theorem takeTrap_trapped (s s1 : State) (t : Trap) (pc resume : BitVec 32) (rep : Nat) (ha : t.async = false)
    (hs : ∃ c fr, s1 = { s with crews := insert s.crews s.cur c, fresh := fr } ∧ c.v = s.crew.v ∧ c.sr = s.crew.sr ∧
      c.fpsr = s.crew.fpsr ∧ c.rxf = s.crew.rxf ∧ c.fpcr = s.crew.fpcr ∧ c.psel = s.crew.psel ∧ c.live = s.crew.live ∧
      c.exm = s.crew.exm ∧ c.inHandler = s.crew.inHandler ∧ c.halted = s.crew.halted) :
    trapped s (s1.takeTrap t pc resume (dw rep)) t.code t.lanes t.addr t.info pc resume rep := by
  obtain ⟨c, fr, rfl, h1, h2, h3, h4, h5, h6, h7, h8, h9, h10⟩ := hs
  have hcr : ({ s with crews := insert s.crews s.cur c, fresh := fr } : State).crew = c := fget_insert_self _ _ _ _
  have hcw : t.causeWord = BitVec.ofNat 64 (t.code + t.info * 2 ^ 48) := by
    unfold Trap.causeWord
    rw [ha]
    simp [dw]
  have hteam : ({ s with crews := insert s.crews s.cur c, fresh := fr } : State).team = s.team := rfl
  unfold State.takeTrap
  simp only [hcr, hteam]
  generalize hc1 : ({ c with run := none, block := none, resuming := false, reissue := false, served := [], got := [] } : Crew).clearChain.trapRegs
    t pc resume (dw rep) = c1
  have e : c1 = ({ c with run := none, block := none, resuming := false, reissue := false, served := [], got := [] } : Crew).clearChain.trapRegs
    t pc resume (dw rep) := hc1.symm
  have f1 : c1.trapcause = t.causeWord := by rw [e]; simp
  have f2 : c1.trappc = pc.setWidth 64 := by rw [e]; simp
  have f3 : c1.traplanes = t.lanes.setWidth 64 := by rw [e]; simp
  have f4 : c1.trapaddr = t.addr := by rw [e]; simp
  have f5 : c1.resumepc = resume.setWidth 64 := by rw [e]; simp
  have f6 : c1.traprep = dw rep := by rw [e]; simp
  have f7 : c1.bl0 = [] ∧ c1.bl1 = [] ∧ c1.bl2 = [] ∧ c1.bl3 = [] ∧ c1.bs0 = 0 ∧ c1.bs1 = 0 ∧ c1.bs2 = 0 ∧ c1.bs3 = 0 := by
    rw [e]; simp [Crew.clearChain]
  have f8 : c1.nL = 0 ∧ c1.nS = 0 ∧ c1.fin = false ∧ c1.run = none ∧ c1.block = none := by
    rw [e]; simp [Crew.clearChain]
  have f9 : c1.v = s.crew.v ∧ c1.fpsr = s.crew.fpsr ∧ c1.rxf = s.crew.rxf ∧ c1.fpcr = s.crew.fpcr ∧ c1.psel = s.crew.psel ∧
      c1.live = s.crew.live := by
    rw [e]; simp [h1, h3, h4, h5, h6, h7]
  have f10 : c1.exm = s.crew.exm ∧ c1.sr = s.crew.sr ∧ c1.inHandler = s.crew.inHandler ∧ c1.halted = s.crew.halted := by
    rw [e]; simp [h8, h2, h9, h10]
  have hset : ({ s with crews := insert s.crews s.cur c, fresh := fr } : State).setCrew c1 =
      { s with crews := insert s.crews s.cur c1, fresh := fr } := by
    unfold State.setCrew State.setCrewAt
    simp only [insert_insert]
  rw [hset]
  have hcr1 : ({ s with crews := insert s.crews s.cur c1, fresh := fr } : State).crew = c1 := fget_insert_self _ _ _ _
  by_cases hh : s.team.hndl = true ∧ s.crew.inHandler = false
  · have hb : (s.team.hndl && !c.inHandler) = true := by simp [h9, hh.1, hh.2]
    rw [if_pos hb]
    unfold State.enterHandler
    simp only [hcr1]
    have hlm : ({ s with crews := insert s.crews s.cur c1, fresh := fr } : State).liveMask = s.liveMask := by
      unfold State.liveMask
      rw [hcr1, f9.2.2.2.2.2]
      rfl
    unfold trapped
    simp only [State.crew_setCrew]
    rw [if_pos hh]
    refine ⟨f1.trans hcw, f2, f3, f4, f5, f6, f7, ⟨f8.1, f8.2.1, f8.2.2.1, rfl, rfl⟩, f9.1, f9.2.1, f9.2.2.1, f9.2.2.2.1,
      f9.2.2.2.2.1, f9.2.2.2.2.2, rfl, rfl, rfl, ?_, rfl, f10.2.2.2, rfl, hlm, ?_, rfl⟩
    · intro k hk
      exact (fget_insert_ne _ _ _ hk).trans (fget_insert_ne _ _ _ hk)
    · intro n
      refine (fget_fset _ _ _ _ _).trans ?_
      simp only [f10.1, f10.2.1]
      rfl
  · have hb : (s.team.hndl && !c.inHandler) = false := by
      rw [h9]
      cases hq : s.team.hndl <;> cases hr : s.crew.inHandler <;> simp_all
    rw [hb, if_neg Bool.false_ne_true]
    have hk := State.haltCrew_keeps { s with crews := insert s.crews s.cur c1, fresh := fr }
    obtain ⟨k1, k2, k3, k4, k5, k6⟩ := hk
    rw [hcr1] at k4
    unfold trapped
    simp only [k4]
    rw [if_neg hh]
    refine ⟨f1.trans hcw, f2, f3, f4, f5, f6, f7, ⟨f8.1, f8.2.1, f8.2.2.1, trivial, trivial⟩, f9.1, f9.2.1, f9.2.2.1, f9.2.2.2.1,
      f9.2.2.2.2.1, f9.2.2.2.2.2, k1, k2, k3, ?_, trivial, f10.2.2.1, f10.1, f10.2.1, k6⟩
    intro k hk
    rw [k5 k hk]
    exact fget_insert_ne _ _ _ hk

/-- A trap of the instruction that the crew of s begins, outside REP and MCALL. -/
theorem trapHere_trapped (s : State) (t : Trap) (ch : Bool) (ha : t.async = false) (hrun : s.crew.run = none) :
    trapped s ((s.begin ch).trapHere t ch) t.code t.lanes t.addr t.info s.crew.pc (resumeAt s ch) 0 := by
  have hr : (s.begin ch).crew.run = none := by
    rw [State.begin_crew]
    unfold Crew.begin Crew.runAt
    simp only [hrun]
    cases ch <;> rfl
  have hres : (if ch then (s.begin ch).crew.head.getD (s.begin ch).crew.pc else (s.begin ch).crew.pc) = resumeAt s ch := by
    rw [State.begin_crew]
    unfold resumeAt
    cases ch <;> rfl
  have hpc : (s.begin ch).crew.pc = s.crew.pc := by rw [State.begin_crew]; rfl
  have h0 : (0 : DWord) = dw 0 := rfl
  unfold State.trapHere
  simp only [hr, hpc]
  rw [h0, show (if ch = true then (s.begin ch).crew.head.getD s.crew.pc else s.crew.pc) = resumeAt s ch by rw [← hres, hpc]]
  exact takeTrap_trapped s _ t s.crew.pc _ 0 ha
    ⟨s.crew.begin ch, s.fresh + 1, rfl, rfl, rfl, rfl, rfl, rfl, rfl, rfl, rfl, rfl, rfl⟩

/-- Stage 1: a latch read after a chain-ending instruction. -/
theorem perform_trap_word (p : Plan) (s : State) (body : State → Effect) (hrun : s.crew.run = none)
    (hc : readsLatch p.srcs = true) (hf : s.crew.fin = true) :
    ∃ t, perform p s body = .next t ∧ trapped s t 1 s.actMask 0 0 s.crew.pc (resumeAt s true) 0 := by
  have h := trapHere_trapped s (s.begin (readsLatch p.srcs)).illegalInstr true rfl hrun
  rw [State.illegalInstr, State.begin_actMask] at h
  refine ⟨_, ?_, h⟩
  unfold perform
  have hb : (readsLatch p.srcs && (s.begin (readsLatch p.srcs)).crew.fin) = true := by
    rw [State.begin_crew]; simp [Crew.begin, hc, hf]
  rw [if_pos hb, hc, State.illegalInstr, State.begin_actMask]

/-- Stage 2: an operand check fails. -/
theorem perform_trap_operand (p : Plan) (s : State) (body : State → Effect) (hrun : s.crew.run = none)
    (hc : ¬ (readsLatch p.srcs = true ∧ s.crew.fin = true))
    (hbad : p.ok = false ∨ readsLatch p.srcs = true ∧ pushed s.crew p.srcs = false) :
    ∃ t, perform p s body = .next t ∧ trapped s t 2 s.actMask 0 0 s.crew.pc (resumeAt s (readsLatch p.srcs)) 0 := by
  have h := trapHere_trapped s (s.begin (readsLatch p.srcs)).illegalOperand (readsLatch p.srcs) rfl hrun
  have hf : (readsLatch p.srcs && (s.begin (readsLatch p.srcs)).crew.fin) = false := by
    rw [State.begin_crew]
    cases hr : readsLatch p.srcs with
    | false => rfl
    | true =>
      have : s.crew.fin = false := by
        cases hq : s.crew.fin with
        | false => rfl
        | true => exact absurd ⟨hr, hq⟩ hc
      simp [Crew.begin, this]
  have hb : (!(p.ok && pushed (s.begin (readsLatch p.srcs)).crew p.srcs)) = true := by
    rcases hbad with hb | ⟨hr, hb⟩
    · simp [hb]
    · have : pushed (s.begin (readsLatch p.srcs)).crew p.srcs = false := by
        rw [← hb]
        simp [pushed, Crew.begin, hr]
      rw [this, Bool.and_false]; rfl
  rw [State.illegalOperand, State.begin_actMask] at h
  refine ⟨_, ?_, h⟩
  unfold perform
  rw [if_neg (by rw [hf]; exact Bool.false_ne_true), if_pos hb, State.illegalOperand, State.begin_actMask]

end Sys2Proof.Machine
end

