-- ==== Sys2Proof/Laws/Monitor.lean ====
section
/-! SUPPORT. What a firing of Equinox, a report and a monitor's sample leave, and what a window's end leaves of the counts. -/
namespace Sys2Proof.Machine

/-- Two states agree on the crews, the teams, the counts of a 1 ms window, the links and the reports to the board. -/
def Quiet (s t : State) : Prop := t.crews = s.crews ∧ t.teams = s.teams ∧ t.tally = s.tally ∧ t.links = s.links ∧ t.bmc = s.bmc

theorem Quiet.refl (s : State) : Quiet s s := ⟨rfl, rfl, rfl, rfl, rfl⟩
theorem Quiet.trans {s t u : State} (h : Quiet s t) (k : Quiet t u) : Quiet s u :=
  ⟨k.1.trans h.1, k.2.1.trans h.2.1, k.2.2.1.trans h.2.2.1, k.2.2.2.1.trans h.2.2.2.1, k.2.2.2.2.trans h.2.2.2.2⟩
theorem State.setReg_quiet (s : State) (fn off : Nat) (v : DWord) : Quiet s (s.setReg fn off v) := ⟨rfl, rfl, rfl, rfl, rfl⟩

theorem State.raiseIn_quiet (s : State) (fn vec : Nat) : Quiet s (s.raiseIn fn vec) := by
  unfold State.raiseIn
  split <;> exact ⟨rfl, rfl, rfl, rfl, rfl⟩

theorem State.raiseShared_quiet (s : State) (vec : Nat) : Quiet s (s.raiseShared vec) := by
  have one (t : State) (fn : Nat) : Quiet t (if (t.reg fn 0x2050).getLsbD vec then t.raiseIn fn vec else t) := by
    split
    · exact State.raiseIn_quiet _ _ _
    · exact Quiet.refl _
  exact (one s 0).trans (one _ 1)

theorem State.storePhys_quiet (s : State) (pa : Nat) (bs : List Byte) : Quiet s (s.storePhys pa bs) := by
  unfold State.storePhys
  split <;> exact ⟨rfl, rfl, rfl, rfl, rfl⟩

theorem State.ringWrite_quiet (s : State) (off n r : Nat) : Quiet s (s.ringWrite off n r) := by
  unfold State.ringWrite
  simp only
  split
  · exact (State.storePhys_quiet _ _ _).trans (State.setReg_quiet _ _ _ _)
  · exact State.setReg_quiet _ _ _ _

/-- A report writes memory and registers and raises a vector. -/
theorem State.report_quiet (s : State) (kind unit w2 w3 w4 w5 w6 w7 : Nat) : Quiet s (s.report kind unit w2 w3 w4 w5 w6 w7) := by
  unfold State.report
  exact (State.ringWrite_quiet _ _ _ _).trans (State.raiseShared_quiet _ _)

theorem State.fireEquinox_quiet (s : State) (n : Nat) : Quiet s (s.fireEquinox n) := by
  unfold State.fireEquinox
  simp only
  repeat' (first | exact ⟨rfl, rfl, rfl, rfl, rfl⟩ | split)

/-- A second firing in the cycle of a capture is recorded in EQCAUSE and captures nothing more (R439). -/
theorem State.fireEquinox_capturing (s : State) (n : Nat) (h : s.capturing = true) (hn : n = 0 ∨ 8 ≤ n ∨ (s.reg 0 0x8000).getLsbD n = true) :
    s.fireEquinox n = s.setReg 0 0x8018 (s.reg 0 0x8018 ||| dw (2 ^ n)) := by
  unfold State.fireEquinox
  have h0 : ¬ (1 ≤ n && decide (n ≤ 7) && !(s.reg 0 0x8000).getLsbD n && n != 5) = true := by
    rcases hn with rfl | hn | hn
    · simp
    · have : ¬ n ≤ 7 := by omega
      simp [this]
    · simp [hn]
  simp only [h0, h]
  rfl

/-- A sample changes registers, and what its reports write. -/
theorem State.vigilTake_quiet (s : State) (m v : Nat) : Quiet s (s.vigilTake m v) := by
  unfold State.vigilTake
  simp only
  split
  · exact Quiet.refl _
  · split
    · split
      · refine Quiet.trans ?_ (State.report_quiet _ _ _ _ _ _ _ _ _)
        refine Quiet.trans ?_ (State.fireEquinox_quiet _ _)
        iterate 5 refine Quiet.trans ?_ (State.setReg_quiet _ _ _ _)
        exact Quiet.refl _
      · iterate 5 refine Quiet.trans ?_ (State.setReg_quiet _ _ _ _)
        exact Quiet.refl _
    · iterate 4 refine Quiet.trans ?_ (State.setReg_quiet _ _ _ _)
      exact Quiet.refl _

/-- A window's end leaves the crews and the links, and no count. -/
theorem State.vigilWindow_keeps (s : State) :
    s.vigilWindow.crews = s.crews ∧ s.vigilWindow.links = s.links ∧ s.vigilWindow.tally = [] := by
  have h : ∀ (ms : List Nat) (t : State), Quiet s t → Quiet s (ms.foldl (fun s m =>
      let src := s.vigilSrc m
      if src = 6 ∨ src = 7 then
        s.vigilTake m (min (s.tallied (m / 4) src (field (s.reg 0 (vigilReg m 0)).toNat 16 8)) (2 ^ 32 - 1))
      else s) t) := by
    intro ms
    induction ms with
    | nil => exact fun _ ht => ht
    | cons m ms ih =>
      intro t ht
      refine ih _ (ht.trans ?_)
      simp only
      split
      · exact State.vigilTake_quiet _ _ _
      · exact Quiet.refl _
  have k := h (List.range 32) s (Quiet.refl _)
  exact ⟨k.1, k.2.2.2.1, rfl⟩

end Sys2Proof.Machine
end

