-- ==== Sys2Proof/Laws/PerInstr.lean ====
section
/-! SUPPORT. Decoding what the encoder wrote, one lemma per instruction (R149 to R151): the family RoundTrip of LAWS.json. -/
namespace Sys2Proof.Laws

/-! Fields of a word written as its parts. -/

theorem toNat_parts {n m : Nat} (x : BitVec n) (y : BitVec m) : (x ++ y).toNat = x.toNat * 2 ^ m + y.toNat := by
  rw [BitVec.toNat_append, Nat.shiftLeft_eq, Nat.mul_comm, ← Nat.two_pow_add_eq_or_of_lt y.isLt]

theorem bits_eq {n : Nat} (w : BitVec 32) (lo : Nat) (x : BitVec n) (h : w.toNat / 2 ^ lo % 2 ^ n = x.toNat) : bits w lo n = x := by
  apply BitVec.eq_of_toNat_eq
  rw [bits, BitVec.extractLsb'_toNat, Nat.shiftRight_eq_div_pow, h]

theorem ofBool_beq_one (b : Bool) : (BitVec.ofBool b == 1#1) = b := by cases b <;> rfl

theorem bits_tail {m n lo k : Nat} (x : BitVec m) (y : BitVec n) (h : lo + k ≤ n) :
    (x ++ y).extractLsb' lo k = y.extractLsb' lo k := BitVec.extractLsb'_append_eq_of_add_le h

theorem bits_head {m n : Nat} (x : BitVec m) (y : BitVec n) : (x ++ y).extractLsb' n m = x := by
  rw [BitVec.extractLsb'_append_eq_of_le (Nat.le_refl n), Nat.sub_self, BitVec.extractLsb'_eq_self]

/-- The fields of a word in the format VR, VI or SR. -/
theorem firstWord_mkWord (op : BitVec 8) (nw : Bool) (d : BitVec 7) (a b : BitVec 8) :
    FirstWord.of (mkWord op nw d a b) = { word := mkWord op nw d a b, op := op, nw := nw, d := d, a := a, b := b
                                          imm16 := a ++ b, off24 := BitVec.ofBool nw ++ (d ++ (a ++ b)) } := by
  have h : (mkWord op nw d a b).toNat =
      op.toNat * 2 ^ 24 + ((BitVec.ofBool nw).toNat * 2 ^ 23 + (d.toNat * 2 ^ 16 + (a.toNat * 2 ^ 8 + b.toNat))) := by
    simp only [mkWord, toNat_parts]
  have h1 : bits (mkWord op nw d a b) 24 8 = op := bits_eq _ _ _ (by rw [h]; omega)
  have h2 : bits (mkWord op nw d a b) 23 1 = BitVec.ofBool nw := bits_eq _ _ _ (by rw [h]; omega)
  have h3 : bits (mkWord op nw d a b) 16 7 = d := bits_eq _ _ _ (by rw [h]; omega)
  have h4 : bits (mkWord op nw d a b) 8 8 = a := bits_eq _ _ _ (by rw [h]; omega)
  have h5 : bits (mkWord op nw d a b) 0 8 = b := bits_eq _ _ _ (by rw [h]; omega)
  have h6 : bits (mkWord op nw d a b) 0 16 = a ++ b := bits_eq _ _ _ (by rw [h, toNat_parts]; omega)
  have h7 : bits (mkWord op nw d a b) 0 24 = BitVec.ofBool nw ++ (d ++ (a ++ b)) :=
    bits_eq _ _ _ (by rw [h]; simp only [toNat_parts]; omega)
  rw [FirstWord.of, h1, h2, h3, h4, h5, h6, h7, ofBool_beq_one]

/-- The fields of a word in the format SI or SC. -/
theorem firstWord_si (op : BitVec 8) (nw : Bool) (d : BitVec 7) (imm : BitVec 16) :
    let w : BitVec 32 := op ++ (BitVec.ofBool nw ++ (d ++ imm))
    FirstWord.of w = { word := w, op := op, nw := nw, d := d, a := bits w 8 8, b := bits w 0 8, imm16 := imm, off24 := bits w 0 24 } := by
  intro w
  have h : w.toNat = op.toNat * 2 ^ 24 + ((BitVec.ofBool nw).toNat * 2 ^ 23 + (d.toNat * 2 ^ 16 + imm.toNat)) := by
    simp only [w, toNat_parts]
  have h1 : bits w 24 8 = op := bits_eq _ _ _ (by rw [h]; omega)
  have h2 : bits w 23 1 = BitVec.ofBool nw := bits_eq _ _ _ (by rw [h]; omega)
  have h3 : bits w 16 7 = d := bits_eq _ _ _ (by rw [h]; omega)
  have h4 : bits w 0 16 = imm := bits_eq _ _ _ (by rw [h]; omega)
  rw [FirstWord.of, h1, h2, h3, h4, ofBool_beq_one]

/-- The fields of a word in the format SB. -/
theorem firstWord_sb (op : BitVec 8) (off : BitVec 24) :
    let w : BitVec 32 := op ++ off
    FirstWord.of w = { word := w, op := op, nw := bits w 23 1 == 1#1, d := bits w 16 7, a := bits w 8 8, b := bits w 0 8
                       imm16 := bits w 0 16, off24 := off } := by
  intro w
  have h : w.toNat = op.toNat * 2 ^ 24 + off.toNat := by simp only [w, toNat_parts]
  have h1 : bits w 24 8 = op := bits_eq _ _ _ (by rw [h]; omega)
  have h2 : bits w 0 24 = off := bits_eq _ _ _ (by rw [h]; omega)
  rw [FirstWord.of, h1, h2]

/-- An instruction of one word. -/
theorem decode_one {w : BitVec 32} {f : FirstWord} {i : Instr} (hf : FirstWord.of w = f) (h : decodeForm f = .one (.ok i)) :
    decode (some w) none = .ok (i, 1) := by rw [decode, hf, h]; rfl

/-- An instruction of two words. -/
theorem decode_two {w e : BitVec 32} {f : FirstWord} {i : Instr} {k : BitVec 32 → Except Reject Instr} (hf : FirstWord.of w = f)
    (h : decodeForm f = .two k) (hk : k e = .ok i) : decode (some w) (some e) = .ok (i, 2) := by
  rw [decode, hf, h]; simp only [hk]; rfl

/-- An opcode with both forms, in the form of one word. -/
theorem decode_short {w : BitVec 32} {f : FirstWord} {i : Instr} {x : Form} {r : Except Reject Instr} (hf : FirstWord.of w = f)
    (h : decodeForm f = if f.b == 0x8F#8 then x else .one r) (hb : (f.b == 0x8F#8) = false) (hr : r = .ok i) :
    decode (some w) none = .ok (i, 1) := by
  rw [hb] at h; exact decode_one hf (h.trans (congrArg Form.one hr))

/-- An opcode with both forms, in the form of two words. -/
theorem decode_long {w e : BitVec 32} {f : FirstWord} {i : Instr} {x : Form} {k : BitVec 32 → Except Reject Instr}
    (hf : FirstWord.of w = f) (h : decodeForm f = if f.b == 0x8F#8 then .two k else x) (hb : (f.b == 0x8F#8) = true)
    (hk : k e = .ok i) : decode (some w) (some e) = .ok (i, 2) := by
  rw [hb] at h; exact decode_two hf h hk

/-- A B that is no marker of a two-word form. -/
theorem beq_marker {b : BitVec 8} (h : notMarker b = true) : (b == 0x8F#8) = false := by simpa [notMarker] using h

set_option Elab.async false

/-! What each opcode says. -/

theorem parts_8_1_6_1_1_1_2_12 (x0 : BitVec 8) (x1 : BitVec 1) (x2 : BitVec 6) (x3 : BitVec 1) (x4 : BitVec 1) (x5 : BitVec 1) (x6 : BitVec 2) (x7 : BitVec 12) :
    bits (x0 ++ (x1 ++ (x2 ++ (x3 ++ (x4 ++ (x5 ++ (x6 ++ x7))))))) 24 8 = x0 ∧
      bits (x0 ++ (x1 ++ (x2 ++ (x3 ++ (x4 ++ (x5 ++ (x6 ++ x7))))))) 23 1 = x1 ∧
      bits (x0 ++ (x1 ++ (x2 ++ (x3 ++ (x4 ++ (x5 ++ (x6 ++ x7))))))) 17 6 = x2 ∧
      bits (x0 ++ (x1 ++ (x2 ++ (x3 ++ (x4 ++ (x5 ++ (x6 ++ x7))))))) 16 1 = x3 ∧
      bits (x0 ++ (x1 ++ (x2 ++ (x3 ++ (x4 ++ (x5 ++ (x6 ++ x7))))))) 15 1 = x4 ∧
      bits (x0 ++ (x1 ++ (x2 ++ (x3 ++ (x4 ++ (x5 ++ (x6 ++ x7))))))) 14 1 = x5 ∧
      bits (x0 ++ (x1 ++ (x2 ++ (x3 ++ (x4 ++ (x5 ++ (x6 ++ x7))))))) 12 2 = x6 ∧
      bits (x0 ++ (x1 ++ (x2 ++ (x3 ++ (x4 ++ (x5 ++ (x6 ++ x7))))))) 0 12 = x7 :=
  ⟨bits_head x0 _,
    (bits_tail x0 _ (by decide)).trans (bits_head x1 _),
    (bits_tail x0 _ (by decide)).trans ((bits_tail x1 _ (by decide)).trans (bits_head x2 _)),
    (bits_tail x0 _ (by decide)).trans ((bits_tail x1 _ (by decide)).trans ((bits_tail x2 _ (by decide)).trans (bits_head x3 _))),
    (bits_tail x0 _ (by decide)).trans ((bits_tail x1 _ (by decide)).trans ((bits_tail x2 _ (by decide)).trans ((bits_tail x3 _ (by decide)).trans (bits_head x4 _)))),
    (bits_tail x0 _ (by decide)).trans ((bits_tail x1 _ (by decide)).trans ((bits_tail x2 _ (by decide)).trans ((bits_tail x3 _ (by decide)).trans ((bits_tail x4 _ (by decide)).trans (bits_head x5 _))))),
    (bits_tail x0 _ (by decide)).trans ((bits_tail x1 _ (by decide)).trans ((bits_tail x2 _ (by decide)).trans ((bits_tail x3 _ (by decide)).trans ((bits_tail x4 _ (by decide)).trans ((bits_tail x5 _ (by decide)).trans (bits_head x6 _)))))),
    (bits_tail x0 _ (by decide)).trans ((bits_tail x1 _ (by decide)).trans ((bits_tail x2 _ (by decide)).trans ((bits_tail x3 _ (by decide)).trans ((bits_tail x4 _ (by decide)).trans ((bits_tail x5 _ (by decide)).trans ((bits_tail x6 _ (by decide)).trans (BitVec.extractLsb'_eq_self)))))))⟩

theorem parts_8_4_4_2_2_1_11 (x0 : BitVec 8) (x1 : BitVec 4) (x2 : BitVec 4) (x3 : BitVec 2) (x4 : BitVec 2) (x5 : BitVec 1) (x6 : BitVec 11) :
    bits (x0 ++ (x1 ++ (x2 ++ (x3 ++ (x4 ++ (x5 ++ x6)))))) 24 8 = x0 ∧
      bits (x0 ++ (x1 ++ (x2 ++ (x3 ++ (x4 ++ (x5 ++ x6)))))) 20 4 = x1 ∧
      bits (x0 ++ (x1 ++ (x2 ++ (x3 ++ (x4 ++ (x5 ++ x6)))))) 16 4 = x2 ∧
      bits (x0 ++ (x1 ++ (x2 ++ (x3 ++ (x4 ++ (x5 ++ x6)))))) 14 2 = x3 ∧
      bits (x0 ++ (x1 ++ (x2 ++ (x3 ++ (x4 ++ (x5 ++ x6)))))) 12 2 = x4 ∧
      bits (x0 ++ (x1 ++ (x2 ++ (x3 ++ (x4 ++ (x5 ++ x6)))))) 11 1 = x5 ∧
      bits (x0 ++ (x1 ++ (x2 ++ (x3 ++ (x4 ++ (x5 ++ x6)))))) 0 11 = x6 :=
  ⟨bits_head x0 _,
    (bits_tail x0 _ (by decide)).trans (bits_head x1 _),
    (bits_tail x0 _ (by decide)).trans ((bits_tail x1 _ (by decide)).trans (bits_head x2 _)),
    (bits_tail x0 _ (by decide)).trans ((bits_tail x1 _ (by decide)).trans ((bits_tail x2 _ (by decide)).trans (bits_head x3 _))),
    (bits_tail x0 _ (by decide)).trans ((bits_tail x1 _ (by decide)).trans ((bits_tail x2 _ (by decide)).trans ((bits_tail x3 _ (by decide)).trans (bits_head x4 _)))),
    (bits_tail x0 _ (by decide)).trans ((bits_tail x1 _ (by decide)).trans ((bits_tail x2 _ (by decide)).trans ((bits_tail x3 _ (by decide)).trans ((bits_tail x4 _ (by decide)).trans (bits_head x5 _))))),
    (bits_tail x0 _ (by decide)).trans ((bits_tail x1 _ (by decide)).trans ((bits_tail x2 _ (by decide)).trans ((bits_tail x3 _ (by decide)).trans ((bits_tail x4 _ (by decide)).trans ((bits_tail x5 _ (by decide)).trans (BitVec.extractLsb'_eq_self))))))⟩

theorem parts_8_4_4_3_2_1_4_6 (x0 : BitVec 8) (x1 : BitVec 4) (x2 : BitVec 4) (x3 : BitVec 3) (x4 : BitVec 2) (x5 : BitVec 1) (x6 : BitVec 4) (x7 : BitVec 6) :
    bits (x0 ++ (x1 ++ (x2 ++ (x3 ++ (x4 ++ (x5 ++ (x6 ++ x7))))))) 24 8 = x0 ∧
      bits (x0 ++ (x1 ++ (x2 ++ (x3 ++ (x4 ++ (x5 ++ (x6 ++ x7))))))) 20 4 = x1 ∧
      bits (x0 ++ (x1 ++ (x2 ++ (x3 ++ (x4 ++ (x5 ++ (x6 ++ x7))))))) 16 4 = x2 ∧
      bits (x0 ++ (x1 ++ (x2 ++ (x3 ++ (x4 ++ (x5 ++ (x6 ++ x7))))))) 13 3 = x3 ∧
      bits (x0 ++ (x1 ++ (x2 ++ (x3 ++ (x4 ++ (x5 ++ (x6 ++ x7))))))) 11 2 = x4 ∧
      bits (x0 ++ (x1 ++ (x2 ++ (x3 ++ (x4 ++ (x5 ++ (x6 ++ x7))))))) 10 1 = x5 ∧
      bits (x0 ++ (x1 ++ (x2 ++ (x3 ++ (x4 ++ (x5 ++ (x6 ++ x7))))))) 6 4 = x6 ∧
      bits (x0 ++ (x1 ++ (x2 ++ (x3 ++ (x4 ++ (x5 ++ (x6 ++ x7))))))) 0 6 = x7 :=
  ⟨bits_head x0 _,
    (bits_tail x0 _ (by decide)).trans (bits_head x1 _),
    (bits_tail x0 _ (by decide)).trans ((bits_tail x1 _ (by decide)).trans (bits_head x2 _)),
    (bits_tail x0 _ (by decide)).trans ((bits_tail x1 _ (by decide)).trans ((bits_tail x2 _ (by decide)).trans (bits_head x3 _))),
    (bits_tail x0 _ (by decide)).trans ((bits_tail x1 _ (by decide)).trans ((bits_tail x2 _ (by decide)).trans ((bits_tail x3 _ (by decide)).trans (bits_head x4 _)))),
    (bits_tail x0 _ (by decide)).trans ((bits_tail x1 _ (by decide)).trans ((bits_tail x2 _ (by decide)).trans ((bits_tail x3 _ (by decide)).trans ((bits_tail x4 _ (by decide)).trans (bits_head x5 _))))),
    (bits_tail x0 _ (by decide)).trans ((bits_tail x1 _ (by decide)).trans ((bits_tail x2 _ (by decide)).trans ((bits_tail x3 _ (by decide)).trans ((bits_tail x4 _ (by decide)).trans ((bits_tail x5 _ (by decide)).trans (bits_head x6 _)))))),
    (bits_tail x0 _ (by decide)).trans ((bits_tail x1 _ (by decide)).trans ((bits_tail x2 _ (by decide)).trans ((bits_tail x3 _ (by decide)).trans ((bits_tail x4 _ (by decide)).trans ((bits_tail x5 _ (by decide)).trans ((bits_tail x6 _ (by decide)).trans (BitVec.extractLsb'_eq_self)))))))⟩

theorem parts_8_4_4_3_2_2_2_2_5 (x0 : BitVec 8) (x1 : BitVec 4) (x2 : BitVec 4) (x3 : BitVec 3) (x4 : BitVec 2) (x5 : BitVec 2) (x6 : BitVec 2) (x7 : BitVec 2) (x8 : BitVec 5) :
    bits (x0 ++ (x1 ++ (x2 ++ (x3 ++ (x4 ++ (x5 ++ (x6 ++ (x7 ++ x8)))))))) 24 8 = x0 ∧
      bits (x0 ++ (x1 ++ (x2 ++ (x3 ++ (x4 ++ (x5 ++ (x6 ++ (x7 ++ x8)))))))) 20 4 = x1 ∧
      bits (x0 ++ (x1 ++ (x2 ++ (x3 ++ (x4 ++ (x5 ++ (x6 ++ (x7 ++ x8)))))))) 16 4 = x2 ∧
      bits (x0 ++ (x1 ++ (x2 ++ (x3 ++ (x4 ++ (x5 ++ (x6 ++ (x7 ++ x8)))))))) 13 3 = x3 ∧
      bits (x0 ++ (x1 ++ (x2 ++ (x3 ++ (x4 ++ (x5 ++ (x6 ++ (x7 ++ x8)))))))) 11 2 = x4 ∧
      bits (x0 ++ (x1 ++ (x2 ++ (x3 ++ (x4 ++ (x5 ++ (x6 ++ (x7 ++ x8)))))))) 9 2 = x5 ∧
      bits (x0 ++ (x1 ++ (x2 ++ (x3 ++ (x4 ++ (x5 ++ (x6 ++ (x7 ++ x8)))))))) 7 2 = x6 ∧
      bits (x0 ++ (x1 ++ (x2 ++ (x3 ++ (x4 ++ (x5 ++ (x6 ++ (x7 ++ x8)))))))) 5 2 = x7 ∧
      bits (x0 ++ (x1 ++ (x2 ++ (x3 ++ (x4 ++ (x5 ++ (x6 ++ (x7 ++ x8)))))))) 0 5 = x8 :=
  ⟨bits_head x0 _,
    (bits_tail x0 _ (by decide)).trans (bits_head x1 _),
    (bits_tail x0 _ (by decide)).trans ((bits_tail x1 _ (by decide)).trans (bits_head x2 _)),
    (bits_tail x0 _ (by decide)).trans ((bits_tail x1 _ (by decide)).trans ((bits_tail x2 _ (by decide)).trans (bits_head x3 _))),
    (bits_tail x0 _ (by decide)).trans ((bits_tail x1 _ (by decide)).trans ((bits_tail x2 _ (by decide)).trans ((bits_tail x3 _ (by decide)).trans (bits_head x4 _)))),
    (bits_tail x0 _ (by decide)).trans ((bits_tail x1 _ (by decide)).trans ((bits_tail x2 _ (by decide)).trans ((bits_tail x3 _ (by decide)).trans ((bits_tail x4 _ (by decide)).trans (bits_head x5 _))))),
    (bits_tail x0 _ (by decide)).trans ((bits_tail x1 _ (by decide)).trans ((bits_tail x2 _ (by decide)).trans ((bits_tail x3 _ (by decide)).trans ((bits_tail x4 _ (by decide)).trans ((bits_tail x5 _ (by decide)).trans (bits_head x6 _)))))),
    (bits_tail x0 _ (by decide)).trans ((bits_tail x1 _ (by decide)).trans ((bits_tail x2 _ (by decide)).trans ((bits_tail x3 _ (by decide)).trans ((bits_tail x4 _ (by decide)).trans ((bits_tail x5 _ (by decide)).trans ((bits_tail x6 _ (by decide)).trans (bits_head x7 _))))))),
    (bits_tail x0 _ (by decide)).trans ((bits_tail x1 _ (by decide)).trans ((bits_tail x2 _ (by decide)).trans ((bits_tail x3 _ (by decide)).trans ((bits_tail x4 _ (by decide)).trans ((bits_tail x5 _ (by decide)).trans ((bits_tail x6 _ (by decide)).trans ((bits_tail x7 _ (by decide)).trans (BitVec.extractLsb'_eq_self))))))))⟩

theorem parts_8_4_4_3_2_3_1_2_2_3 (x0 : BitVec 8) (x1 : BitVec 4) (x2 : BitVec 4) (x3 : BitVec 3) (x4 : BitVec 2) (x5 : BitVec 3) (x6 : BitVec 1) (x7 : BitVec 2) (x8 : BitVec 2) (x9 : BitVec 3) :
    bits (x0 ++ (x1 ++ (x2 ++ (x3 ++ (x4 ++ (x5 ++ (x6 ++ (x7 ++ (x8 ++ x9))))))))) 24 8 = x0 ∧
      bits (x0 ++ (x1 ++ (x2 ++ (x3 ++ (x4 ++ (x5 ++ (x6 ++ (x7 ++ (x8 ++ x9))))))))) 20 4 = x1 ∧
      bits (x0 ++ (x1 ++ (x2 ++ (x3 ++ (x4 ++ (x5 ++ (x6 ++ (x7 ++ (x8 ++ x9))))))))) 16 4 = x2 ∧
      bits (x0 ++ (x1 ++ (x2 ++ (x3 ++ (x4 ++ (x5 ++ (x6 ++ (x7 ++ (x8 ++ x9))))))))) 13 3 = x3 ∧
      bits (x0 ++ (x1 ++ (x2 ++ (x3 ++ (x4 ++ (x5 ++ (x6 ++ (x7 ++ (x8 ++ x9))))))))) 11 2 = x4 ∧
      bits (x0 ++ (x1 ++ (x2 ++ (x3 ++ (x4 ++ (x5 ++ (x6 ++ (x7 ++ (x8 ++ x9))))))))) 8 3 = x5 ∧
      bits (x0 ++ (x1 ++ (x2 ++ (x3 ++ (x4 ++ (x5 ++ (x6 ++ (x7 ++ (x8 ++ x9))))))))) 7 1 = x6 ∧
      bits (x0 ++ (x1 ++ (x2 ++ (x3 ++ (x4 ++ (x5 ++ (x6 ++ (x7 ++ (x8 ++ x9))))))))) 5 2 = x7 ∧
      bits (x0 ++ (x1 ++ (x2 ++ (x3 ++ (x4 ++ (x5 ++ (x6 ++ (x7 ++ (x8 ++ x9))))))))) 3 2 = x8 ∧
      bits (x0 ++ (x1 ++ (x2 ++ (x3 ++ (x4 ++ (x5 ++ (x6 ++ (x7 ++ (x8 ++ x9))))))))) 0 3 = x9 :=
  ⟨bits_head x0 _,
    (bits_tail x0 _ (by decide)).trans (bits_head x1 _),
    (bits_tail x0 _ (by decide)).trans ((bits_tail x1 _ (by decide)).trans (bits_head x2 _)),
    (bits_tail x0 _ (by decide)).trans ((bits_tail x1 _ (by decide)).trans ((bits_tail x2 _ (by decide)).trans (bits_head x3 _))),
    (bits_tail x0 _ (by decide)).trans ((bits_tail x1 _ (by decide)).trans ((bits_tail x2 _ (by decide)).trans ((bits_tail x3 _ (by decide)).trans (bits_head x4 _)))),
    (bits_tail x0 _ (by decide)).trans ((bits_tail x1 _ (by decide)).trans ((bits_tail x2 _ (by decide)).trans ((bits_tail x3 _ (by decide)).trans ((bits_tail x4 _ (by decide)).trans (bits_head x5 _))))),
    (bits_tail x0 _ (by decide)).trans ((bits_tail x1 _ (by decide)).trans ((bits_tail x2 _ (by decide)).trans ((bits_tail x3 _ (by decide)).trans ((bits_tail x4 _ (by decide)).trans ((bits_tail x5 _ (by decide)).trans (bits_head x6 _)))))),
    (bits_tail x0 _ (by decide)).trans ((bits_tail x1 _ (by decide)).trans ((bits_tail x2 _ (by decide)).trans ((bits_tail x3 _ (by decide)).trans ((bits_tail x4 _ (by decide)).trans ((bits_tail x5 _ (by decide)).trans ((bits_tail x6 _ (by decide)).trans (bits_head x7 _))))))),
    (bits_tail x0 _ (by decide)).trans ((bits_tail x1 _ (by decide)).trans ((bits_tail x2 _ (by decide)).trans ((bits_tail x3 _ (by decide)).trans ((bits_tail x4 _ (by decide)).trans ((bits_tail x5 _ (by decide)).trans ((bits_tail x6 _ (by decide)).trans ((bits_tail x7 _ (by decide)).trans (bits_head x8 _)))))))),
    (bits_tail x0 _ (by decide)).trans ((bits_tail x1 _ (by decide)).trans ((bits_tail x2 _ (by decide)).trans ((bits_tail x3 _ (by decide)).trans ((bits_tail x4 _ (by decide)).trans ((bits_tail x5 _ (by decide)).trans ((bits_tail x6 _ (by decide)).trans ((bits_tail x7 _ (by decide)).trans ((bits_tail x8 _ (by decide)).trans (BitVec.extractLsb'_eq_self)))))))))⟩

theorem parts_8_4_4_3_2_3_1_2_5 (x0 : BitVec 8) (x1 : BitVec 4) (x2 : BitVec 4) (x3 : BitVec 3) (x4 : BitVec 2) (x5 : BitVec 3) (x6 : BitVec 1) (x7 : BitVec 2) (x8 : BitVec 5) :
    bits (x0 ++ (x1 ++ (x2 ++ (x3 ++ (x4 ++ (x5 ++ (x6 ++ (x7 ++ x8)))))))) 24 8 = x0 ∧
      bits (x0 ++ (x1 ++ (x2 ++ (x3 ++ (x4 ++ (x5 ++ (x6 ++ (x7 ++ x8)))))))) 20 4 = x1 ∧
      bits (x0 ++ (x1 ++ (x2 ++ (x3 ++ (x4 ++ (x5 ++ (x6 ++ (x7 ++ x8)))))))) 16 4 = x2 ∧
      bits (x0 ++ (x1 ++ (x2 ++ (x3 ++ (x4 ++ (x5 ++ (x6 ++ (x7 ++ x8)))))))) 13 3 = x3 ∧
      bits (x0 ++ (x1 ++ (x2 ++ (x3 ++ (x4 ++ (x5 ++ (x6 ++ (x7 ++ x8)))))))) 11 2 = x4 ∧
      bits (x0 ++ (x1 ++ (x2 ++ (x3 ++ (x4 ++ (x5 ++ (x6 ++ (x7 ++ x8)))))))) 8 3 = x5 ∧
      bits (x0 ++ (x1 ++ (x2 ++ (x3 ++ (x4 ++ (x5 ++ (x6 ++ (x7 ++ x8)))))))) 7 1 = x6 ∧
      bits (x0 ++ (x1 ++ (x2 ++ (x3 ++ (x4 ++ (x5 ++ (x6 ++ (x7 ++ x8)))))))) 5 2 = x7 ∧
      bits (x0 ++ (x1 ++ (x2 ++ (x3 ++ (x4 ++ (x5 ++ (x6 ++ (x7 ++ x8)))))))) 0 5 = x8 :=
  ⟨bits_head x0 _,
    (bits_tail x0 _ (by decide)).trans (bits_head x1 _),
    (bits_tail x0 _ (by decide)).trans ((bits_tail x1 _ (by decide)).trans (bits_head x2 _)),
    (bits_tail x0 _ (by decide)).trans ((bits_tail x1 _ (by decide)).trans ((bits_tail x2 _ (by decide)).trans (bits_head x3 _))),
    (bits_tail x0 _ (by decide)).trans ((bits_tail x1 _ (by decide)).trans ((bits_tail x2 _ (by decide)).trans ((bits_tail x3 _ (by decide)).trans (bits_head x4 _)))),
    (bits_tail x0 _ (by decide)).trans ((bits_tail x1 _ (by decide)).trans ((bits_tail x2 _ (by decide)).trans ((bits_tail x3 _ (by decide)).trans ((bits_tail x4 _ (by decide)).trans (bits_head x5 _))))),
    (bits_tail x0 _ (by decide)).trans ((bits_tail x1 _ (by decide)).trans ((bits_tail x2 _ (by decide)).trans ((bits_tail x3 _ (by decide)).trans ((bits_tail x4 _ (by decide)).trans ((bits_tail x5 _ (by decide)).trans (bits_head x6 _)))))),
    (bits_tail x0 _ (by decide)).trans ((bits_tail x1 _ (by decide)).trans ((bits_tail x2 _ (by decide)).trans ((bits_tail x3 _ (by decide)).trans ((bits_tail x4 _ (by decide)).trans ((bits_tail x5 _ (by decide)).trans ((bits_tail x6 _ (by decide)).trans (bits_head x7 _))))))),
    (bits_tail x0 _ (by decide)).trans ((bits_tail x1 _ (by decide)).trans ((bits_tail x2 _ (by decide)).trans ((bits_tail x3 _ (by decide)).trans ((bits_tail x4 _ (by decide)).trans ((bits_tail x5 _ (by decide)).trans ((bits_tail x6 _ (by decide)).trans ((bits_tail x7 _ (by decide)).trans (BitVec.extractLsb'_eq_self))))))))⟩

theorem parts_8_4_4_3_2_3_1_7 (x0 : BitVec 8) (x1 : BitVec 4) (x2 : BitVec 4) (x3 : BitVec 3) (x4 : BitVec 2) (x5 : BitVec 3) (x6 : BitVec 1) (x7 : BitVec 7) :
    bits (x0 ++ (x1 ++ (x2 ++ (x3 ++ (x4 ++ (x5 ++ (x6 ++ x7))))))) 24 8 = x0 ∧
      bits (x0 ++ (x1 ++ (x2 ++ (x3 ++ (x4 ++ (x5 ++ (x6 ++ x7))))))) 20 4 = x1 ∧
      bits (x0 ++ (x1 ++ (x2 ++ (x3 ++ (x4 ++ (x5 ++ (x6 ++ x7))))))) 16 4 = x2 ∧
      bits (x0 ++ (x1 ++ (x2 ++ (x3 ++ (x4 ++ (x5 ++ (x6 ++ x7))))))) 13 3 = x3 ∧
      bits (x0 ++ (x1 ++ (x2 ++ (x3 ++ (x4 ++ (x5 ++ (x6 ++ x7))))))) 11 2 = x4 ∧
      bits (x0 ++ (x1 ++ (x2 ++ (x3 ++ (x4 ++ (x5 ++ (x6 ++ x7))))))) 8 3 = x5 ∧
      bits (x0 ++ (x1 ++ (x2 ++ (x3 ++ (x4 ++ (x5 ++ (x6 ++ x7))))))) 7 1 = x6 ∧
      bits (x0 ++ (x1 ++ (x2 ++ (x3 ++ (x4 ++ (x5 ++ (x6 ++ x7))))))) 0 7 = x7 :=
  ⟨bits_head x0 _,
    (bits_tail x0 _ (by decide)).trans (bits_head x1 _),
    (bits_tail x0 _ (by decide)).trans ((bits_tail x1 _ (by decide)).trans (bits_head x2 _)),
    (bits_tail x0 _ (by decide)).trans ((bits_tail x1 _ (by decide)).trans ((bits_tail x2 _ (by decide)).trans (bits_head x3 _))),
    (bits_tail x0 _ (by decide)).trans ((bits_tail x1 _ (by decide)).trans ((bits_tail x2 _ (by decide)).trans ((bits_tail x3 _ (by decide)).trans (bits_head x4 _)))),
    (bits_tail x0 _ (by decide)).trans ((bits_tail x1 _ (by decide)).trans ((bits_tail x2 _ (by decide)).trans ((bits_tail x3 _ (by decide)).trans ((bits_tail x4 _ (by decide)).trans (bits_head x5 _))))),
    (bits_tail x0 _ (by decide)).trans ((bits_tail x1 _ (by decide)).trans ((bits_tail x2 _ (by decide)).trans ((bits_tail x3 _ (by decide)).trans ((bits_tail x4 _ (by decide)).trans ((bits_tail x5 _ (by decide)).trans (bits_head x6 _)))))),
    (bits_tail x0 _ (by decide)).trans ((bits_tail x1 _ (by decide)).trans ((bits_tail x2 _ (by decide)).trans ((bits_tail x3 _ (by decide)).trans ((bits_tail x4 _ (by decide)).trans ((bits_tail x5 _ (by decide)).trans ((bits_tail x6 _ (by decide)).trans (BitVec.extractLsb'_eq_self)))))))⟩

theorem parts_8_4_4_3_2_3_2_3_3 (x0 : BitVec 8) (x1 : BitVec 4) (x2 : BitVec 4) (x3 : BitVec 3) (x4 : BitVec 2) (x5 : BitVec 3) (x6 : BitVec 2) (x7 : BitVec 3) (x8 : BitVec 3) :
    bits (x0 ++ (x1 ++ (x2 ++ (x3 ++ (x4 ++ (x5 ++ (x6 ++ (x7 ++ x8)))))))) 24 8 = x0 ∧
      bits (x0 ++ (x1 ++ (x2 ++ (x3 ++ (x4 ++ (x5 ++ (x6 ++ (x7 ++ x8)))))))) 20 4 = x1 ∧
      bits (x0 ++ (x1 ++ (x2 ++ (x3 ++ (x4 ++ (x5 ++ (x6 ++ (x7 ++ x8)))))))) 16 4 = x2 ∧
      bits (x0 ++ (x1 ++ (x2 ++ (x3 ++ (x4 ++ (x5 ++ (x6 ++ (x7 ++ x8)))))))) 13 3 = x3 ∧
      bits (x0 ++ (x1 ++ (x2 ++ (x3 ++ (x4 ++ (x5 ++ (x6 ++ (x7 ++ x8)))))))) 11 2 = x4 ∧
      bits (x0 ++ (x1 ++ (x2 ++ (x3 ++ (x4 ++ (x5 ++ (x6 ++ (x7 ++ x8)))))))) 8 3 = x5 ∧
      bits (x0 ++ (x1 ++ (x2 ++ (x3 ++ (x4 ++ (x5 ++ (x6 ++ (x7 ++ x8)))))))) 6 2 = x6 ∧
      bits (x0 ++ (x1 ++ (x2 ++ (x3 ++ (x4 ++ (x5 ++ (x6 ++ (x7 ++ x8)))))))) 3 3 = x7 ∧
      bits (x0 ++ (x1 ++ (x2 ++ (x3 ++ (x4 ++ (x5 ++ (x6 ++ (x7 ++ x8)))))))) 0 3 = x8 :=
  ⟨bits_head x0 _,
    (bits_tail x0 _ (by decide)).trans (bits_head x1 _),
    (bits_tail x0 _ (by decide)).trans ((bits_tail x1 _ (by decide)).trans (bits_head x2 _)),
    (bits_tail x0 _ (by decide)).trans ((bits_tail x1 _ (by decide)).trans ((bits_tail x2 _ (by decide)).trans (bits_head x3 _))),
    (bits_tail x0 _ (by decide)).trans ((bits_tail x1 _ (by decide)).trans ((bits_tail x2 _ (by decide)).trans ((bits_tail x3 _ (by decide)).trans (bits_head x4 _)))),
    (bits_tail x0 _ (by decide)).trans ((bits_tail x1 _ (by decide)).trans ((bits_tail x2 _ (by decide)).trans ((bits_tail x3 _ (by decide)).trans ((bits_tail x4 _ (by decide)).trans (bits_head x5 _))))),
    (bits_tail x0 _ (by decide)).trans ((bits_tail x1 _ (by decide)).trans ((bits_tail x2 _ (by decide)).trans ((bits_tail x3 _ (by decide)).trans ((bits_tail x4 _ (by decide)).trans ((bits_tail x5 _ (by decide)).trans (bits_head x6 _)))))),
    (bits_tail x0 _ (by decide)).trans ((bits_tail x1 _ (by decide)).trans ((bits_tail x2 _ (by decide)).trans ((bits_tail x3 _ (by decide)).trans ((bits_tail x4 _ (by decide)).trans ((bits_tail x5 _ (by decide)).trans ((bits_tail x6 _ (by decide)).trans (bits_head x7 _))))))),
    (bits_tail x0 _ (by decide)).trans ((bits_tail x1 _ (by decide)).trans ((bits_tail x2 _ (by decide)).trans ((bits_tail x3 _ (by decide)).trans ((bits_tail x4 _ (by decide)).trans ((bits_tail x5 _ (by decide)).trans ((bits_tail x6 _ (by decide)).trans ((bits_tail x7 _ (by decide)).trans (BitVec.extractLsb'_eq_self))))))))⟩

theorem parts_8_4_4_3_2_3_4_4 (x0 : BitVec 8) (x1 : BitVec 4) (x2 : BitVec 4) (x3 : BitVec 3) (x4 : BitVec 2) (x5 : BitVec 3) (x6 : BitVec 4) (x7 : BitVec 4) :
    bits (x0 ++ (x1 ++ (x2 ++ (x3 ++ (x4 ++ (x5 ++ (x6 ++ x7))))))) 24 8 = x0 ∧
      bits (x0 ++ (x1 ++ (x2 ++ (x3 ++ (x4 ++ (x5 ++ (x6 ++ x7))))))) 20 4 = x1 ∧
      bits (x0 ++ (x1 ++ (x2 ++ (x3 ++ (x4 ++ (x5 ++ (x6 ++ x7))))))) 16 4 = x2 ∧
      bits (x0 ++ (x1 ++ (x2 ++ (x3 ++ (x4 ++ (x5 ++ (x6 ++ x7))))))) 13 3 = x3 ∧
      bits (x0 ++ (x1 ++ (x2 ++ (x3 ++ (x4 ++ (x5 ++ (x6 ++ x7))))))) 11 2 = x4 ∧
      bits (x0 ++ (x1 ++ (x2 ++ (x3 ++ (x4 ++ (x5 ++ (x6 ++ x7))))))) 8 3 = x5 ∧
      bits (x0 ++ (x1 ++ (x2 ++ (x3 ++ (x4 ++ (x5 ++ (x6 ++ x7))))))) 4 4 = x6 ∧
      bits (x0 ++ (x1 ++ (x2 ++ (x3 ++ (x4 ++ (x5 ++ (x6 ++ x7))))))) 0 4 = x7 :=
  ⟨bits_head x0 _,
    (bits_tail x0 _ (by decide)).trans (bits_head x1 _),
    (bits_tail x0 _ (by decide)).trans ((bits_tail x1 _ (by decide)).trans (bits_head x2 _)),
    (bits_tail x0 _ (by decide)).trans ((bits_tail x1 _ (by decide)).trans ((bits_tail x2 _ (by decide)).trans (bits_head x3 _))),
    (bits_tail x0 _ (by decide)).trans ((bits_tail x1 _ (by decide)).trans ((bits_tail x2 _ (by decide)).trans ((bits_tail x3 _ (by decide)).trans (bits_head x4 _)))),
    (bits_tail x0 _ (by decide)).trans ((bits_tail x1 _ (by decide)).trans ((bits_tail x2 _ (by decide)).trans ((bits_tail x3 _ (by decide)).trans ((bits_tail x4 _ (by decide)).trans (bits_head x5 _))))),
    (bits_tail x0 _ (by decide)).trans ((bits_tail x1 _ (by decide)).trans ((bits_tail x2 _ (by decide)).trans ((bits_tail x3 _ (by decide)).trans ((bits_tail x4 _ (by decide)).trans ((bits_tail x5 _ (by decide)).trans (bits_head x6 _)))))),
    (bits_tail x0 _ (by decide)).trans ((bits_tail x1 _ (by decide)).trans ((bits_tail x2 _ (by decide)).trans ((bits_tail x3 _ (by decide)).trans ((bits_tail x4 _ (by decide)).trans ((bits_tail x5 _ (by decide)).trans ((bits_tail x6 _ (by decide)).trans (BitVec.extractLsb'_eq_self)))))))⟩

theorem parts_8_4_4_3_2_3_8 (x0 : BitVec 8) (x1 : BitVec 4) (x2 : BitVec 4) (x3 : BitVec 3) (x4 : BitVec 2) (x5 : BitVec 3) (x6 : BitVec 8) :
    bits (x0 ++ (x1 ++ (x2 ++ (x3 ++ (x4 ++ (x5 ++ x6)))))) 24 8 = x0 ∧
      bits (x0 ++ (x1 ++ (x2 ++ (x3 ++ (x4 ++ (x5 ++ x6)))))) 20 4 = x1 ∧
      bits (x0 ++ (x1 ++ (x2 ++ (x3 ++ (x4 ++ (x5 ++ x6)))))) 16 4 = x2 ∧
      bits (x0 ++ (x1 ++ (x2 ++ (x3 ++ (x4 ++ (x5 ++ x6)))))) 13 3 = x3 ∧
      bits (x0 ++ (x1 ++ (x2 ++ (x3 ++ (x4 ++ (x5 ++ x6)))))) 11 2 = x4 ∧
      bits (x0 ++ (x1 ++ (x2 ++ (x3 ++ (x4 ++ (x5 ++ x6)))))) 8 3 = x5 ∧
      bits (x0 ++ (x1 ++ (x2 ++ (x3 ++ (x4 ++ (x5 ++ x6)))))) 0 8 = x6 :=
  ⟨bits_head x0 _,
    (bits_tail x0 _ (by decide)).trans (bits_head x1 _),
    (bits_tail x0 _ (by decide)).trans ((bits_tail x1 _ (by decide)).trans (bits_head x2 _)),
    (bits_tail x0 _ (by decide)).trans ((bits_tail x1 _ (by decide)).trans ((bits_tail x2 _ (by decide)).trans (bits_head x3 _))),
    (bits_tail x0 _ (by decide)).trans ((bits_tail x1 _ (by decide)).trans ((bits_tail x2 _ (by decide)).trans ((bits_tail x3 _ (by decide)).trans (bits_head x4 _)))),
    (bits_tail x0 _ (by decide)).trans ((bits_tail x1 _ (by decide)).trans ((bits_tail x2 _ (by decide)).trans ((bits_tail x3 _ (by decide)).trans ((bits_tail x4 _ (by decide)).trans (bits_head x5 _))))),
    (bits_tail x0 _ (by decide)).trans ((bits_tail x1 _ (by decide)).trans ((bits_tail x2 _ (by decide)).trans ((bits_tail x3 _ (by decide)).trans ((bits_tail x4 _ (by decide)).trans ((bits_tail x5 _ (by decide)).trans (BitVec.extractLsb'_eq_self))))))⟩

theorem parts_8_4_4_3_2_4_2_5 (x0 : BitVec 8) (x1 : BitVec 4) (x2 : BitVec 4) (x3 : BitVec 3) (x4 : BitVec 2) (x5 : BitVec 4) (x6 : BitVec 2) (x7 : BitVec 5) :
    bits (x0 ++ (x1 ++ (x2 ++ (x3 ++ (x4 ++ (x5 ++ (x6 ++ x7))))))) 24 8 = x0 ∧
      bits (x0 ++ (x1 ++ (x2 ++ (x3 ++ (x4 ++ (x5 ++ (x6 ++ x7))))))) 20 4 = x1 ∧
      bits (x0 ++ (x1 ++ (x2 ++ (x3 ++ (x4 ++ (x5 ++ (x6 ++ x7))))))) 16 4 = x2 ∧
      bits (x0 ++ (x1 ++ (x2 ++ (x3 ++ (x4 ++ (x5 ++ (x6 ++ x7))))))) 13 3 = x3 ∧
      bits (x0 ++ (x1 ++ (x2 ++ (x3 ++ (x4 ++ (x5 ++ (x6 ++ x7))))))) 11 2 = x4 ∧
      bits (x0 ++ (x1 ++ (x2 ++ (x3 ++ (x4 ++ (x5 ++ (x6 ++ x7))))))) 7 4 = x5 ∧
      bits (x0 ++ (x1 ++ (x2 ++ (x3 ++ (x4 ++ (x5 ++ (x6 ++ x7))))))) 5 2 = x6 ∧
      bits (x0 ++ (x1 ++ (x2 ++ (x3 ++ (x4 ++ (x5 ++ (x6 ++ x7))))))) 0 5 = x7 :=
  ⟨bits_head x0 _,
    (bits_tail x0 _ (by decide)).trans (bits_head x1 _),
    (bits_tail x0 _ (by decide)).trans ((bits_tail x1 _ (by decide)).trans (bits_head x2 _)),
    (bits_tail x0 _ (by decide)).trans ((bits_tail x1 _ (by decide)).trans ((bits_tail x2 _ (by decide)).trans (bits_head x3 _))),
    (bits_tail x0 _ (by decide)).trans ((bits_tail x1 _ (by decide)).trans ((bits_tail x2 _ (by decide)).trans ((bits_tail x3 _ (by decide)).trans (bits_head x4 _)))),
    (bits_tail x0 _ (by decide)).trans ((bits_tail x1 _ (by decide)).trans ((bits_tail x2 _ (by decide)).trans ((bits_tail x3 _ (by decide)).trans ((bits_tail x4 _ (by decide)).trans (bits_head x5 _))))),
    (bits_tail x0 _ (by decide)).trans ((bits_tail x1 _ (by decide)).trans ((bits_tail x2 _ (by decide)).trans ((bits_tail x3 _ (by decide)).trans ((bits_tail x4 _ (by decide)).trans ((bits_tail x5 _ (by decide)).trans (bits_head x6 _)))))),
    (bits_tail x0 _ (by decide)).trans ((bits_tail x1 _ (by decide)).trans ((bits_tail x2 _ (by decide)).trans ((bits_tail x3 _ (by decide)).trans ((bits_tail x4 _ (by decide)).trans ((bits_tail x5 _ (by decide)).trans ((bits_tail x6 _ (by decide)).trans (BitVec.extractLsb'_eq_self)))))))⟩

theorem parts_8_4_4_3_2_5_6 (x0 : BitVec 8) (x1 : BitVec 4) (x2 : BitVec 4) (x3 : BitVec 3) (x4 : BitVec 2) (x5 : BitVec 5) (x6 : BitVec 6) :
    bits (x0 ++ (x1 ++ (x2 ++ (x3 ++ (x4 ++ (x5 ++ x6)))))) 24 8 = x0 ∧
      bits (x0 ++ (x1 ++ (x2 ++ (x3 ++ (x4 ++ (x5 ++ x6)))))) 20 4 = x1 ∧
      bits (x0 ++ (x1 ++ (x2 ++ (x3 ++ (x4 ++ (x5 ++ x6)))))) 16 4 = x2 ∧
      bits (x0 ++ (x1 ++ (x2 ++ (x3 ++ (x4 ++ (x5 ++ x6)))))) 13 3 = x3 ∧
      bits (x0 ++ (x1 ++ (x2 ++ (x3 ++ (x4 ++ (x5 ++ x6)))))) 11 2 = x4 ∧
      bits (x0 ++ (x1 ++ (x2 ++ (x3 ++ (x4 ++ (x5 ++ x6)))))) 6 5 = x5 ∧
      bits (x0 ++ (x1 ++ (x2 ++ (x3 ++ (x4 ++ (x5 ++ x6)))))) 0 6 = x6 :=
  ⟨bits_head x0 _,
    (bits_tail x0 _ (by decide)).trans (bits_head x1 _),
    (bits_tail x0 _ (by decide)).trans ((bits_tail x1 _ (by decide)).trans (bits_head x2 _)),
    (bits_tail x0 _ (by decide)).trans ((bits_tail x1 _ (by decide)).trans ((bits_tail x2 _ (by decide)).trans (bits_head x3 _))),
    (bits_tail x0 _ (by decide)).trans ((bits_tail x1 _ (by decide)).trans ((bits_tail x2 _ (by decide)).trans ((bits_tail x3 _ (by decide)).trans (bits_head x4 _)))),
    (bits_tail x0 _ (by decide)).trans ((bits_tail x1 _ (by decide)).trans ((bits_tail x2 _ (by decide)).trans ((bits_tail x3 _ (by decide)).trans ((bits_tail x4 _ (by decide)).trans (bits_head x5 _))))),
    (bits_tail x0 _ (by decide)).trans ((bits_tail x1 _ (by decide)).trans ((bits_tail x2 _ (by decide)).trans ((bits_tail x3 _ (by decide)).trans ((bits_tail x4 _ (by decide)).trans ((bits_tail x5 _ (by decide)).trans (BitVec.extractLsb'_eq_self))))))⟩

theorem parts_8_4_4_3_2_6_2_3 (x0 : BitVec 8) (x1 : BitVec 4) (x2 : BitVec 4) (x3 : BitVec 3) (x4 : BitVec 2) (x5 : BitVec 6) (x6 : BitVec 2) (x7 : BitVec 3) :
    bits (x0 ++ (x1 ++ (x2 ++ (x3 ++ (x4 ++ (x5 ++ (x6 ++ x7))))))) 24 8 = x0 ∧
      bits (x0 ++ (x1 ++ (x2 ++ (x3 ++ (x4 ++ (x5 ++ (x6 ++ x7))))))) 20 4 = x1 ∧
      bits (x0 ++ (x1 ++ (x2 ++ (x3 ++ (x4 ++ (x5 ++ (x6 ++ x7))))))) 16 4 = x2 ∧
      bits (x0 ++ (x1 ++ (x2 ++ (x3 ++ (x4 ++ (x5 ++ (x6 ++ x7))))))) 13 3 = x3 ∧
      bits (x0 ++ (x1 ++ (x2 ++ (x3 ++ (x4 ++ (x5 ++ (x6 ++ x7))))))) 11 2 = x4 ∧
      bits (x0 ++ (x1 ++ (x2 ++ (x3 ++ (x4 ++ (x5 ++ (x6 ++ x7))))))) 5 6 = x5 ∧
      bits (x0 ++ (x1 ++ (x2 ++ (x3 ++ (x4 ++ (x5 ++ (x6 ++ x7))))))) 3 2 = x6 ∧
      bits (x0 ++ (x1 ++ (x2 ++ (x3 ++ (x4 ++ (x5 ++ (x6 ++ x7))))))) 0 3 = x7 :=
  ⟨bits_head x0 _,
    (bits_tail x0 _ (by decide)).trans (bits_head x1 _),
    (bits_tail x0 _ (by decide)).trans ((bits_tail x1 _ (by decide)).trans (bits_head x2 _)),
    (bits_tail x0 _ (by decide)).trans ((bits_tail x1 _ (by decide)).trans ((bits_tail x2 _ (by decide)).trans (bits_head x3 _))),
    (bits_tail x0 _ (by decide)).trans ((bits_tail x1 _ (by decide)).trans ((bits_tail x2 _ (by decide)).trans ((bits_tail x3 _ (by decide)).trans (bits_head x4 _)))),
    (bits_tail x0 _ (by decide)).trans ((bits_tail x1 _ (by decide)).trans ((bits_tail x2 _ (by decide)).trans ((bits_tail x3 _ (by decide)).trans ((bits_tail x4 _ (by decide)).trans (bits_head x5 _))))),
    (bits_tail x0 _ (by decide)).trans ((bits_tail x1 _ (by decide)).trans ((bits_tail x2 _ (by decide)).trans ((bits_tail x3 _ (by decide)).trans ((bits_tail x4 _ (by decide)).trans ((bits_tail x5 _ (by decide)).trans (bits_head x6 _)))))),
    (bits_tail x0 _ (by decide)).trans ((bits_tail x1 _ (by decide)).trans ((bits_tail x2 _ (by decide)).trans ((bits_tail x3 _ (by decide)).trans ((bits_tail x4 _ (by decide)).trans ((bits_tail x5 _ (by decide)).trans ((bits_tail x6 _ (by decide)).trans (BitVec.extractLsb'_eq_self)))))))⟩

theorem parts_8_4_4_3_2_10_1 (x0 : BitVec 8) (x1 : BitVec 4) (x2 : BitVec 4) (x3 : BitVec 3) (x4 : BitVec 2) (x5 : BitVec 10) (x6 : BitVec 1) :
    bits (x0 ++ (x1 ++ (x2 ++ (x3 ++ (x4 ++ (x5 ++ x6)))))) 24 8 = x0 ∧
      bits (x0 ++ (x1 ++ (x2 ++ (x3 ++ (x4 ++ (x5 ++ x6)))))) 20 4 = x1 ∧
      bits (x0 ++ (x1 ++ (x2 ++ (x3 ++ (x4 ++ (x5 ++ x6)))))) 16 4 = x2 ∧
      bits (x0 ++ (x1 ++ (x2 ++ (x3 ++ (x4 ++ (x5 ++ x6)))))) 13 3 = x3 ∧
      bits (x0 ++ (x1 ++ (x2 ++ (x3 ++ (x4 ++ (x5 ++ x6)))))) 11 2 = x4 ∧
      bits (x0 ++ (x1 ++ (x2 ++ (x3 ++ (x4 ++ (x5 ++ x6)))))) 1 10 = x5 ∧
      bits (x0 ++ (x1 ++ (x2 ++ (x3 ++ (x4 ++ (x5 ++ x6)))))) 0 1 = x6 :=
  ⟨bits_head x0 _,
    (bits_tail x0 _ (by decide)).trans (bits_head x1 _),
    (bits_tail x0 _ (by decide)).trans ((bits_tail x1 _ (by decide)).trans (bits_head x2 _)),
    (bits_tail x0 _ (by decide)).trans ((bits_tail x1 _ (by decide)).trans ((bits_tail x2 _ (by decide)).trans (bits_head x3 _))),
    (bits_tail x0 _ (by decide)).trans ((bits_tail x1 _ (by decide)).trans ((bits_tail x2 _ (by decide)).trans ((bits_tail x3 _ (by decide)).trans (bits_head x4 _)))),
    (bits_tail x0 _ (by decide)).trans ((bits_tail x1 _ (by decide)).trans ((bits_tail x2 _ (by decide)).trans ((bits_tail x3 _ (by decide)).trans ((bits_tail x4 _ (by decide)).trans (bits_head x5 _))))),
    (bits_tail x0 _ (by decide)).trans ((bits_tail x1 _ (by decide)).trans ((bits_tail x2 _ (by decide)).trans ((bits_tail x3 _ (by decide)).trans ((bits_tail x4 _ (by decide)).trans ((bits_tail x5 _ (by decide)).trans (BitVec.extractLsb'_eq_self))))))⟩

theorem parts_8_4_4_3_2_11 (x0 : BitVec 8) (x1 : BitVec 4) (x2 : BitVec 4) (x3 : BitVec 3) (x4 : BitVec 2) (x5 : BitVec 11) :
    bits (x0 ++ (x1 ++ (x2 ++ (x3 ++ (x4 ++ x5))))) 24 8 = x0 ∧
      bits (x0 ++ (x1 ++ (x2 ++ (x3 ++ (x4 ++ x5))))) 20 4 = x1 ∧
      bits (x0 ++ (x1 ++ (x2 ++ (x3 ++ (x4 ++ x5))))) 16 4 = x2 ∧
      bits (x0 ++ (x1 ++ (x2 ++ (x3 ++ (x4 ++ x5))))) 13 3 = x3 ∧
      bits (x0 ++ (x1 ++ (x2 ++ (x3 ++ (x4 ++ x5))))) 11 2 = x4 ∧
      bits (x0 ++ (x1 ++ (x2 ++ (x3 ++ (x4 ++ x5))))) 0 11 = x5 :=
  ⟨bits_head x0 _,
    (bits_tail x0 _ (by decide)).trans (bits_head x1 _),
    (bits_tail x0 _ (by decide)).trans ((bits_tail x1 _ (by decide)).trans (bits_head x2 _)),
    (bits_tail x0 _ (by decide)).trans ((bits_tail x1 _ (by decide)).trans ((bits_tail x2 _ (by decide)).trans (bits_head x3 _))),
    (bits_tail x0 _ (by decide)).trans ((bits_tail x1 _ (by decide)).trans ((bits_tail x2 _ (by decide)).trans ((bits_tail x3 _ (by decide)).trans (bits_head x4 _)))),
    (bits_tail x0 _ (by decide)).trans ((bits_tail x1 _ (by decide)).trans ((bits_tail x2 _ (by decide)).trans ((bits_tail x3 _ (by decide)).trans ((bits_tail x4 _ (by decide)).trans (BitVec.extractLsb'_eq_self)))))⟩

theorem parts_8_4_4_8_8 (x0 : BitVec 8) (x1 : BitVec 4) (x2 : BitVec 4) (x3 : BitVec 8) (x4 : BitVec 8) :
    bits (x0 ++ (x1 ++ (x2 ++ (x3 ++ x4)))) 24 8 = x0 ∧
      bits (x0 ++ (x1 ++ (x2 ++ (x3 ++ x4)))) 20 4 = x1 ∧
      bits (x0 ++ (x1 ++ (x2 ++ (x3 ++ x4)))) 16 4 = x2 ∧
      bits (x0 ++ (x1 ++ (x2 ++ (x3 ++ x4)))) 8 8 = x3 ∧
      bits (x0 ++ (x1 ++ (x2 ++ (x3 ++ x4)))) 0 8 = x4 :=
  ⟨bits_head x0 _,
    (bits_tail x0 _ (by decide)).trans (bits_head x1 _),
    (bits_tail x0 _ (by decide)).trans ((bits_tail x1 _ (by decide)).trans (bits_head x2 _)),
    (bits_tail x0 _ (by decide)).trans ((bits_tail x1 _ (by decide)).trans ((bits_tail x2 _ (by decide)).trans (bits_head x3 _))),
    (bits_tail x0 _ (by decide)).trans ((bits_tail x1 _ (by decide)).trans ((bits_tail x2 _ (by decide)).trans ((bits_tail x3 _ (by decide)).trans (BitVec.extractLsb'_eq_self))))⟩

theorem parts_8_4_4_9_3_4 (x0 : BitVec 8) (x1 : BitVec 4) (x2 : BitVec 4) (x3 : BitVec 9) (x4 : BitVec 3) (x5 : BitVec 4) :
    bits (x0 ++ (x1 ++ (x2 ++ (x3 ++ (x4 ++ x5))))) 24 8 = x0 ∧
      bits (x0 ++ (x1 ++ (x2 ++ (x3 ++ (x4 ++ x5))))) 20 4 = x1 ∧
      bits (x0 ++ (x1 ++ (x2 ++ (x3 ++ (x4 ++ x5))))) 16 4 = x2 ∧
      bits (x0 ++ (x1 ++ (x2 ++ (x3 ++ (x4 ++ x5))))) 7 9 = x3 ∧
      bits (x0 ++ (x1 ++ (x2 ++ (x3 ++ (x4 ++ x5))))) 4 3 = x4 ∧
      bits (x0 ++ (x1 ++ (x2 ++ (x3 ++ (x4 ++ x5))))) 0 4 = x5 :=
  ⟨bits_head x0 _,
    (bits_tail x0 _ (by decide)).trans (bits_head x1 _),
    (bits_tail x0 _ (by decide)).trans ((bits_tail x1 _ (by decide)).trans (bits_head x2 _)),
    (bits_tail x0 _ (by decide)).trans ((bits_tail x1 _ (by decide)).trans ((bits_tail x2 _ (by decide)).trans (bits_head x3 _))),
    (bits_tail x0 _ (by decide)).trans ((bits_tail x1 _ (by decide)).trans ((bits_tail x2 _ (by decide)).trans ((bits_tail x3 _ (by decide)).trans (bits_head x4 _)))),
    (bits_tail x0 _ (by decide)).trans ((bits_tail x1 _ (by decide)).trans ((bits_tail x2 _ (by decide)).trans ((bits_tail x3 _ (by decide)).trans ((bits_tail x4 _ (by decide)).trans (BitVec.extractLsb'_eq_self)))))⟩

theorem parts_8_4_4_11_1_4 (x0 : BitVec 8) (x1 : BitVec 4) (x2 : BitVec 4) (x3 : BitVec 11) (x4 : BitVec 1) (x5 : BitVec 4) :
    bits (x0 ++ (x1 ++ (x2 ++ (x3 ++ (x4 ++ x5))))) 24 8 = x0 ∧
      bits (x0 ++ (x1 ++ (x2 ++ (x3 ++ (x4 ++ x5))))) 20 4 = x1 ∧
      bits (x0 ++ (x1 ++ (x2 ++ (x3 ++ (x4 ++ x5))))) 16 4 = x2 ∧
      bits (x0 ++ (x1 ++ (x2 ++ (x3 ++ (x4 ++ x5))))) 5 11 = x3 ∧
      bits (x0 ++ (x1 ++ (x2 ++ (x3 ++ (x4 ++ x5))))) 4 1 = x4 ∧
      bits (x0 ++ (x1 ++ (x2 ++ (x3 ++ (x4 ++ x5))))) 0 4 = x5 :=
  ⟨bits_head x0 _,
    (bits_tail x0 _ (by decide)).trans (bits_head x1 _),
    (bits_tail x0 _ (by decide)).trans ((bits_tail x1 _ (by decide)).trans (bits_head x2 _)),
    (bits_tail x0 _ (by decide)).trans ((bits_tail x1 _ (by decide)).trans ((bits_tail x2 _ (by decide)).trans (bits_head x3 _))),
    (bits_tail x0 _ (by decide)).trans ((bits_tail x1 _ (by decide)).trans ((bits_tail x2 _ (by decide)).trans ((bits_tail x3 _ (by decide)).trans (bits_head x4 _)))),
    (bits_tail x0 _ (by decide)).trans ((bits_tail x1 _ (by decide)).trans ((bits_tail x2 _ (by decide)).trans ((bits_tail x3 _ (by decide)).trans ((bits_tail x4 _ (by decide)).trans (BitVec.extractLsb'_eq_self)))))⟩

theorem parts_8_4_4_12_4 (x0 : BitVec 8) (x1 : BitVec 4) (x2 : BitVec 4) (x3 : BitVec 12) (x4 : BitVec 4) :
    bits (x0 ++ (x1 ++ (x2 ++ (x3 ++ x4)))) 24 8 = x0 ∧
      bits (x0 ++ (x1 ++ (x2 ++ (x3 ++ x4)))) 20 4 = x1 ∧
      bits (x0 ++ (x1 ++ (x2 ++ (x3 ++ x4)))) 16 4 = x2 ∧
      bits (x0 ++ (x1 ++ (x2 ++ (x3 ++ x4)))) 4 12 = x3 ∧
      bits (x0 ++ (x1 ++ (x2 ++ (x3 ++ x4)))) 0 4 = x4 :=
  ⟨bits_head x0 _,
    (bits_tail x0 _ (by decide)).trans (bits_head x1 _),
    (bits_tail x0 _ (by decide)).trans ((bits_tail x1 _ (by decide)).trans (bits_head x2 _)),
    (bits_tail x0 _ (by decide)).trans ((bits_tail x1 _ (by decide)).trans ((bits_tail x2 _ (by decide)).trans (bits_head x3 _))),
    (bits_tail x0 _ (by decide)).trans ((bits_tail x1 _ (by decide)).trans ((bits_tail x2 _ (by decide)).trans ((bits_tail x3 _ (by decide)).trans (BitVec.extractLsb'_eq_self))))⟩

theorem parts_8_4_4_13_3 (x0 : BitVec 8) (x1 : BitVec 4) (x2 : BitVec 4) (x3 : BitVec 13) (x4 : BitVec 3) :
    bits (x0 ++ (x1 ++ (x2 ++ (x3 ++ x4)))) 24 8 = x0 ∧
      bits (x0 ++ (x1 ++ (x2 ++ (x3 ++ x4)))) 20 4 = x1 ∧
      bits (x0 ++ (x1 ++ (x2 ++ (x3 ++ x4)))) 16 4 = x2 ∧
      bits (x0 ++ (x1 ++ (x2 ++ (x3 ++ x4)))) 3 13 = x3 ∧
      bits (x0 ++ (x1 ++ (x2 ++ (x3 ++ x4)))) 0 3 = x4 :=
  ⟨bits_head x0 _,
    (bits_tail x0 _ (by decide)).trans (bits_head x1 _),
    (bits_tail x0 _ (by decide)).trans ((bits_tail x1 _ (by decide)).trans (bits_head x2 _)),
    (bits_tail x0 _ (by decide)).trans ((bits_tail x1 _ (by decide)).trans ((bits_tail x2 _ (by decide)).trans (bits_head x3 _))),
    (bits_tail x0 _ (by decide)).trans ((bits_tail x1 _ (by decide)).trans ((bits_tail x2 _ (by decide)).trans ((bits_tail x3 _ (by decide)).trans (BitVec.extractLsb'_eq_self))))⟩

theorem parts_8_4_4_16 (x0 : BitVec 8) (x1 : BitVec 4) (x2 : BitVec 4) (x3 : BitVec 16) :
    bits (x0 ++ (x1 ++ (x2 ++ x3))) 24 8 = x0 ∧
      bits (x0 ++ (x1 ++ (x2 ++ x3))) 20 4 = x1 ∧
      bits (x0 ++ (x1 ++ (x2 ++ x3))) 16 4 = x2 ∧
      bits (x0 ++ (x1 ++ (x2 ++ x3))) 0 16 = x3 :=
  ⟨bits_head x0 _,
    (bits_tail x0 _ (by decide)).trans (bits_head x1 _),
    (bits_tail x0 _ (by decide)).trans ((bits_tail x1 _ (by decide)).trans (bits_head x2 _)),
    (bits_tail x0 _ (by decide)).trans ((bits_tail x1 _ (by decide)).trans ((bits_tail x2 _ (by decide)).trans (BitVec.extractLsb'_eq_self)))⟩

theorem parts_8_4_20 (x0 : BitVec 8) (x1 : BitVec 4) (x2 : BitVec 20) :
    bits (x0 ++ (x1 ++ x2)) 24 8 = x0 ∧
      bits (x0 ++ (x1 ++ x2)) 20 4 = x1 ∧
      bits (x0 ++ (x1 ++ x2)) 0 20 = x2 :=
  ⟨bits_head x0 _,
    (bits_tail x0 _ (by decide)).trans (bits_head x1 _),
    (bits_tail x0 _ (by decide)).trans ((bits_tail x1 _ (by decide)).trans (BitVec.extractLsb'_eq_self))⟩

theorem parts_8_8_3_2_3_8 (x0 : BitVec 8) (x1 : BitVec 8) (x2 : BitVec 3) (x3 : BitVec 2) (x4 : BitVec 3) (x5 : BitVec 8) :
    bits (x0 ++ (x1 ++ (x2 ++ (x3 ++ (x4 ++ x5))))) 24 8 = x0 ∧
      bits (x0 ++ (x1 ++ (x2 ++ (x3 ++ (x4 ++ x5))))) 16 8 = x1 ∧
      bits (x0 ++ (x1 ++ (x2 ++ (x3 ++ (x4 ++ x5))))) 13 3 = x2 ∧
      bits (x0 ++ (x1 ++ (x2 ++ (x3 ++ (x4 ++ x5))))) 11 2 = x3 ∧
      bits (x0 ++ (x1 ++ (x2 ++ (x3 ++ (x4 ++ x5))))) 8 3 = x4 ∧
      bits (x0 ++ (x1 ++ (x2 ++ (x3 ++ (x4 ++ x5))))) 0 8 = x5 :=
  ⟨bits_head x0 _,
    (bits_tail x0 _ (by decide)).trans (bits_head x1 _),
    (bits_tail x0 _ (by decide)).trans ((bits_tail x1 _ (by decide)).trans (bits_head x2 _)),
    (bits_tail x0 _ (by decide)).trans ((bits_tail x1 _ (by decide)).trans ((bits_tail x2 _ (by decide)).trans (bits_head x3 _))),
    (bits_tail x0 _ (by decide)).trans ((bits_tail x1 _ (by decide)).trans ((bits_tail x2 _ (by decide)).trans ((bits_tail x3 _ (by decide)).trans (bits_head x4 _)))),
    (bits_tail x0 _ (by decide)).trans ((bits_tail x1 _ (by decide)).trans ((bits_tail x2 _ (by decide)).trans ((bits_tail x3 _ (by decide)).trans ((bits_tail x4 _ (by decide)).trans (BitVec.extractLsb'_eq_self)))))⟩

theorem parts_8_8_3_2_7_4 (x0 : BitVec 8) (x1 : BitVec 8) (x2 : BitVec 3) (x3 : BitVec 2) (x4 : BitVec 7) (x5 : BitVec 4) :
    bits (x0 ++ (x1 ++ (x2 ++ (x3 ++ (x4 ++ x5))))) 24 8 = x0 ∧
      bits (x0 ++ (x1 ++ (x2 ++ (x3 ++ (x4 ++ x5))))) 16 8 = x1 ∧
      bits (x0 ++ (x1 ++ (x2 ++ (x3 ++ (x4 ++ x5))))) 13 3 = x2 ∧
      bits (x0 ++ (x1 ++ (x2 ++ (x3 ++ (x4 ++ x5))))) 11 2 = x3 ∧
      bits (x0 ++ (x1 ++ (x2 ++ (x3 ++ (x4 ++ x5))))) 4 7 = x4 ∧
      bits (x0 ++ (x1 ++ (x2 ++ (x3 ++ (x4 ++ x5))))) 0 4 = x5 :=
  ⟨bits_head x0 _,
    (bits_tail x0 _ (by decide)).trans (bits_head x1 _),
    (bits_tail x0 _ (by decide)).trans ((bits_tail x1 _ (by decide)).trans (bits_head x2 _)),
    (bits_tail x0 _ (by decide)).trans ((bits_tail x1 _ (by decide)).trans ((bits_tail x2 _ (by decide)).trans (bits_head x3 _))),
    (bits_tail x0 _ (by decide)).trans ((bits_tail x1 _ (by decide)).trans ((bits_tail x2 _ (by decide)).trans ((bits_tail x3 _ (by decide)).trans (bits_head x4 _)))),
    (bits_tail x0 _ (by decide)).trans ((bits_tail x1 _ (by decide)).trans ((bits_tail x2 _ (by decide)).trans ((bits_tail x3 _ (by decide)).trans ((bits_tail x4 _ (by decide)).trans (BitVec.extractLsb'_eq_self)))))⟩

theorem parts_8_8_3_2_8_1_2 (x0 : BitVec 8) (x1 : BitVec 8) (x2 : BitVec 3) (x3 : BitVec 2) (x4 : BitVec 8) (x5 : BitVec 1) (x6 : BitVec 2) :
    bits (x0 ++ (x1 ++ (x2 ++ (x3 ++ (x4 ++ (x5 ++ x6)))))) 24 8 = x0 ∧
      bits (x0 ++ (x1 ++ (x2 ++ (x3 ++ (x4 ++ (x5 ++ x6)))))) 16 8 = x1 ∧
      bits (x0 ++ (x1 ++ (x2 ++ (x3 ++ (x4 ++ (x5 ++ x6)))))) 13 3 = x2 ∧
      bits (x0 ++ (x1 ++ (x2 ++ (x3 ++ (x4 ++ (x5 ++ x6)))))) 11 2 = x3 ∧
      bits (x0 ++ (x1 ++ (x2 ++ (x3 ++ (x4 ++ (x5 ++ x6)))))) 3 8 = x4 ∧
      bits (x0 ++ (x1 ++ (x2 ++ (x3 ++ (x4 ++ (x5 ++ x6)))))) 2 1 = x5 ∧
      bits (x0 ++ (x1 ++ (x2 ++ (x3 ++ (x4 ++ (x5 ++ x6)))))) 0 2 = x6 :=
  ⟨bits_head x0 _,
    (bits_tail x0 _ (by decide)).trans (bits_head x1 _),
    (bits_tail x0 _ (by decide)).trans ((bits_tail x1 _ (by decide)).trans (bits_head x2 _)),
    (bits_tail x0 _ (by decide)).trans ((bits_tail x1 _ (by decide)).trans ((bits_tail x2 _ (by decide)).trans (bits_head x3 _))),
    (bits_tail x0 _ (by decide)).trans ((bits_tail x1 _ (by decide)).trans ((bits_tail x2 _ (by decide)).trans ((bits_tail x3 _ (by decide)).trans (bits_head x4 _)))),
    (bits_tail x0 _ (by decide)).trans ((bits_tail x1 _ (by decide)).trans ((bits_tail x2 _ (by decide)).trans ((bits_tail x3 _ (by decide)).trans ((bits_tail x4 _ (by decide)).trans (bits_head x5 _))))),
    (bits_tail x0 _ (by decide)).trans ((bits_tail x1 _ (by decide)).trans ((bits_tail x2 _ (by decide)).trans ((bits_tail x3 _ (by decide)).trans ((bits_tail x4 _ (by decide)).trans ((bits_tail x5 _ (by decide)).trans (BitVec.extractLsb'_eq_self))))))⟩

theorem parts_8_8_3_2_9_2 (x0 : BitVec 8) (x1 : BitVec 8) (x2 : BitVec 3) (x3 : BitVec 2) (x4 : BitVec 9) (x5 : BitVec 2) :
    bits (x0 ++ (x1 ++ (x2 ++ (x3 ++ (x4 ++ x5))))) 24 8 = x0 ∧
      bits (x0 ++ (x1 ++ (x2 ++ (x3 ++ (x4 ++ x5))))) 16 8 = x1 ∧
      bits (x0 ++ (x1 ++ (x2 ++ (x3 ++ (x4 ++ x5))))) 13 3 = x2 ∧
      bits (x0 ++ (x1 ++ (x2 ++ (x3 ++ (x4 ++ x5))))) 11 2 = x3 ∧
      bits (x0 ++ (x1 ++ (x2 ++ (x3 ++ (x4 ++ x5))))) 2 9 = x4 ∧
      bits (x0 ++ (x1 ++ (x2 ++ (x3 ++ (x4 ++ x5))))) 0 2 = x5 :=
  ⟨bits_head x0 _,
    (bits_tail x0 _ (by decide)).trans (bits_head x1 _),
    (bits_tail x0 _ (by decide)).trans ((bits_tail x1 _ (by decide)).trans (bits_head x2 _)),
    (bits_tail x0 _ (by decide)).trans ((bits_tail x1 _ (by decide)).trans ((bits_tail x2 _ (by decide)).trans (bits_head x3 _))),
    (bits_tail x0 _ (by decide)).trans ((bits_tail x1 _ (by decide)).trans ((bits_tail x2 _ (by decide)).trans ((bits_tail x3 _ (by decide)).trans (bits_head x4 _)))),
    (bits_tail x0 _ (by decide)).trans ((bits_tail x1 _ (by decide)).trans ((bits_tail x2 _ (by decide)).trans ((bits_tail x3 _ (by decide)).trans ((bits_tail x4 _ (by decide)).trans (BitVec.extractLsb'_eq_self)))))⟩

theorem parts_8_8_3_2_11 (x0 : BitVec 8) (x1 : BitVec 8) (x2 : BitVec 3) (x3 : BitVec 2) (x4 : BitVec 11) :
    bits (x0 ++ (x1 ++ (x2 ++ (x3 ++ x4)))) 24 8 = x0 ∧
      bits (x0 ++ (x1 ++ (x2 ++ (x3 ++ x4)))) 16 8 = x1 ∧
      bits (x0 ++ (x1 ++ (x2 ++ (x3 ++ x4)))) 13 3 = x2 ∧
      bits (x0 ++ (x1 ++ (x2 ++ (x3 ++ x4)))) 11 2 = x3 ∧
      bits (x0 ++ (x1 ++ (x2 ++ (x3 ++ x4)))) 0 11 = x4 :=
  ⟨bits_head x0 _,
    (bits_tail x0 _ (by decide)).trans (bits_head x1 _),
    (bits_tail x0 _ (by decide)).trans ((bits_tail x1 _ (by decide)).trans (bits_head x2 _)),
    (bits_tail x0 _ (by decide)).trans ((bits_tail x1 _ (by decide)).trans ((bits_tail x2 _ (by decide)).trans (bits_head x3 _))),
    (bits_tail x0 _ (by decide)).trans ((bits_tail x1 _ (by decide)).trans ((bits_tail x2 _ (by decide)).trans ((bits_tail x3 _ (by decide)).trans (BitVec.extractLsb'_eq_self))))⟩

theorem parts_8_14_2_8 (x0 : BitVec 8) (x1 : BitVec 14) (x2 : BitVec 2) (x3 : BitVec 8) :
    bits (x0 ++ (x1 ++ (x2 ++ x3))) 24 8 = x0 ∧
      bits (x0 ++ (x1 ++ (x2 ++ x3))) 10 14 = x1 ∧
      bits (x0 ++ (x1 ++ (x2 ++ x3))) 8 2 = x2 ∧
      bits (x0 ++ (x1 ++ (x2 ++ x3))) 0 8 = x3 :=
  ⟨bits_head x0 _,
    (bits_tail x0 _ (by decide)).trans (bits_head x1 _),
    (bits_tail x0 _ (by decide)).trans ((bits_tail x1 _ (by decide)).trans (bits_head x2 _)),
    (bits_tail x0 _ (by decide)).trans ((bits_tail x1 _ (by decide)).trans ((bits_tail x2 _ (by decide)).trans (BitVec.extractLsb'_eq_self)))⟩

theorem parts_8_16_4_4 (x0 : BitVec 8) (x1 : BitVec 16) (x2 : BitVec 4) (x3 : BitVec 4) :
    bits (x0 ++ (x1 ++ (x2 ++ x3))) 24 8 = x0 ∧
      bits (x0 ++ (x1 ++ (x2 ++ x3))) 8 16 = x1 ∧
      bits (x0 ++ (x1 ++ (x2 ++ x3))) 4 4 = x2 ∧
      bits (x0 ++ (x1 ++ (x2 ++ x3))) 0 4 = x3 :=
  ⟨bits_head x0 _,
    (bits_tail x0 _ (by decide)).trans (bits_head x1 _),
    (bits_tail x0 _ (by decide)).trans ((bits_tail x1 _ (by decide)).trans (bits_head x2 _)),
    (bits_tail x0 _ (by decide)).trans ((bits_tail x1 _ (by decide)).trans ((bits_tail x2 _ (by decide)).trans (BitVec.extractLsb'_eq_self)))⟩

theorem parts_8_17_3_4 (x0 : BitVec 8) (x1 : BitVec 17) (x2 : BitVec 3) (x3 : BitVec 4) :
    bits (x0 ++ (x1 ++ (x2 ++ x3))) 24 8 = x0 ∧
      bits (x0 ++ (x1 ++ (x2 ++ x3))) 7 17 = x1 ∧
      bits (x0 ++ (x1 ++ (x2 ++ x3))) 4 3 = x2 ∧
      bits (x0 ++ (x1 ++ (x2 ++ x3))) 0 4 = x3 :=
  ⟨bits_head x0 _,
    (bits_tail x0 _ (by decide)).trans (bits_head x1 _),
    (bits_tail x0 _ (by decide)).trans ((bits_tail x1 _ (by decide)).trans (bits_head x2 _)),
    (bits_tail x0 _ (by decide)).trans ((bits_tail x1 _ (by decide)).trans ((bits_tail x2 _ (by decide)).trans (BitVec.extractLsb'_eq_self)))⟩

theorem parts_8_18_6 (x0 : BitVec 8) (x1 : BitVec 18) (x2 : BitVec 6) :
    bits (x0 ++ (x1 ++ x2)) 24 8 = x0 ∧
      bits (x0 ++ (x1 ++ x2)) 6 18 = x1 ∧
      bits (x0 ++ (x1 ++ x2)) 0 6 = x2 :=
  ⟨bits_head x0 _,
    (bits_tail x0 _ (by decide)).trans (bits_head x1 _),
    (bits_tail x0 _ (by decide)).trans ((bits_tail x1 _ (by decide)).trans (BitVec.extractLsb'_eq_self))⟩

theorem parts_8_20_4 (x0 : BitVec 8) (x1 : BitVec 20) (x2 : BitVec 4) :
    bits (x0 ++ (x1 ++ x2)) 24 8 = x0 ∧
      bits (x0 ++ (x1 ++ x2)) 4 20 = x1 ∧
      bits (x0 ++ (x1 ++ x2)) 0 4 = x2 :=
  ⟨bits_head x0 _,
    (bits_tail x0 _ (by decide)).trans (bits_head x1 _),
    (bits_tail x0 _ (by decide)).trans ((bits_tail x1 _ (by decide)).trans (BitVec.extractLsb'_eq_self))⟩

theorem parts_8_22_2 (x0 : BitVec 8) (x1 : BitVec 22) (x2 : BitVec 2) :
    bits (x0 ++ (x1 ++ x2)) 24 8 = x0 ∧
      bits (x0 ++ (x1 ++ x2)) 2 22 = x1 ∧
      bits (x0 ++ (x1 ++ x2)) 0 2 = x2 :=
  ⟨bits_head x0 _,
    (bits_tail x0 _ (by decide)).trans (bits_head x1 _),
    (bits_tail x0 _ (by decide)).trans ((bits_tail x1 _ (by decide)).trans (BitVec.extractLsb'_eq_self))⟩

theorem parts_8_23_1 (x0 : BitVec 8) (x1 : BitVec 23) (x2 : BitVec 1) :
    bits (x0 ++ (x1 ++ x2)) 24 8 = x0 ∧
      bits (x0 ++ (x1 ++ x2)) 1 23 = x1 ∧
      bits (x0 ++ (x1 ++ x2)) 0 1 = x2 :=
  ⟨bits_head x0 _,
    (bits_tail x0 _ (by decide)).trans (bits_head x1 _),
    (bits_tail x0 _ (by decide)).trans ((bits_tail x1 _ (by decide)).trans (BitVec.extractLsb'_eq_self))⟩

theorem parts_8_24 (x0 : BitVec 8) (x1 : BitVec 24) :
    bits (x0 ++ x1) 24 8 = x0 ∧
      bits (x0 ++ x1) 0 24 = x1 :=
  ⟨bits_head x0 _,
    (bits_tail x0 _ (by decide)).trans (BitVec.extractLsb'_eq_self)⟩

theorem row0 (f : FirstWord) (h : f.op.toNat / 16 = 0) : decodeForm f = decodeRow0 (f.op.toNat % 16) f := by
  simp only [decodeForm, h]

theorem row1 (f : FirstWord) (h : f.op.toNat / 16 = 1) : decodeForm f = decodeRow1 (f.op.toNat % 16) f := by
  simp only [decodeForm, h]

theorem row2 (f : FirstWord) (h : f.op.toNat / 16 = 2) : decodeForm f = decodeRow2 (f.op.toNat % 16) f := by
  simp only [decodeForm, h]

theorem row3 (f : FirstWord) (h : f.op.toNat / 16 = 3) : decodeForm f = decodeRow3 (f.op.toNat % 16) f := by
  simp only [decodeForm, h]

theorem row4 (f : FirstWord) (h : f.op.toNat / 16 = 4) : decodeForm f = decodeRow4 (f.op.toNat % 16) f := by
  simp only [decodeForm, h]

theorem row5 (f : FirstWord) (h : f.op.toNat / 16 = 5) : decodeForm f = decodeRow5 (f.op.toNat % 16) f := by
  simp only [decodeForm, h]

theorem row6 (f : FirstWord) (h : f.op.toNat / 16 = 6) : decodeForm f = decodeRow6 (f.op.toNat % 16) f := by
  simp only [decodeForm, h]

theorem row8 (f : FirstWord) (h : f.op.toNat / 16 = 8) : decodeForm f = decodeRow8 (f.op.toNat % 16) f := by
  simp only [decodeForm, h]

theorem row9 (f : FirstWord) (h : f.op.toNat / 16 = 9) : decodeForm f = decodeRow9 (f.op.toNat % 16) f := by
  simp only [decodeForm, h]

theorem rowA (f : FirstWord) (h : f.op.toNat / 16 = 10) : decodeForm f = decodeRowA (f.op.toNat % 16) f := by
  simp only [decodeForm, h]

theorem rowB (f : FirstWord) (h : f.op.toNat / 16 = 11) : decodeForm f = decodeRowB (f.op.toNat % 16) f := by
  simp only [decodeForm, h]

theorem rowC (f : FirstWord) (h : f.op.toNat / 16 = 12) : decodeForm f = decodeRowC (f.op.toNat % 16) f := by
  simp only [decodeForm, h]

theorem rowD (f : FirstWord) (h : f.op.toNat / 16 = 13) : decodeForm f = decodeRowD (f.op.toNat % 16) f := by
  simp only [decodeForm, h]

theorem rowE (f : FirstWord) (h : f.op.toNat / 16 = 14) : decodeForm f = decodeRowE (f.op.toNat % 16) f := by
  simp only [decodeForm, h]

theorem rowF (f : FirstWord) (h : f.op.toNat / 16 = 15) : decodeForm f = decodeRowF (f.op.toNat % 16) f := by
  simp only [decodeForm, h]

theorem op00 (f : FirstWord) (h : f.op = 0x00#8) : decodeForm f =
    (if f.b == 0x8F#8 then .two (fun e => req (bits e 24 8 == 0x88#8 && bits e 20 4 == 0#4 && bits e 8 8 == 0#8) .reservedField (.ok (.iaddExt f.nw f.d f.a (bits e 16 4) (bits e 0 8))))
      else .one (.ok (.iadd f.nw f.d f.a f.b))) := by
  rw [row0 f (by rw [h]; rfl), h]; rfl

theorem op01 (f : FirstWord) (h : f.op = 0x01#8) : decodeForm f =
    (if f.b == 0x8F#8 then .two (fun e => req (bits e 24 8 == 0x88#8 && bits e 20 4 == 0#4 && bits e 8 8 == 0#8) .reservedField (.ok (.isubExt f.nw f.d f.a (bits e 16 4) (bits e 0 8))))
      else .one (.ok (.isub f.nw f.d f.a f.b))) := by
  rw [row0 f (by rw [h]; rfl), h]; rfl

theorem op02 (f : FirstWord) (h : f.op = 0x02#8) : decodeForm f =
    (if f.b == 0x8F#8 then .two (fun e => req (bits e 24 8 == 0x88#8 && bits e 20 4 == 0#4 && bits e 8 8 == 0#8) .reservedField (.ok (.imulExt f.nw f.d f.a (bits e 16 4) (bits e 0 8))))
      else .one (.ok (.imul f.nw f.d f.a f.b))) := by
  rw [row0 f (by rw [h]; rfl), h]; rfl

theorem op03 (f : FirstWord) (h : f.op = 0x03#8) : decodeForm f =
    (if f.b == 0x8F#8 then .two (fun e => req (bits e 24 8 == 0x88#8 && bits e 20 4 == 0#4 && bits e 8 8 == 0#8) .reservedField (.ok (.imulhsExt f.nw f.d f.a (bits e 16 4) (bits e 0 8))))
      else .one (.ok (.imulhs f.nw f.d f.a f.b))) := by
  rw [row0 f (by rw [h]; rfl), h]; rfl

theorem op04 (f : FirstWord) (h : f.op = 0x04#8) : decodeForm f =
    (if f.b == 0x8F#8 then .two (fun e => req (bits e 24 8 == 0x88#8 && bits e 20 4 == 0#4 && bits e 8 8 == 0#8) .reservedField (.ok (.imulhuExt f.nw f.d f.a (bits e 16 4) (bits e 0 8))))
      else .one (.ok (.imulhu f.nw f.d f.a f.b))) := by
  rw [row0 f (by rw [h]; rfl), h]; rfl

theorem op05 (f : FirstWord) (h : f.op = 0x05#8) : decodeForm f =
    (.two (fun e => req (bits e 0 24 == 0#24) .reservedField (.ok (.imad f.nw f.d f.a f.b (bits e 24 8))))) := by
  rw [row0 f (by rw [h]; rfl), h]; rfl

theorem op06 (f : FirstWord) (h : f.op = 0x06#8) : decodeForm f =
    (.one (.ok (.imin f.nw f.d f.a f.b))) := by
  rw [row0 f (by rw [h]; rfl), h]; rfl

theorem op07 (f : FirstWord) (h : f.op = 0x07#8) : decodeForm f =
    (.one (.ok (.imax f.nw f.d f.a f.b))) := by
  rw [row0 f (by rw [h]; rfl), h]; rfl

theorem op08 (f : FirstWord) (h : f.op = 0x08#8) : decodeForm f =
    (.one (.ok (.umin f.nw f.d f.a f.b))) := by
  rw [row0 f (by rw [h]; rfl), h]; rfl

theorem op09 (f : FirstWord) (h : f.op = 0x09#8) : decodeForm f =
    (.one (.ok (.umax f.nw f.d f.a f.b))) := by
  rw [row0 f (by rw [h]; rfl), h]; rfl

theorem op0A (f : FirstWord) (h : f.op = 0x0A#8) : decodeForm f =
    (.one (.ok (.vand f.nw f.d f.a f.b))) := by
  rw [row0 f (by rw [h]; rfl), h]; rfl

theorem op0B (f : FirstWord) (h : f.op = 0x0B#8) : decodeForm f =
    (.one (.ok (.vor f.nw f.d f.a f.b))) := by
  rw [row0 f (by rw [h]; rfl), h]; rfl

theorem op0C (f : FirstWord) (h : f.op = 0x0C#8) : decodeForm f =
    (.one (.ok (.vxor f.nw f.d f.a f.b))) := by
  rw [row0 f (by rw [h]; rfl), h]; rfl

theorem op0D (f : FirstWord) (h : f.op = 0x0D#8) : decodeForm f =
    (.one (.ok (.vandn f.nw f.d f.a f.b))) := by
  rw [row0 f (by rw [h]; rfl), h]; rfl

theorem op0E (f : FirstWord) (h : f.op = 0x0E#8) : decodeForm f =
    (.one (.ok (.shl f.nw f.d f.a f.b))) := by
  rw [row0 f (by rw [h]; rfl), h]; rfl

theorem op0F (f : FirstWord) (h : f.op = 0x0F#8) : decodeForm f =
    (.one (.ok (.shr f.nw f.d f.a f.b))) := by
  rw [row0 f (by rw [h]; rfl), h]; rfl

theorem op10 (f : FirstWord) (h : f.op = 0x10#8) : decodeForm f =
    (.one (.ok (.sar f.nw f.d f.a f.b))) := by
  rw [row1 f (by rw [h]; rfl), h]; rfl

theorem op11 (f : FirstWord) (h : f.op = 0x11#8) : decodeForm f =
    (.one (.ok (.rotl f.nw f.d f.a f.b))) := by
  rw [row1 f (by rw [h]; rfl), h]; rfl

theorem op12 (f : FirstWord) (h : f.op = 0x12#8) : decodeForm f =
    (.one (req (f.b == 0x88#8) .reservedField (.ok (.popc f.nw f.d f.a)))) := by
  rw [row1 f (by rw [h]; rfl), h]; rfl

theorem op13 (f : FirstWord) (h : f.op = 0x13#8) : decodeForm f =
    (.one (req (f.b == 0x88#8) .reservedField (.ok (.clz f.nw f.d f.a)))) := by
  rw [row1 f (by rw [h]; rfl), h]; rfl

theorem op14 (f : FirstWord) (h : f.op = 0x14#8) : decodeForm f =
    (.one (req (f.b == 0x88#8) .reservedField (.ok (.brev f.nw f.d f.a)))) := by
  rw [row1 f (by rw [h]; rfl), h]; rfl

theorem op15 (f : FirstWord) (h : f.op = 0x15#8) : decodeForm f =
    (.two (fun e => req (bits e 24 8 == 0x88#8 && bits e 1 23 == 0#23) .reservedField (.ok (.bfx f.nw f.d f.a f.b (bits e 0 1))))) := by
  rw [row1 f (by rw [h]; rfl), h]; rfl

theorem op16 (f : FirstWord) (h : f.op = 0x16#8) : decodeForm f =
    (.two (fun e => req (bits e 0 24 == 0#24) .reservedField (.ok (.bfi f.nw f.d f.a f.b (bits e 24 8))))) := by
  rw [row1 f (by rw [h]; rfl), h]; rfl

theorem op17 (f : FirstWord) (h : f.op = 0x17#8) : decodeForm f =
    (.two (fun e => req (bits e 0 24 == 0#24) .reservedField (.ok (.bperm f.nw f.d f.a f.b (bits e 24 8))))) := by
  rw [row1 f (by rw [h]; rfl), h]; rfl

theorem op18 (f : FirstWord) (h : f.op = 0x18#8) : decodeForm f =
    (.two (fun e => req (bits e 8 16 == 0#16) .reservedField (.ok (.bitf f.nw f.d f.a f.b (bits e 24 8) (bits e 4 4) (bits e 0 4))))) := by
  rw [row1 f (by rw [h]; rfl), h]; rfl

theorem op19 (f : FirstWord) (h : f.op = 0x19#8) : decodeForm f =
    (.one (.ok (.iadd64 f.nw f.d f.a f.b))) := by
  rw [row1 f (by rw [h]; rfl), h]; rfl

theorem op1A (f : FirstWord) (h : f.op = 0x1A#8) : decodeForm f =
    (.one (.ok (.isub64 f.nw f.d f.a f.b))) := by
  rw [row1 f (by rw [h]; rfl), h]; rfl

theorem op1B (f : FirstWord) (h : f.op = 0x1B#8) : decodeForm f =
    (.one (.ok (.imulw f.nw f.d f.a f.b))) := by
  rw [row1 f (by rw [h]; rfl), h]; rfl

theorem op1C (f : FirstWord) (h : f.op = 0x1C#8) : decodeForm f =
    (.two (fun e => req (bits e 0 20 == 0#20) .reservedField (.ok (.icmp f.nw f.d f.a f.b (bits e 24 8) (bits e 20 4))))) := by
  rw [row1 f (by rw [h]; rfl), h]; rfl

theorem op1D (f : FirstWord) (h : f.op = 0x1D#8) : decodeForm f =
    (.two (fun e => req (bits e 1 23 == 0#23) .reservedField (.ok (.sel f.nw f.d f.a f.b (bits e 24 8) (bits e 0 1))))) := by
  rw [row1 f (by rw [h]; rfl), h]; rfl

theorem op1E (f : FirstWord) (h : f.op = 0x1E#8) : decodeForm f =
    (.one (req (f.b == 0x88#8) .reservedField (.ok (.mov f.nw f.d f.a)))) := by
  rw [row1 f (by rw [h]; rfl), h]; rfl

theorem op1F (f : FirstWord) (h : f.op = 0x1F#8) : decodeForm f =
    (.two (fun e => req (f.a == 0x88#8 && f.b == 0x88#8) .reservedField (.ok (.movi f.nw f.d e)))) := by
  rw [row1 f (by rw [h]; rfl), h]; rfl

theorem op20 (f : FirstWord) (h : f.op = 0x20#8) : decodeForm f =
    (.one (.ok (.iaddi f.nw f.d f.a f.b))) := by
  rw [row2 f (by rw [h]; rfl), h]; rfl

theorem op21 (f : FirstWord) (h : f.op = 0x21#8) : decodeForm f =
    (.one (.ok (.shli f.nw f.d f.a f.b))) := by
  rw [row2 f (by rw [h]; rfl), h]; rfl

theorem op22 (f : FirstWord) (h : f.op = 0x22#8) : decodeForm f =
    (.one (.ok (.shri f.nw f.d f.a f.b))) := by
  rw [row2 f (by rw [h]; rfl), h]; rfl

theorem op23 (f : FirstWord) (h : f.op = 0x23#8) : decodeForm f =
    (.one (.ok (.sari f.nw f.d f.a f.b))) := by
  rw [row2 f (by rw [h]; rfl), h]; rfl

theorem op24 (f : FirstWord) (h : f.op = 0x24#8) : decodeForm f =
    (.one (.ok (.andi f.nw f.d f.a f.b))) := by
  rw [row2 f (by rw [h]; rfl), h]; rfl

theorem op25 (f : FirstWord) (h : f.op = 0x25#8) : decodeForm f =
    (.one (.ok (.ori f.nw f.d f.a f.b))) := by
  rw [row2 f (by rw [h]; rfl), h]; rfl

theorem op26 (f : FirstWord) (h : f.op = 0x26#8) : decodeForm f =
    (.one (.ok (.xori f.nw f.d f.a f.b))) := by
  rw [row2 f (by rw [h]; rfl), h]; rfl

theorem op28 (f : FirstWord) (h : f.op = 0x28#8) : decodeForm f =
    (if f.b == 0x8F#8 then .two (fun e => req (bits e 24 8 == 0x88#8 && bits e 20 4 == 0#4 && bits e 8 8 == 0#8) .reservedField (.ok (.faddExt f.nw f.d f.a (bits e 16 4) (bits e 0 8))))
      else .one (.ok (.fadd f.nw f.d f.a f.b))) := by
  rw [row2 f (by rw [h]; rfl), h]; rfl

theorem op29 (f : FirstWord) (h : f.op = 0x29#8) : decodeForm f =
    (if f.b == 0x8F#8 then .two (fun e => req (bits e 24 8 == 0x88#8 && bits e 20 4 == 0#4 && bits e 8 8 == 0#8) .reservedField (.ok (.fsubExt f.nw f.d f.a (bits e 16 4) (bits e 0 8))))
      else .one (.ok (.fsub f.nw f.d f.a f.b))) := by
  rw [row2 f (by rw [h]; rfl), h]; rfl

theorem op2A (f : FirstWord) (h : f.op = 0x2A#8) : decodeForm f =
    (if f.b == 0x8F#8 then .two (fun e => req (bits e 24 8 == 0x88#8 && bits e 20 4 == 0#4 && bits e 8 8 == 0#8) .reservedField (.ok (.fmulExt f.nw f.d f.a (bits e 16 4) (bits e 0 8))))
      else .one (.ok (.fmul f.nw f.d f.a f.b))) := by
  rw [row2 f (by rw [h]; rfl), h]; rfl

theorem op2B (f : FirstWord) (h : f.op = 0x2B#8) : decodeForm f =
    (if f.b == 0x8F#8 then .two (fun e => req (bits e 20 4 == 0#4 && bits e 8 8 == 0#8) .reservedField (.ok (.ffmaExt f.nw f.d f.a (bits e 24 8) (bits e 16 4) (bits e 0 8))))
      else .one (.ok (.ffma f.nw f.d f.a f.b))) := by
  rw [row2 f (by rw [h]; rfl), h]; rfl

theorem op2C (f : FirstWord) (h : f.op = 0x2C#8) : decodeForm f =
    (if f.b == 0x8F#8 then .two (fun e => req (bits e 24 8 == 0x88#8 && bits e 20 4 == 0#4 && bits e 8 8 == 0#8) .reservedField (.ok (.fminExt f.nw f.d f.a (bits e 16 4) (bits e 0 8))))
      else .one (.ok (.fmin f.nw f.d f.a f.b))) := by
  rw [row2 f (by rw [h]; rfl), h]; rfl

theorem op2D (f : FirstWord) (h : f.op = 0x2D#8) : decodeForm f =
    (if f.b == 0x8F#8 then .two (fun e => req (bits e 24 8 == 0x88#8 && bits e 20 4 == 0#4 && bits e 8 8 == 0#8) .reservedField (.ok (.fmaxExt f.nw f.d f.a (bits e 16 4) (bits e 0 8))))
      else .one (.ok (.fmax f.nw f.d f.a f.b))) := by
  rw [row2 f (by rw [h]; rfl), h]; rfl

theorem op2E (f : FirstWord) (h : f.op = 0x2E#8) : decodeForm f =
    (if f.b == 0x8F#8 then .two (fun e => req (bits e 24 8 == 0x88#8 && bits e 20 4 == 0#4 && bits e 8 8 == 0#8) .reservedField (.ok (.fminnExt f.nw f.d f.a (bits e 16 4) (bits e 0 8))))
      else .one (.ok (.fminn f.nw f.d f.a f.b))) := by
  rw [row2 f (by rw [h]; rfl), h]; rfl

theorem op2F (f : FirstWord) (h : f.op = 0x2F#8) : decodeForm f =
    (if f.b == 0x8F#8 then .two (fun e => req (bits e 24 8 == 0x88#8 && bits e 20 4 == 0#4 && bits e 8 8 == 0#8) .reservedField (.ok (.fmaxnExt f.nw f.d f.a (bits e 16 4) (bits e 0 8))))
      else .one (.ok (.fmaxn f.nw f.d f.a f.b))) := by
  rw [row2 f (by rw [h]; rfl), h]; rfl

theorem op30 (f : FirstWord) (h : f.op = 0x30#8) : decodeForm f =
    (.two (fun e => req (bits e 0 16 == 0#16) .reservedField (.ok (.fcmp f.nw f.d f.a f.b (bits e 24 8) (bits e 20 4) (bits e 16 4))))) := by
  rw [row3 f (by rw [h]; rfl), h]; rfl

theorem op31 (f : FirstWord) (h : f.op = 0x31#8) : decodeForm f =
    (if f.b == 0x8F#8 then .two (fun e => req (bits e 24 8 == 0x88#8 && bits e 20 4 == 0#4 && bits e 8 8 == 0#8 && bits e 0 8 == 136#8) .reservedField (.ok (.fclassExt f.nw f.d f.a (bits e 16 4))))
      else .one (req (f.b == 0x88#8) .reservedField (.ok (.fclass f.nw f.d f.a)))) := by
  rw [row3 f (by rw [h]; rfl), h]; rfl

theorem op32 (f : FirstWord) (h : f.op = 0x32#8) : decodeForm f =
    (if f.b == 0x8F#8 then .two (fun e => req (bits e 24 8 == 0x88#8 && bits e 20 4 == 0#4 && bits e 8 8 == 0#8 && bits e 0 8 == 136#8) .reservedField (.ok (.frcpExt f.nw f.d f.a (bits e 16 4))))
      else .one (req (f.b == 0x88#8) .reservedField (.ok (.frcp f.nw f.d f.a)))) := by
  rw [row3 f (by rw [h]; rfl), h]; rfl

theorem op33 (f : FirstWord) (h : f.op = 0x33#8) : decodeForm f =
    (if f.b == 0x8F#8 then .two (fun e => req (bits e 24 8 == 0x88#8 && bits e 20 4 == 0#4 && bits e 8 8 == 0#8 && bits e 0 8 == 136#8) .reservedField (.ok (.frsqExt f.nw f.d f.a (bits e 16 4))))
      else .one (req (f.b == 0x88#8) .reservedField (.ok (.frsq f.nw f.d f.a)))) := by
  rw [row3 f (by rw [h]; rfl), h]; rfl

theorem op34 (f : FirstWord) (h : f.op = 0x34#8) : decodeForm f =
    (if f.b == 0x8F#8 then .two (fun e => req (bits e 24 8 == 0x88#8 && bits e 20 4 == 0#4 && bits e 8 8 == 0#8 && bits e 0 8 == 136#8) .reservedField (.ok (.fexp2Ext f.nw f.d f.a (bits e 16 4))))
      else .one (req (f.b == 0x88#8) .reservedField (.ok (.fexp2 f.nw f.d f.a)))) := by
  rw [row3 f (by rw [h]; rfl), h]; rfl

theorem op35 (f : FirstWord) (h : f.op = 0x35#8) : decodeForm f =
    (if f.b == 0x8F#8 then .two (fun e => req (bits e 24 8 == 0x88#8 && bits e 20 4 == 0#4 && bits e 8 8 == 0#8 && bits e 0 8 == 136#8) .reservedField (.ok (.flog2Ext f.nw f.d f.a (bits e 16 4))))
      else .one (req (f.b == 0x88#8) .reservedField (.ok (.flog2 f.nw f.d f.a)))) := by
  rw [row3 f (by rw [h]; rfl), h]; rfl

theorem op36 (f : FirstWord) (h : f.op = 0x36#8) : decodeForm f =
    (if f.b == 0x8F#8 then .two (fun e => req (bits e 24 8 == 0x88#8 && bits e 20 4 == 0#4 && bits e 8 8 == 0#8 && bits e 0 8 == 136#8) .reservedField (.ok (.fsinpiExt f.nw f.d f.a (bits e 16 4))))
      else .one (req (f.b == 0x88#8) .reservedField (.ok (.fsinpi f.nw f.d f.a)))) := by
  rw [row3 f (by rw [h]; rfl), h]; rfl

theorem op37 (f : FirstWord) (h : f.op = 0x37#8) : decodeForm f =
    (if f.b == 0x8F#8 then .two (fun e => req (bits e 24 8 == 0x88#8 && bits e 20 4 == 0#4 && bits e 8 8 == 0#8 && bits e 0 8 == 136#8) .reservedField (.ok (.fcospiExt f.nw f.d f.a (bits e 16 4))))
      else .one (req (f.b == 0x88#8) .reservedField (.ok (.fcospi f.nw f.d f.a)))) := by
  rw [row3 f (by rw [h]; rfl), h]; rfl

theorem op38 (f : FirstWord) (h : f.op = 0x38#8) : decodeForm f =
    (if f.b == 0x8F#8 then .two (fun e => req (bits e 24 8 == 0x88#8 && bits e 20 4 == 0#4 && bits e 8 8 == 0#8 && bits e 0 8 == 136#8) .reservedField (.ok (.fsqrtExt f.nw f.d f.a (bits e 16 4))))
      else .one (req (f.b == 0x88#8) .reservedField (.ok (.fsqrt f.nw f.d f.a)))) := by
  rw [row3 f (by rw [h]; rfl), h]; rfl

theorem op39 (f : FirstWord) (h : f.op = 0x39#8) : decodeForm f =
    (if f.b == 0x8F#8 then .two (fun e => req (bits e 24 8 == 0x88#8 && bits e 20 4 == 0#4 && bits e 8 8 == 0#8 && bits e 0 8 == 136#8) .reservedField (.ok (.frndExt f.nw f.d f.a (bits e 16 4))))
      else .one (req (f.b == 0x88#8) .reservedField (.ok (.frnd f.nw f.d f.a)))) := by
  rw [row3 f (by rw [h]; rfl), h]; rfl

theorem op3A (f : FirstWord) (h : f.op = 0x3A#8) : decodeForm f =
    (.two (fun e => req (f.b == 0x88#8 && bits e 24 8 == 0x88#8 && bits e 20 4 == 0#4 && bits e 7 9 == 0#9) .reservedField (.ok (.cvt f.nw f.d f.a (bits e 16 4) (bits e 4 3) (bits e 0 4))))) := by
  rw [row3 f (by rw [h]; rfl), h]; rfl

theorem op3B (f : FirstWord) (h : f.op = 0x3B#8) : decodeForm f =
    (.two (fun e => req (bits e 24 8 == 0x88#8 && bits e 20 4 == 0#4 && bits e 7 9 == 0#9) .reservedField (.ok (.cvtsc f.nw f.d f.a f.b (bits e 16 4) (bits e 4 3) (bits e 0 4))))) := by
  rw [row3 f (by rw [h]; rfl), h]; rfl

theorem op3C (f : FirstWord) (h : f.op = 0x3C#8) : decodeForm f =
    (.two (fun e => req (bits e 24 8 == 0x88#8 && bits e 20 4 == 0#4 && bits e 3 13 == 0#13) .reservedField (.ok (.pack f.nw f.d f.a f.b (bits e 16 4) (bits e 0 3))))) := by
  rw [row3 f (by rw [h]; rfl), h]; rfl

theorem op3D (f : FirstWord) (h : f.op = 0x3D#8) : decodeForm f =
    (.two (fun e => req (f.b == 0x88#8 && bits e 24 8 == 0x88#8 && bits e 20 4 == 0#4 && bits e 3 13 == 0#13) .reservedField (.ok (.unpk f.nw f.d f.a (bits e 16 4) (bits e 0 3))))) := by
  rw [row3 f (by rw [h]; rfl), h]; rfl

theorem op3E (f : FirstWord) (h : f.op = 0x3E#8) : decodeForm f =
    (if f.b == 0x8F#8 then .two (fun e => req (bits e 20 4 == 0#4 && bits e 8 8 == 0#8) .reservedField (.ok (.idot4Ext f.nw f.d f.a (bits e 24 8) (bits e 16 4) (bits e 0 8))))
      else .one (.ok (.idot4 f.nw f.d f.a f.b))) := by
  rw [row3 f (by rw [h]; rfl), h]; rfl

theorem op3F (f : FirstWord) (h : f.op = 0x3F#8) : decodeForm f =
    (if f.b == 0x8F#8 then .two (fun e => req (bits e 20 4 == 0#4 && bits e 8 8 == 0#8) .reservedField (.ok (.fdot2Ext f.nw f.d f.a (bits e 24 8) (bits e 16 4) (bits e 0 8))))
      else .one (.ok (.fdot2 f.nw f.d f.a f.b))) := by
  rw [row3 f (by rw [h]; rfl), h]; rfl

theorem op40 (f : FirstWord) (h : f.op = 0x40#8) : decodeForm f =
    (if f.b == 0x8F#8 then .two (fun e => req (bits e 20 4 == 0#4 && bits e 8 8 == 0#8) .reservedField (.ok (.shflExt f.nw f.d f.a (bits e 24 8) (bits e 16 4) (bits e 0 8))))
      else .one (.ok (.shfl f.nw f.d f.a f.b))) := by
  rw [row4 f (by rw [h]; rfl), h]; rfl

theorem op41 (f : FirstWord) (h : f.op = 0x41#8) : decodeForm f =
    (if f.b == 0x8F#8 then .two (fun e => req (bits e 20 4 == 0#4 && bits e 8 8 == 0#8) .reservedField (.ok (.shflupExt f.nw f.d f.a (bits e 24 8) (bits e 16 4) (bits e 0 8))))
      else .one (.ok (.shflup f.nw f.d f.a f.b))) := by
  rw [row4 f (by rw [h]; rfl), h]; rfl

theorem op42 (f : FirstWord) (h : f.op = 0x42#8) : decodeForm f =
    (if f.b == 0x8F#8 then .two (fun e => req (bits e 20 4 == 0#4 && bits e 8 8 == 0#8) .reservedField (.ok (.shfldnExt f.nw f.d f.a (bits e 24 8) (bits e 16 4) (bits e 0 8))))
      else .one (.ok (.shfldn f.nw f.d f.a f.b))) := by
  rw [row4 f (by rw [h]; rfl), h]; rfl

theorem op43 (f : FirstWord) (h : f.op = 0x43#8) : decodeForm f =
    (if f.b == 0x8F#8 then .two (fun e => req (bits e 20 4 == 0#4 && bits e 8 8 == 0#8) .reservedField (.ok (.shflxExt f.nw f.d f.a (bits e 24 8) (bits e 16 4) (bits e 0 8))))
      else .one (.ok (.shflx f.nw f.d f.a f.b))) := by
  rw [row4 f (by rw [h]; rfl), h]; rfl

theorem op44 (f : FirstWord) (h : f.op = 0x44#8) : decodeForm f =
    (.two (fun e => req (f.b == 0x88#8 && bits e 24 8 == 0x88#8 && bits e 20 4 == 0#4 && bits e 4 12 == 0#12) .reservedField (.ok (.lred f.nw f.d f.a (bits e 16 4) (bits e 0 4))))) := by
  rw [row4 f (by rw [h]; rfl), h]; rfl

theorem op45 (f : FirstWord) (h : f.op = 0x45#8) : decodeForm f =
    (.two (fun e => req (f.b == 0x88#8 && bits e 20 4 == 0#4 && bits e 5 11 == 0#11) .reservedField (.ok (.lscan f.nw f.d f.a (bits e 24 8) (bits e 16 4) (bits e 4 1) (bits e 0 4))))) := by
  rw [row4 f (by rw [h]; rfl), h]; rfl

theorem op46 (f : FirstWord) (h : f.op = 0x46#8) : decodeForm f =
    (.two (fun e => req (f.b == 0x88#8 && bits e 24 8 == 0x88#8 && bits e 2 22 == 0#22) .reservedField (.ok (.vote f.nw f.d f.a (bits e 0 2))))) := by
  rw [row4 f (by rw [h]; rfl), h]; rfl

theorem op47 (f : FirstWord) (h : f.op = 0x47#8) : decodeForm f =
    (.two (fun e => req (bits e 0 24 == 0#24) .reservedField (.ok (.bcast f.nw f.d f.a f.b (bits e 24 8))))) := by
  rw [row4 f (by rw [h]; rfl), h]; rfl

theorem op48 (f : FirstWord) (h : f.op = 0x48#8) : decodeForm f =
    (.two (fun e => req (!f.nw) .nwWithoutPush (req (f.d == 0#7 && f.b == 0x88#8 && bits e 24 8 == 0x88#8 && bits e 7 17 == 0#17) .reservedField (.ok (.rvsend f.a (bits e 4 3) (bits e 0 4)))))) := by
  rw [row4 f (by rw [h]; rfl), h]; rfl

theorem op49 (f : FirstWord) (h : f.op = 0x49#8) : decodeForm f =
    (.two (fun e => req (!f.nw) .nwWithoutPush (req (f.a == 0x88#8 && f.b == 0x88#8 && bits e 7 17 == 0#17) .reservedField (.ok (.rvrecv f.d (bits e 24 8) (bits e 4 3) (bits e 0 4)))))) := by
  rw [row4 f (by rw [h]; rfl), h]; rfl

theorem op4A (f : FirstWord) (h : f.op = 0x4A#8) : decodeForm f =
    (.two (fun e => req (!f.nw) .nwWithoutPush (req (f.b == 0x88#8 && bits e 24 8 == 0x88#8 && bits e 10 14 == 0#14) .reservedField (.ok (.xchgx f.d f.a (bits e 8 2) (bits e 0 8)))))) := by
  rw [row4 f (by rw [h]; rfl), h]; rfl

theorem op4B (f : FirstWord) (h : f.op = 0x4B#8) : decodeForm f =
    (.one (.ok (.lnsadd f.nw f.d f.a f.b))) := by
  rw [row4 f (by rw [h]; rfl), h]; rfl

theorem op4C (f : FirstWord) (h : f.op = 0x4C#8) : decodeForm f =
    (.one (.ok (.lnsmul f.nw f.d f.a f.b))) := by
  rw [row4 f (by rw [h]; rfl), h]; rfl

theorem op50 (f : FirstWord) (h : f.op = 0x50#8) : decodeForm f =
    (.two (fun e => req (!f.nw) .nwWithoutPush (req (f.b == 0x88#8 && bits e 24 8 == 0x88#8) .reservedField (req (scopeRead (bits e 11 2) (bits e 13 3)) .scopeUnread (.ok (.ld f.d f.a (bits e 20 4) (bits e 16 4) (bits e 13 3) (bits e 11 2) (bits e 0 11))))))) := by
  rw [row5 f (by rw [h]; rfl), h]; rfl

theorem op51 (f : FirstWord) (h : f.op = 0x51#8) : decodeForm f =
    (.two (fun e => req (!f.nw) .nwWithoutPush (req (f.d == 0#7 && bits e 24 8 == 0x88#8) .reservedField (req (scopeRead (bits e 11 2) (bits e 13 3)) .scopeUnread (.ok (.st f.a f.b (bits e 20 4) (bits e 16 4) (bits e 13 3) (bits e 11 2) (bits e 0 11))))))) := by
  rw [row5 f (by rw [h]; rfl), h]; rfl

theorem op52 (f : FirstWord) (h : f.op = 0x52#8) : decodeForm f =
    (.two (fun e => req (!f.nw) .nwWithoutPush (req (f.b == 0x88#8 && bits e 24 8 == 0x88#8 && bits e 11 1 == 0#1) .reservedField (.ok (.lds f.d f.a (bits e 20 4) (bits e 16 4) (bits e 14 2) (bits e 12 2) (bits e 0 11)))))) := by
  rw [row5 f (by rw [h]; rfl), h]; rfl

theorem op53 (f : FirstWord) (h : f.op = 0x53#8) : decodeForm f =
    (.two (fun e => req (!f.nw) .nwWithoutPush (req (f.d == 0#7 && bits e 24 8 == 0x88#8 && bits e 11 1 == 0#1) .reservedField (.ok (.sts f.a f.b (bits e 20 4) (bits e 16 4) (bits e 14 2) (bits e 12 2) (bits e 0 11)))))) := by
  rw [row5 f (by rw [h]; rfl), h]; rfl

theorem op54 (f : FirstWord) (h : f.op = 0x54#8) : decodeForm f =
    (.two (fun e => req (!f.nw) .nwWithoutPush (req (bits e 24 8 == 0x88#8) .reservedField (req (scopeRead (bits e 11 2) (bits e 13 3)) .scopeUnread (.ok (.atom f.d f.a f.b (bits e 20 4) (bits e 16 4) (bits e 13 3) (bits e 11 2) (bits e 6 5) (bits e 0 6))))))) := by
  rw [row5 f (by rw [h]; rfl), h]; rfl

theorem op55 (f : FirstWord) (h : f.op = 0x55#8) : decodeForm f =
    (.two (fun e => req (!f.nw) .nwWithoutPush (req (f.d == 0#7 && bits e 24 8 == 0x88#8) .reservedField (req (scopeRead (bits e 11 2) (bits e 13 3)) .scopeUnread (.ok (.red f.a f.b (bits e 20 4) (bits e 16 4) (bits e 13 3) (bits e 11 2) (bits e 6 5) (bits e 0 6))))))) := by
  rw [row5 f (by rw [h]; rfl), h]; rfl

theorem op56 (f : FirstWord) (h : f.op = 0x56#8) : decodeForm f =
    (.two (fun e => req (!f.nw) .nwWithoutPush (req (bits e 6 4 == 0#4) .reservedField (req (scopeRead (bits e 11 2) (bits e 13 3)) .scopeUnread (.ok (.cas f.d f.a f.b (bits e 24 8) (bits e 20 4) (bits e 16 4) (bits e 13 3) (bits e 11 2) (bits e 10 1) (bits e 0 6))))))) := by
  rw [row5 f (by rw [h]; rfl), h]; rfl

theorem op57 (f : FirstWord) (h : f.op = 0x57#8) : decodeForm f =
    (.two (fun e => req (!f.nw) .nwWithoutPush (req (bits e 16 4 == 0#4 && bits e 1 10 == 0#10) .reservedField (req (scopeRead (bits e 11 2) (bits e 13 3)) .scopeUnread (.ok (.kvmap f.d f.a f.b (bits e 24 8) (bits e 20 4) (bits e 13 3) (bits e 11 2) (bits e 0 1))))))) := by
  rw [row5 f (by rw [h]; rfl), h]; rfl

theorem op58 (f : FirstWord) (h : f.op = 0x58#8) : decodeForm f =
    (.two (fun e => req (!f.nw) .nwWithoutPush (req (f.d == 0#7 && bits e 16 4 == 0#4 && bits e 0 11 == 0#11) .reservedField (req (scopeRead (bits e 11 2) (bits e 13 3)) .scopeUnread (.ok (.kvapp f.a f.b (bits e 24 8) (bits e 20 4) (bits e 13 3) (bits e 11 2))))))) := by
  rw [row5 f (by rw [h]; rfl), h]; rfl

theorem op60 (f : FirstWord) (h : f.op = 0x60#8) : decodeForm f =
    (.one (req (!f.nw) .nwWithoutPush (.ok (.qadd f.d f.a f.b)))) := by
  rw [row6 f (by rw [h]; rfl), h]; rfl

theorem op61 (f : FirstWord) (h : f.op = 0x61#8) : decodeForm f =
    (.one (req (!f.nw) .nwWithoutPush (.ok (.qsub f.d f.a f.b)))) := by
  rw [row6 f (by rw [h]; rfl), h]; rfl

theorem op62 (f : FirstWord) (h : f.op = 0x62#8) : decodeForm f =
    (.one (req (!f.nw) .nwWithoutPush (.ok (.qmul f.d f.a f.b)))) := by
  rw [row6 f (by rw [h]; rfl), h]; rfl

theorem op63 (f : FirstWord) (h : f.op = 0x63#8) : decodeForm f =
    (.one (req (!f.nw) .nwWithoutPush (.ok (.qdiv f.d f.a f.b)))) := by
  rw [row6 f (by rw [h]; rfl), h]; rfl

theorem op64 (f : FirstWord) (h : f.op = 0x64#8) : decodeForm f =
    (.one (req (!f.nw) .nwWithoutPush (req (f.b == 0x88#8) .reservedField (.ok (.qneg f.d f.a))))) := by
  rw [row6 f (by rw [h]; rfl), h]; rfl

theorem op65 (f : FirstWord) (h : f.op = 0x65#8) : decodeForm f =
    (.one (req (!f.nw) .nwWithoutPush (.ok (.qenc f.d f.a f.b)))) := by
  rw [row6 f (by rw [h]; rfl), h]; rfl

theorem op66 (f : FirstWord) (h : f.op = 0x66#8) : decodeForm f =
    (.one (req (!f.nw) .nwWithoutPush (req (f.b == 0x88#8) .reservedField (.ok (.qdec f.d f.a))))) := by
  rw [row6 f (by rw [h]; rfl), h]; rfl

theorem op80 (f : FirstWord) (h : f.op = 0x80#8) : decodeForm f =
    (.one (req (!f.nw) .nwWithoutPush (req (f.d == 0#7 && f.a == 0x00#8 && f.b == 0x00#8) .reservedField (.ok .nop)))) := by
  rw [row8 f (by rw [h]; rfl), h]; rfl

theorem op81 (f : FirstWord) (h : f.op = 0x81#8) : decodeForm f =
    (.one (.ok (.sadd f.nw f.d f.a f.b))) := by
  rw [row8 f (by rw [h]; rfl), h]; rfl

theorem op82 (f : FirstWord) (h : f.op = 0x82#8) : decodeForm f =
    (.one (.ok (.ssub f.nw f.d f.a f.b))) := by
  rw [row8 f (by rw [h]; rfl), h]; rfl

theorem op83 (f : FirstWord) (h : f.op = 0x83#8) : decodeForm f =
    (.one (.ok (.smul f.nw f.d f.a f.b))) := by
  rw [row8 f (by rw [h]; rfl), h]; rfl

theorem op84 (f : FirstWord) (h : f.op = 0x84#8) : decodeForm f =
    (.one (.ok (.sand f.nw f.d f.a f.b))) := by
  rw [row8 f (by rw [h]; rfl), h]; rfl

theorem op85 (f : FirstWord) (h : f.op = 0x85#8) : decodeForm f =
    (.one (.ok (.sor f.nw f.d f.a f.b))) := by
  rw [row8 f (by rw [h]; rfl), h]; rfl

theorem op86 (f : FirstWord) (h : f.op = 0x86#8) : decodeForm f =
    (.one (.ok (.sxor f.nw f.d f.a f.b))) := by
  rw [row8 f (by rw [h]; rfl), h]; rfl

theorem op87 (f : FirstWord) (h : f.op = 0x87#8) : decodeForm f =
    (.one (.ok (.sshl f.nw f.d f.a f.b))) := by
  rw [row8 f (by rw [h]; rfl), h]; rfl

theorem op88 (f : FirstWord) (h : f.op = 0x88#8) : decodeForm f =
    (.one (.ok (.sshr f.nw f.d f.a f.b))) := by
  rw [row8 f (by rw [h]; rfl), h]; rfl

theorem op89 (f : FirstWord) (h : f.op = 0x89#8) : decodeForm f =
    (.one (.ok (.ssar f.nw f.d f.a f.b))) := by
  rw [row8 f (by rw [h]; rfl), h]; rfl

theorem op8A (f : FirstWord) (h : f.op = 0x8A#8) : decodeForm f =
    (.one (.ok (.smin f.nw f.d f.a f.b))) := by
  rw [row8 f (by rw [h]; rfl), h]; rfl

theorem op8B (f : FirstWord) (h : f.op = 0x8B#8) : decodeForm f =
    (.one (.ok (.smax f.nw f.d f.a f.b))) := by
  rw [row8 f (by rw [h]; rfl), h]; rfl

theorem op8C (f : FirstWord) (h : f.op = 0x8C#8) : decodeForm f =
    (.one (req (f.b == 0x88#8) .reservedField (.ok (.smov f.nw f.d f.a)))) := by
  rw [row8 f (by rw [h]; rfl), h]; rfl

theorem op8D (f : FirstWord) (h : f.op = 0x8D#8) : decodeForm f =
    (.one (req (f.b == 0x88#8) .reservedField (.ok (.spopc f.nw f.d f.a)))) := by
  rw [row8 f (by rw [h]; rfl), h]; rfl

theorem op8E (f : FirstWord) (h : f.op = 0x8E#8) : decodeForm f =
    (.one (req (f.b == 0x88#8) .reservedField (.ok (.sclz f.nw f.d f.a)))) := by
  rw [row8 f (by rw [h]; rfl), h]; rfl

theorem op8F (f : FirstWord) (h : f.op = 0x8F#8) : decodeForm f =
    (.one (req (f.b == 0x88#8) .reservedField (.ok (.sffs f.nw f.d f.a)))) := by
  rw [row8 f (by rw [h]; rfl), h]; rfl

theorem op90 (f : FirstWord) (h : f.op = 0x90#8) : decodeForm f =
    (.one (.ok (.saddi f.nw f.d f.imm16))) := by
  rw [row9 f (by rw [h]; rfl), h]; rfl

theorem op91 (f : FirstWord) (h : f.op = 0x91#8) : decodeForm f =
    (.one (.ok (.smovi f.nw f.d f.imm16))) := by
  rw [row9 f (by rw [h]; rfl), h]; rfl

theorem op92 (f : FirstWord) (h : f.op = 0x92#8) : decodeForm f =
    (.one (.ok (.smovl f.nw f.d f.imm16))) := by
  rw [row9 f (by rw [h]; rfl), h]; rfl

theorem op93 (f : FirstWord) (h : f.op = 0x93#8) : decodeForm f =
    (.one (.ok (.smovh f.nw f.d f.imm16))) := by
  rw [row9 f (by rw [h]; rfl), h]; rfl

theorem op94 (f : FirstWord) (h : f.op = 0x94#8) : decodeForm f =
    (.two (fun e => req (bits e 24 8 == 0x88#8 && bits e 0 20 == 0#20) .reservedField (.ok (.scmp f.nw f.d f.a f.b (bits e 20 4))))) := by
  rw [row9 f (by rw [h]; rfl), h]; rfl

theorem op95 (f : FirstWord) (h : f.op = 0x95#8) : decodeForm f =
    (.one (.ok (.mfs f.nw f.d f.imm16))) := by
  rw [row9 f (by rw [h]; rfl), h]; rfl

theorem op96 (f : FirstWord) (h : f.op = 0x96#8) : decodeForm f =
    (.one (req (!f.nw) .nwWithoutPush (.ok (.mts f.d f.imm16)))) := by
  rw [row9 f (by rw [h]; rfl), h]; rfl

theorem op97 (f : FirstWord) (h : f.op = 0x97#8) : decodeForm f =
    (.two (fun e => if bits e 0 1 == 0#1 then req (!f.nw) .nwWithoutPush (req (f.b == 0x88#8 && bits e 24 8 == 0x88#8 && bits e 0 24 == 0#24) .reservedField (.ok (.mvtcTo f.d f.a)))
      else req (f.b == 0x88#8 && bits e 24 8 == 0x88#8 && bits e 1 23 == 0#23 && bits e 0 1 == 1#1) .reservedField (.ok (.mvtcFrom f.nw f.d f.a)))) := by
  rw [row9 f (by rw [h]; rfl), h]; rfl

theorem opA0 (f : FirstWord) (h : f.op = 0xA0#8) : decodeForm f =
    (.one (.ok (.bra (f.off24)))) := by
  rw [rowA f (by rw [h]; rfl), h]; rfl

theorem opA1 (f : FirstWord) (h : f.op = 0xA1#8) : decodeForm f =
    (.one (.ok (.call (f.off24)))) := by
  rw [rowA f (by rw [h]; rfl), h]; rfl

theorem opA2 (f : FirstWord) (h : f.op = 0xA2#8) : decodeForm f =
    (.one (req (!f.nw) .nwWithoutPush (.ok (.brz f.d f.imm16)))) := by
  rw [rowA f (by rw [h]; rfl), h]; rfl

theorem opA3 (f : FirstWord) (h : f.op = 0xA3#8) : decodeForm f =
    (.one (req (!f.nw) .nwWithoutPush (.ok (.brnz f.d f.imm16)))) := by
  rw [rowA f (by rw [h]; rfl), h]; rfl

theorem opA4 (f : FirstWord) (h : f.op = 0xA4#8) : decodeForm f =
    (.one (req (!f.nw) .nwWithoutPush (.ok (.brany f.d f.imm16)))) := by
  rw [rowA f (by rw [h]; rfl), h]; rfl

theorem opA5 (f : FirstWord) (h : f.op = 0xA5#8) : decodeForm f =
    (.one (req (!f.nw) .nwWithoutPush (.ok (.brall f.d f.imm16)))) := by
  rw [rowA f (by rw [h]; rfl), h]; rfl

theorem opA6 (f : FirstWord) (h : f.op = 0xA6#8) : decodeForm f =
    (.one (req (!f.nw) .nwWithoutPush (.ok (.brnone f.d f.imm16)))) := by
  rw [rowA f (by rw [h]; rfl), h]; rfl

theorem opA7 (f : FirstWord) (h : f.op = 0xA7#8) : decodeForm f =
    (.one (req (!f.nw) .nwWithoutPush (.ok (.loop f.d f.imm16)))) := by
  rw [rowA f (by rw [h]; rfl), h]; rfl

theorem opA8 (f : FirstWord) (h : f.op = 0xA8#8) : decodeForm f =
    (.one (req (!f.nw) .nwWithoutPush (req (f.d == 0#7 && f.b == 0x88#8) .reservedField (.ok (.ret f.a))))) := by
  rw [rowA f (by rw [h]; rfl), h]; rfl

theorem opA9 (f : FirstWord) (h : f.op = 0xA9#8) : decodeForm f =
    (.one (req (f.b == 0x88#8) .reservedField (.ok (.jmpr f.nw f.d f.a)))) := by
  rw [rowA f (by rw [h]; rfl), h]; rfl

theorem opAA (f : FirstWord) (h : f.op = 0xAA#8) : decodeForm f =
    (.one (req (!f.nw) .nwWithoutPush (req (f.d == 0#7 && f.a == 0x88#8 && f.b == 0x88#8) .reservedField (.ok .exit)))) := by
  rw [rowA f (by rw [h]; rfl), h]; rfl

theorem opAB (f : FirstWord) (h : f.op = 0xAB#8) : decodeForm f =
    (.one (req (!f.nw) .nwWithoutPush (req (f.d == 0#7 && f.b == 0x88#8) .reservedField (.ok (.exmand f.a))))) := by
  rw [rowA f (by rw [h]; rfl), h]; rfl

theorem opAC (f : FirstWord) (h : f.op = 0xAC#8) : decodeForm f =
    (.one (req (!f.nw) .nwWithoutPush (req (f.d == 0#7 && f.b == 0x88#8) .reservedField (.ok (.exmset f.a))))) := by
  rw [rowA f (by rw [h]; rfl), h]; rfl

theorem opAD (f : FirstWord) (h : f.op = 0xAD#8) : decodeForm f =
    (.one (req (!f.nw) .nwWithoutPush (req (f.d == 0#7) .reservedField (.ok (.trap f.imm16))))) := by
  rw [rowA f (by rw [h]; rfl), h]; rfl

theorem opAE (f : FirstWord) (h : f.op = 0xAE#8) : decodeForm f =
    (.one (req (!f.nw) .nwWithoutPush (req (f.d == 0#7 && f.a == 0x88#8 && f.b == 0x88#8) .reservedField (.ok .tret)))) := by
  rw [rowA f (by rw [h]; rfl), h]; rfl

theorem opAF (f : FirstWord) (h : f.op = 0xAF#8) : decodeForm f =
    (.one (req (!f.nw) .nwWithoutPush (req (f.d == 0#7 && f.a == 0x88#8 && f.b == 0x88#8) .reservedField (.ok .ckpt)))) := by
  rw [rowA f (by rw [h]; rfl), h]; rfl

theorem opB0 (f : FirstWord) (h : f.op = 0xB0#8) : decodeForm f =
    (.one (req (!f.nw) .nwWithoutPush (req (bits f.word 0 12 == 0#12) .reservedField (.ok (.rep (bits f.word 17 6) (bits f.word 16 1) (bits f.word 15 1) (bits f.word 14 1) (bits f.word 12 2)))))) := by
  rw [rowB f (by rw [h]; rfl), h]; rfl

theorem opB1 (f : FirstWord) (h : f.op = 0xB1#8) : decodeForm f =
    (.one (req (!f.nw) .nwWithoutPush (.ok (.mcall f.d f.a f.b)))) := by
  rw [rowB f (by rw [h]; rfl), h]; rfl

theorem opB2 (f : FirstWord) (h : f.op = 0xB2#8) : decodeForm f =
    (.one (req (!f.nw) .nwWithoutPush (req (f.d == 0#7 && f.a == 0x88#8 && f.b == 0x88#8) .reservedField (.ok .yield_)))) := by
  rw [rowB f (by rw [h]; rfl), h]; rfl

theorem opB3 (f : FirstWord) (h : f.op = 0xB3#8) : decodeForm f =
    (.one (req (f.b == 0x88#8) .reservedField (.ok (.elect f.nw f.d f.a)))) := by
  rw [rowB f (by rw [h]; rfl), h]; rfl

theorem opB8 (f : FirstWord) (h : f.op = 0xB8#8) : decodeForm f =
    (.two (fun e => req (!f.nw) .nwWithoutPush (req (f.d == 0#7 && f.a == 0x88#8 && f.b == 0x88#8 && bits e 24 8 == 0x88#8 && bits e 16 8 == 0#8 && bits e 4 7 == 0#7) .reservedField (.ok (.bar (bits e 13 3) (bits e 11 2) (bits e 0 4)))))) := by
  rw [rowB f (by rw [h]; rfl), h]; rfl

theorem opB9 (f : FirstWord) (h : f.op = 0xB9#8) : decodeForm f =
    (.two (fun e => req (!f.nw) .nwWithoutPush (req (f.d == 0#7 && f.a == 0x88#8 && f.b == 0x88#8 && bits e 24 8 == 0x88#8 && bits e 16 8 == 0#8 && bits e 4 7 == 0#7) .reservedField (.ok (.bararv (bits e 13 3) (bits e 11 2) (bits e 0 4)))))) := by
  rw [rowB f (by rw [h]; rfl), h]; rfl

theorem opBA (f : FirstWord) (h : f.op = 0xBA#8) : decodeForm f =
    (.two (fun e => req (!f.nw) .nwWithoutPush (req (f.d == 0#7 && f.a == 0x88#8 && f.b == 0x88#8 && bits e 24 8 == 0x88#8 && bits e 16 8 == 0#8 && bits e 4 7 == 0#7) .reservedField (.ok (.barwt (bits e 13 3) (bits e 11 2) (bits e 0 4)))))) := by
  rw [rowB f (by rw [h]; rfl), h]; rfl

theorem opBB (f : FirstWord) (h : f.op = 0xBB#8) : decodeForm f =
    (.two (fun e => req (!f.nw) .nwWithoutPush (req (f.d == 0#7 && f.a == 0x88#8 && f.b == 0x88#8 && bits e 24 8 == 0x88#8 && bits e 16 4 == 0#4 && bits e 0 11 == 0#11) .reservedField (.ok (.fence (bits e 20 4) (bits e 13 3) (bits e 11 2)))))) := by
  rw [rowB f (by rw [h]; rfl), h]; rfl

theorem opBC (f : FirstWord) (h : f.op = 0xBC#8) : decodeForm f =
    (.two (fun e => req (!f.nw) .nwWithoutPush (req (f.d == 0#7 && f.b == 0x88#8 && bits e 24 8 == 0x88#8 && bits e 16 8 == 0#8 && bits e 0 11 == 0#11) .reservedField (.ok (.sfence f.a (bits e 13 3) (bits e 11 2)))))) := by
  rw [rowB f (by rw [h]; rfl), h]; rfl

theorem opBD (f : FirstWord) (h : f.op = 0xBD#8) : decodeForm f =
    (.two (fun e => req (!f.nw) .nwWithoutPush (req (f.a == 0x88#8 && f.b == 0x88#8 && bits e 24 8 == 0x88#8 && bits e 16 8 == 0#8 && bits e 8 3 == 0#3) .reservedField (req (scopeRead (bits e 11 2) (bits e 13 3)) .scopeUnread (.ok (.qfence f.d (bits e 13 3) (bits e 11 2) (bits e 0 8))))))) := by
  rw [rowB f (by rw [h]; rfl), h]; rfl

theorem opBE (f : FirstWord) (h : f.op = 0xBE#8) : decodeForm f =
    (.one (req (!f.nw) .nwWithoutPush (req (f.d == 0#7) .reservedField (.ok (.qpush f.a f.b))))) := by
  rw [rowB f (by rw [h]; rfl), h]; rfl

theorem opBF (f : FirstWord) (h : f.op = 0xBF#8) : decodeForm f =
    (.one (req (!f.nw) .nwWithoutPush (req (f.a == 0x88#8) .reservedField (.ok (.qpop f.d f.b))))) := by
  rw [rowB f (by rw [h]; rfl), h]; rfl

theorem opC0 (f : FirstWord) (h : f.op = 0xC0#8) : decodeForm f =
    (.two (fun e => req (!f.nw) .nwWithoutPush (req (f.d == 0#7 && f.b == 0x88#8 && bits e 24 8 == 0x88#8 && bits e 16 8 == 0#8 && bits e 2 9 == 0#9) .reservedField (req (scopeRead (bits e 11 2) (bits e 13 3)) .scopeUnread (.ok (.evset f.a (bits e 13 3) (bits e 11 2) (bits e 0 2))))))) := by
  rw [rowC f (by rw [h]; rfl), h]; rfl

theorem opC1 (f : FirstWord) (h : f.op = 0xC1#8) : decodeForm f =
    (.two (fun e => req (!f.nw) .nwWithoutPush (req (f.d == 0#7 && f.b == 0x88#8 && bits e 24 8 == 0x88#8 && bits e 16 8 == 0#8 && bits e 2 9 == 0#9) .reservedField (req (scopeRead (bits e 11 2) (bits e 13 3)) .scopeUnread (.ok (.evclr f.a (bits e 13 3) (bits e 11 2) (bits e 0 2))))))) := by
  rw [rowC f (by rw [h]; rfl), h]; rfl

theorem opC2 (f : FirstWord) (h : f.op = 0xC2#8) : decodeForm f =
    (.two (fun e => req (!f.nw) .nwWithoutPush (req (f.d == 0#7 && f.b == 0x88#8 && bits e 24 8 == 0x88#8 && bits e 16 8 == 0#8 && bits e 3 8 == 0#8) .reservedField (req (scopeRead (bits e 11 2) (bits e 13 3)) .scopeUnread (.ok (.evwait f.a (bits e 13 3) (bits e 11 2) (bits e 2 1) (bits e 0 2))))))) := by
  rw [rowC f (by rw [h]; rfl), h]; rfl

theorem opC3 (f : FirstWord) (h : f.op = 0xC3#8) : decodeForm f =
    (.one (req (!f.nw) .nwWithoutPush (req (f.d == 0#7 && f.a == 0x88#8) .reservedField (.ok (.acqtok f.b))))) := by
  rw [rowC f (by rw [h]; rfl), h]; rfl

theorem opC4 (f : FirstWord) (h : f.op = 0xC4#8) : decodeForm f =
    (.one (req (!f.nw) .nwWithoutPush (req (f.d == 0#7 && f.a == 0x88#8) .reservedField (.ok (.reltok f.b))))) := by
  rw [rowC f (by rw [h]; rfl), h]; rfl

theorem opD0 (f : FirstWord) (h : f.op = 0xD0#8) : decodeForm f =
    (.two (fun e => req (!f.nw) .nwWithoutPush (req (bits e 16 4 == 0#4 && bits e 6 2 == 0#2) .reservedField (req (scopeRead (bits e 11 2) (bits e 13 3)) .scopeUnread (.ok (.tld f.d f.a f.b (bits e 24 8) (bits e 20 4) (bits e 13 3) (bits e 11 2) (bits e 8 3) (bits e 3 3) (bits e 0 3))))))) := by
  rw [rowD f (by rw [h]; rfl), h]; rfl

theorem opD1 (f : FirstWord) (h : f.op = 0xD1#8) : decodeForm f =
    (.two (fun e => req (!f.nw) .nwWithoutPush (req (bits e 16 4 == 0#4 && bits e 6 2 == 0#2) .reservedField (req (scopeRead (bits e 11 2) (bits e 13 3)) .scopeUnread (.ok (.tst f.d f.a f.b (bits e 24 8) (bits e 20 4) (bits e 13 3) (bits e 11 2) (bits e 8 3) (bits e 3 3) (bits e 0 3))))))) := by
  rw [rowD f (by rw [h]; rfl), h]; rfl

theorem opD2 (f : FirstWord) (h : f.op = 0xD2#8) : decodeForm f =
    (.two (fun e => req (!f.nw) .nwWithoutPush (req (f.a == 0x88#8 && f.b == 0x88#8 && bits e 24 8 == 0x88#8 && bits e 1 23 == 0#23) .reservedField (.ok (.tzero f.d (bits e 0 1)))))) := by
  rw [rowD f (by rw [h]; rfl), h]; rfl

theorem opD3 (f : FirstWord) (h : f.op = 0xD3#8) : decodeForm f =
    (.two (fun e => req (!f.nw) .nwWithoutPush (req (bits e 24 8 == 0x88#8 && bits e 0 24 == 0#24) .reservedField (.ok (.mma f.d f.a f.b))))) := by
  rw [rowD f (by rw [h]; rfl), h]; rfl

theorem opD4 (f : FirstWord) (h : f.op = 0xD4#8) : decodeForm f =
    (.two (fun e => req (!f.nw) .nwWithoutPush (req (bits e 24 8 == 0x88#8 && bits e 8 16 == 0#16) .reservedField (.ok (.mmas f.d f.a f.b (bits e 4 4) (bits e 0 4)))))) := by
  rw [rowD f (by rw [h]; rfl), h]; rfl

theorem opD5 (f : FirstWord) (h : f.op = 0xD5#8) : decodeForm f =
    (.two (fun e => req (!f.nw) .nwWithoutPush (req (bits e 24 8 == 0x88#8 && bits e 4 20 == 0#20) .reservedField (.ok (.mmam f.d f.a f.b (bits e 0 4)))))) := by
  rw [rowD f (by rw [h]; rfl), h]; rfl

theorem opD6 (f : FirstWord) (h : f.op = 0xD6#8) : decodeForm f =
    (.two (fun e => req (!f.nw) .nwWithoutPush (req (bits e 24 8 == 0x88#8 && bits e 6 18 == 0#18) .reservedField (.ok (.accrd f.d f.a f.b (bits e 0 6)))))) := by
  rw [rowD f (by rw [h]; rfl), h]; rfl

theorem opD7 (f : FirstWord) (h : f.op = 0xD7#8) : decodeForm f =
    (.two (fun e => req (!f.nw) .nwWithoutPush (req (f.d == 0#7 && bits e 6 18 == 0#18) .reservedField (.ok (.accwr f.a f.b (bits e 24 8) (bits e 0 6)))))) := by
  rw [rowD f (by rw [h]; rfl), h]; rfl

theorem opD8 (f : FirstWord) (h : f.op = 0xD8#8) : decodeForm f =
    (.two (fun e => req (!f.nw) .nwWithoutPush (req (f.b == 0x88#8 && bits e 24 8 == 0x88#8 && bits e 16 4 == 0#4 && bits e 0 8 == 0#8) .reservedField (req (scopeRead (bits e 11 2) (bits e 13 3)) .scopeUnread (.ok (.ttask f.d f.a (bits e 20 4) (bits e 13 3) (bits e 11 2) (bits e 8 3))))))) := by
  rw [rowD f (by rw [h]; rfl), h]; rfl

theorem opD9 (f : FirstWord) (h : f.op = 0xD9#8) : decodeForm f =
    (.two (fun e => req (!f.nw) .nwWithoutPush (req (f.b == 0x88#8 && bits e 16 4 == 0#4 && bits e 0 8 == 0#8) .reservedField (req (scopeRead (bits e 11 2) (bits e 13 3)) .scopeUnread (.ok (.tdesc f.d f.a (bits e 24 8) (bits e 20 4) (bits e 13 3) (bits e 11 2) (bits e 8 3))))))) := by
  rw [rowD f (by rw [h]; rfl), h]; rfl

theorem opDA (f : FirstWord) (h : f.op = 0xDA#8) : decodeForm f =
    (.two (fun e => req (!f.nw) .nwWithoutPush (req (f.b == 0x88#8 && bits e 16 4 == 0#4 && bits e 0 8 == 0#8) .reservedField (req (scopeRead (bits e 11 2) (bits e 13 3)) .scopeUnread (.ok (.remap f.d f.a (bits e 24 8) (bits e 20 4) (bits e 13 3) (bits e 11 2) (bits e 8 3))))))) := by
  rw [rowD f (by rw [h]; rfl), h]; rfl

theorem opE0 (f : FirstWord) (h : f.op = 0xE0#8) : decodeForm f =
    (.two (fun e => if bits e 7 1 == 0#1 then req (!f.nw) .nwWithoutPush (req (bits e 16 4 == 0#4 && bits e 7 1 == 0#1 && bits e 0 3 == 0#3) .reservedField (req (scopeRead (bits e 11 2) (bits e 13 3)) .scopeUnread (.ok (.cpy f.d f.a f.b (bits e 24 8) (bits e 20 4) (bits e 13 3) (bits e 11 2) (bits e 8 3) (bits e 5 2) (bits e 3 2)))))
      else req (!f.nw) .nwWithoutPush (req (bits e 16 4 == 0#4 && bits e 7 1 == 1#1 && bits e 0 7 == 0#7) .reservedField (req (scopeRead (bits e 11 2) (bits e 13 3)) .scopeUnread (.ok (.cpyTensor f.d f.a f.b (bits e 24 8) (bits e 20 4) (bits e 13 3) (bits e 11 2) (bits e 8 3))))))) := by
  rw [rowE f (by rw [h]; rfl), h]; rfl

theorem opE1 (f : FirstWord) (h : f.op = 0xE1#8) : decodeForm f =
    (.two (fun e => req (!f.nw) .nwWithoutPush (req (bits e 7 1 == 0#1 && bits e 0 3 == 0#3) .reservedField (req (scopeRead (bits e 11 2) (bits e 13 3)) .scopeUnread (.ok (.cpyacc f.d f.a f.b (bits e 24 8) (bits e 20 4) (bits e 16 4) (bits e 13 3) (bits e 11 2) (bits e 8 3) (bits e 5 2) (bits e 3 2))))))) := by
  rw [rowE f (by rw [h]; rfl), h]; rfl

theorem opE2 (f : FirstWord) (h : f.op = 0xE2#8) : decodeForm f =
    (.two (fun e => req (!f.nw) .nwWithoutPush (req (bits e 16 4 == 0#4 && bits e 7 1 == 0#1 && bits e 0 5 == 0#5) .reservedField (req (scopeRead (bits e 11 2) (bits e 13 3)) .scopeUnread (.ok (.cpydd f.d f.a f.b (bits e 24 8) (bits e 20 4) (bits e 13 3) (bits e 11 2) (bits e 8 3) (bits e 5 2))))))) := by
  rw [rowE f (by rw [h]; rfl), h]; rfl

theorem opE3 (f : FirstWord) (h : f.op = 0xE3#8) : decodeForm f =
    (.two (fun e => req (!f.nw) .nwWithoutPush (req (f.b == 0x88#8 && bits e 24 8 == 0x88#8 && bits e 16 4 == 0#4 && bits e 7 1 == 0#1 && bits e 0 3 == 0#3) .reservedField (req (scopeRead (bits e 11 2) (bits e 13 3)) .scopeUnread (.ok (.gather f.d f.a (bits e 20 4) (bits e 13 3) (bits e 11 2) (bits e 8 3) (bits e 5 2) (bits e 3 2))))))) := by
  rw [rowE f (by rw [h]; rfl), h]; rfl

theorem opE4 (f : FirstWord) (h : f.op = 0xE4#8) : decodeForm f =
    (.two (fun e => if bits e 7 1 == 0#1 then req (!f.nw) .nwWithoutPush (req (bits e 16 4 == 0#4 && bits e 7 1 == 0#1 && bits e 0 3 == 0#3) .reservedField (req (scopeRead (bits e 11 2) (bits e 13 3)) .scopeUnread (.ok (.mcast f.d f.a f.b (bits e 24 8) (bits e 20 4) (bits e 13 3) (bits e 11 2) (bits e 8 3) (bits e 5 2) (bits e 3 2)))))
      else req (!f.nw) .nwWithoutPush (req (bits e 16 4 == 0#4 && bits e 7 1 == 1#1 && bits e 5 2 == 0#2 && bits e 0 3 == 0#3) .reservedField (req (scopeRead (bits e 11 2) (bits e 13 3)) .scopeUnread (.ok (.mcastTensor f.d f.a f.b (bits e 24 8) (bits e 20 4) (bits e 13 3) (bits e 11 2) (bits e 8 3) (bits e 3 2))))))) := by
  rw [rowE f (by rw [h]; rfl), h]; rfl

theorem opE5 (f : FirstWord) (h : f.op = 0xE5#8) : decodeForm f =
    (.two (fun e => req (!f.nw) .nwWithoutPush (req (f.d == 0#7 && f.a == 0x88#8 && f.b == 0x88#8 && bits e 24 8 == 0x88#8 && bits e 0 24 == 0#24) .reservedField (.ok .bclose)))) := by
  rw [rowE f (by rw [h]; rfl), h]; rfl

theorem opE6 (f : FirstWord) (h : f.op = 0xE6#8) : decodeForm f =
    (.two (fun e => req (!f.nw) .nwWithoutPush (req (f.d == 0#7 && f.a == 0x88#8 && f.b == 0x88#8 && bits e 24 8 == 0x88#8 && bits e 16 8 == 0#8 && bits e 8 3 == 0#3) .reservedField (req (scopeRead (bits e 11 2) (bits e 13 3)) .scopeUnread (.ok (.bwait (bits e 13 3) (bits e 11 2) (bits e 0 8))))))) := by
  rw [rowE f (by rw [h]; rfl), h]; rfl

theorem opE7 (f : FirstWord) (h : f.op = 0xE7#8) : decodeForm f =
    (.two (fun e => req (!f.nw) .nwWithoutPush (req (bits e 16 4 == 0#4 && bits e 4 4 == 0#4) .reservedField (req (scopeRead (bits e 11 2) (bits e 13 3)) .scopeUnread (.ok (.crmerge f.d f.a f.b (bits e 24 8) (bits e 20 4) (bits e 13 3) (bits e 11 2) (bits e 8 3) (bits e 0 4))))))) := by
  rw [rowE f (by rw [h]; rfl), h]; rfl

theorem opE8 (f : FirstWord) (h : f.op = 0xE8#8) : decodeForm f =
    (.two (fun e => req (!f.nw) .nwWithoutPush (req (bits e 16 4 == 0#4 && bits e 4 4 == 0#4) .reservedField (req (scopeRead (bits e 11 2) (bits e 13 3)) .scopeUnread (.ok (.crfin f.d f.a f.b (bits e 24 8) (bits e 20 4) (bits e 13 3) (bits e 11 2) (bits e 8 3) (bits e 0 4))))))) := by
  rw [rowE f (by rw [h]; rfl), h]; rfl

theorem opF0 (f : FirstWord) (h : f.op = 0xF0#8) : decodeForm f =
    (.two (fun e => req (!f.nw) .nwWithoutPush (req (f.b == 0x88#8 && bits e 24 8 == 0x88#8 && bits e 16 4 == 0#4 && bits e 0 11 == 0#11) .reservedField (req (scopeRead (bits e 11 2) (bits e 13 3)) .scopeUnread (.ok (.cvopen f.d f.a (bits e 20 4) (bits e 13 3) (bits e 11 2))))))) := by
  rw [rowF f (by rw [h]; rfl), h]; rfl

theorem opF1 (f : FirstWord) (h : f.op = 0xF1#8) : decodeForm f =
    (.two (fun e => req (!f.nw) .nwWithoutPush (req (f.d == 0#7 && f.b == 0x88#8 && bits e 24 8 == 0x88#8 && bits e 16 4 == 0#4 && bits e 5 6 == 0#6) .reservedField (req (scopeRead (bits e 11 2) (bits e 13 3)) .scopeUnread (.ok (.cvbind f.a (bits e 20 4) (bits e 13 3) (bits e 11 2) (bits e 3 2) (bits e 0 3))))))) := by
  rw [rowF f (by rw [h]; rfl), h]; rfl

theorem opF2 (f : FirstWord) (h : f.op = 0xF2#8) : decodeForm f =
    (.two (fun e => req (!f.nw) .nwWithoutPush (req (f.d == 0#7 && bits e 24 8 == 0x88#8 && bits e 16 4 == 0#4 && bits e 8 3 == 0#3) .reservedField (req (scopeRead (bits e 11 2) (bits e 13 3)) .scopeUnread (req ((bits e 7 1) == 0#1 || f.b == 0x88#8) .reservedField (.ok (.cvsend f.a f.b (bits e 20 4) (bits e 13 3) (bits e 11 2) (bits e 7 1) (bits e 5 2) (bits e 0 5)))))))) := by
  rw [rowF f (by rw [h]; rfl), h]; rfl

theorem opF3 (f : FirstWord) (h : f.op = 0xF3#8) : decodeForm f =
    (.two (fun e => req (!f.nw) .nwWithoutPush (req (f.b == 0x88#8 && bits e 24 8 == 0x88#8 && bits e 16 4 == 0#4 && bits e 7 4 == 0#4 && bits e 0 5 == 0#5) .reservedField (req (scopeRead (bits e 11 2) (bits e 13 3)) .scopeUnread (.ok (.cvrecv f.d f.a (bits e 20 4) (bits e 13 3) (bits e 11 2) (bits e 5 2))))))) := by
  rw [rowF f (by rw [h]; rfl), h]; rfl

theorem opF4 (f : FirstWord) (h : f.op = 0xF4#8) : decodeForm f =
    (.two (fun e => req (!f.nw) .nwWithoutPush (req (f.d == 0#7 && f.a == 0x88#8 && f.b == 0x88#8 && bits e 24 8 == 0x88#8 && bits e 16 4 == 0#4 && bits e 7 4 == 0#4) .reservedField (req (scopeRead (bits e 11 2) (bits e 13 3)) .scopeUnread (.ok (.cvchoose (bits e 20 4) (bits e 13 3) (bits e 11 2) (bits e 5 2) (bits e 0 5))))))) := by
  rw [rowF f (by rw [h]; rfl), h]; rfl

theorem opF5 (f : FirstWord) (h : f.op = 0xF5#8) : decodeForm f =
    (.two (fun e => req (!f.nw) .nwWithoutPush (req (f.d == 0#7 && f.a == 0x88#8 && f.b == 0x88#8 && bits e 24 8 == 0x88#8 && bits e 16 4 == 0#4 && bits e 9 2 == 0#2) .reservedField (req (scopeRead (bits e 11 2) (bits e 13 3)) .scopeUnread (.ok (.cvdeleg (bits e 20 4) (bits e 13 3) (bits e 11 2) (bits e 7 2) (bits e 5 2) (bits e 0 5))))))) := by
  rw [rowF f (by rw [h]; rfl), h]; rfl

theorem opF6 (f : FirstWord) (h : f.op = 0xF6#8) : decodeForm f =
    (.two (fun e => req (!f.nw) .nwWithoutPush (req (f.d == 0#7 && f.a == 0x88#8 && f.b == 0x88#8 && bits e 24 8 == 0x88#8 && bits e 16 4 == 0#4 && bits e 7 4 == 0#4 && bits e 0 5 == 0#5) .reservedField (req (scopeRead (bits e 11 2) (bits e 13 3)) .scopeUnread (.ok (.cvclose (bits e 20 4) (bits e 13 3) (bits e 11 2) (bits e 5 2))))))) := by
  rw [rowF f (by rw [h]; rfl), h]; rfl

theorem opF8 (f : FirstWord) (h : f.op = 0xF8#8) : decodeForm f =
    (.two (fun e => req (!f.nw) .nwWithoutPush (req (f.d == 0#7 && f.b == 0x88#8 && bits e 24 8 == 0x88#8 && bits e 0 24 == 0#24) .reservedField (.ok (.ttclr f.a))))) := by
  rw [rowF f (by rw [h]; rfl), h]; rfl

theorem opF9 (f : FirstWord) (h : f.op = 0xF9#8) : decodeForm f =
    (.two (fun e => req (!f.nw) .nwWithoutPush (req (bits e 24 8 == 0x88#8 && bits e 0 24 == 0#24) .reservedField (.ok (.ttadd f.d f.a f.b))))) := by
  rw [rowF f (by rw [h]; rfl), h]; rfl

theorem opFA (f : FirstWord) (h : f.op = 0xFA#8) : decodeForm f =
    (.two (fun e => req (!f.nw) .nwWithoutPush (req (f.d == 0#7 && bits e 24 8 == 0x88#8 && bits e 0 24 == 0#24) .reservedField (.ok (.ttanc f.a f.b))))) := by
  rw [rowF f (by rw [h]; rfl), h]; rfl

theorem opFB (f : FirstWord) (h : f.op = 0xFB#8) : decodeForm f =
    (.two (fun e => req (!f.nw) .nwWithoutPush (req (f.b == 0x88#8 && bits e 24 8 == 0x88#8 && bits e 1 23 == 0#23) .reservedField (.ok (.ttpos f.d f.a (bits e 0 1)))))) := by
  rw [rowF f (by rw [h]; rfl), h]; rfl

theorem opFC (f : FirstWord) (h : f.op = 0xFC#8) : decodeForm f =
    (.two (fun e => req (!f.nw) .nwWithoutPush (req (f.b == 0x88#8 && bits e 0 24 == 0#24) .reservedField (.ok (.ttprune f.d f.a (bits e 24 8)))))) := by
  rw [rowF f (by rw [h]; rfl), h]; rfl

namespace RoundTrip

/-- A well-formed instruction decodes from its words to itself; an event has no words. -/
def Statement (i : Instr) : Prop := wellFormed i = true →
  match encode i with
  | [] => True
  | w :: rest => decode (some w) rest.head? = .ok (i, 1 + rest.length)


theorem iadd (nw : Bool) (d : BitVec 7) (a : BitVec 8) (b : BitVec 8) : Statement (.iadd nw d a b) := by
  intro h
  change (notMarker b) = true at h
  exact decode_short (firstWord_mkWord ..) (op00 _ rfl) (beq_marker h) rfl

theorem iaddExt (nw : Bool) (d : BitVec 7) (a : BitVec 8) (fmt : BitVec 4) (b : BitVec 8) : Statement (.iaddExt nw d a fmt b) := by
  intro _
  obtain ⟨e24_8, e20_4, e16_4, e8_8, e0_8⟩ := parts_8_4_4_8_8 0x88#8 0#4 fmt 0#8 b
  show decode (some (mkWord 0x00#8 nw d a 0x8F#8)) (some (0x88#8 ++ (0#4 ++ (fmt ++ (0#8 ++ b))))) = .ok (_, 2)
  generalize 0x88#8 ++ (0#4 ++ (fmt ++ (0#8 ++ b))) = e at *
  exact decode_long (firstWord_mkWord ..) (op00 _ rfl) rfl (by simp [req, e24_8, e20_4, e16_4, e8_8, e0_8])

theorem isub (nw : Bool) (d : BitVec 7) (a : BitVec 8) (b : BitVec 8) : Statement (.isub nw d a b) := by
  intro h
  change (notMarker b) = true at h
  exact decode_short (firstWord_mkWord ..) (op01 _ rfl) (beq_marker h) rfl

theorem isubExt (nw : Bool) (d : BitVec 7) (a : BitVec 8) (fmt : BitVec 4) (b : BitVec 8) : Statement (.isubExt nw d a fmt b) := by
  intro _
  obtain ⟨e24_8, e20_4, e16_4, e8_8, e0_8⟩ := parts_8_4_4_8_8 0x88#8 0#4 fmt 0#8 b
  show decode (some (mkWord 0x01#8 nw d a 0x8F#8)) (some (0x88#8 ++ (0#4 ++ (fmt ++ (0#8 ++ b))))) = .ok (_, 2)
  generalize 0x88#8 ++ (0#4 ++ (fmt ++ (0#8 ++ b))) = e at *
  exact decode_long (firstWord_mkWord ..) (op01 _ rfl) rfl (by simp [req, e24_8, e20_4, e16_4, e8_8, e0_8])

theorem imul (nw : Bool) (d : BitVec 7) (a : BitVec 8) (b : BitVec 8) : Statement (.imul nw d a b) := by
  intro h
  change (notMarker b) = true at h
  exact decode_short (firstWord_mkWord ..) (op02 _ rfl) (beq_marker h) rfl

theorem imulExt (nw : Bool) (d : BitVec 7) (a : BitVec 8) (fmt : BitVec 4) (b : BitVec 8) : Statement (.imulExt nw d a fmt b) := by
  intro _
  obtain ⟨e24_8, e20_4, e16_4, e8_8, e0_8⟩ := parts_8_4_4_8_8 0x88#8 0#4 fmt 0#8 b
  show decode (some (mkWord 0x02#8 nw d a 0x8F#8)) (some (0x88#8 ++ (0#4 ++ (fmt ++ (0#8 ++ b))))) = .ok (_, 2)
  generalize 0x88#8 ++ (0#4 ++ (fmt ++ (0#8 ++ b))) = e at *
  exact decode_long (firstWord_mkWord ..) (op02 _ rfl) rfl (by simp [req, e24_8, e20_4, e16_4, e8_8, e0_8])

theorem imulhs (nw : Bool) (d : BitVec 7) (a : BitVec 8) (b : BitVec 8) : Statement (.imulhs nw d a b) := by
  intro h
  change (notMarker b) = true at h
  exact decode_short (firstWord_mkWord ..) (op03 _ rfl) (beq_marker h) rfl

theorem imulhsExt (nw : Bool) (d : BitVec 7) (a : BitVec 8) (fmt : BitVec 4) (b : BitVec 8) : Statement (.imulhsExt nw d a fmt b) := by
  intro _
  obtain ⟨e24_8, e20_4, e16_4, e8_8, e0_8⟩ := parts_8_4_4_8_8 0x88#8 0#4 fmt 0#8 b
  show decode (some (mkWord 0x03#8 nw d a 0x8F#8)) (some (0x88#8 ++ (0#4 ++ (fmt ++ (0#8 ++ b))))) = .ok (_, 2)
  generalize 0x88#8 ++ (0#4 ++ (fmt ++ (0#8 ++ b))) = e at *
  exact decode_long (firstWord_mkWord ..) (op03 _ rfl) rfl (by simp [req, e24_8, e20_4, e16_4, e8_8, e0_8])

theorem imulhu (nw : Bool) (d : BitVec 7) (a : BitVec 8) (b : BitVec 8) : Statement (.imulhu nw d a b) := by
  intro h
  change (notMarker b) = true at h
  exact decode_short (firstWord_mkWord ..) (op04 _ rfl) (beq_marker h) rfl

theorem imulhuExt (nw : Bool) (d : BitVec 7) (a : BitVec 8) (fmt : BitVec 4) (b : BitVec 8) : Statement (.imulhuExt nw d a fmt b) := by
  intro _
  obtain ⟨e24_8, e20_4, e16_4, e8_8, e0_8⟩ := parts_8_4_4_8_8 0x88#8 0#4 fmt 0#8 b
  show decode (some (mkWord 0x04#8 nw d a 0x8F#8)) (some (0x88#8 ++ (0#4 ++ (fmt ++ (0#8 ++ b))))) = .ok (_, 2)
  generalize 0x88#8 ++ (0#4 ++ (fmt ++ (0#8 ++ b))) = e at *
  exact decode_long (firstWord_mkWord ..) (op04 _ rfl) rfl (by simp [req, e24_8, e20_4, e16_4, e8_8, e0_8])

theorem imad (nw : Bool) (d : BitVec 7) (a : BitVec 8) (b : BitVec 8) (c : BitVec 8) : Statement (.imad nw d a b c) := by
  intro _
  obtain ⟨e24_8, e0_24⟩ := parts_8_24 c 0#24
  show decode (some (mkWord 0x05#8 nw d a b)) (some (c ++ 0#24)) = .ok (_, 2)
  generalize c ++ 0#24 = e at *
  exact decode_two (firstWord_mkWord ..) (op05 _ rfl) (by simp [req, e24_8, e0_24])

theorem imin (nw : Bool) (d : BitVec 7) (a : BitVec 8) (b : BitVec 8) : Statement (.imin nw d a b) := by
  intro _
  exact decode_one (firstWord_mkWord ..) (op06 _ rfl)

theorem imax (nw : Bool) (d : BitVec 7) (a : BitVec 8) (b : BitVec 8) : Statement (.imax nw d a b) := by
  intro _
  exact decode_one (firstWord_mkWord ..) (op07 _ rfl)

theorem umin (nw : Bool) (d : BitVec 7) (a : BitVec 8) (b : BitVec 8) : Statement (.umin nw d a b) := by
  intro _
  exact decode_one (firstWord_mkWord ..) (op08 _ rfl)

theorem umax (nw : Bool) (d : BitVec 7) (a : BitVec 8) (b : BitVec 8) : Statement (.umax nw d a b) := by
  intro _
  exact decode_one (firstWord_mkWord ..) (op09 _ rfl)

theorem vand (nw : Bool) (d : BitVec 7) (a : BitVec 8) (b : BitVec 8) : Statement (.vand nw d a b) := by
  intro _
  exact decode_one (firstWord_mkWord ..) (op0A _ rfl)

theorem vor (nw : Bool) (d : BitVec 7) (a : BitVec 8) (b : BitVec 8) : Statement (.vor nw d a b) := by
  intro _
  exact decode_one (firstWord_mkWord ..) (op0B _ rfl)

theorem vxor (nw : Bool) (d : BitVec 7) (a : BitVec 8) (b : BitVec 8) : Statement (.vxor nw d a b) := by
  intro _
  exact decode_one (firstWord_mkWord ..) (op0C _ rfl)

theorem vandn (nw : Bool) (d : BitVec 7) (a : BitVec 8) (b : BitVec 8) : Statement (.vandn nw d a b) := by
  intro _
  exact decode_one (firstWord_mkWord ..) (op0D _ rfl)

theorem shl (nw : Bool) (d : BitVec 7) (a : BitVec 8) (b : BitVec 8) : Statement (.shl nw d a b) := by
  intro _
  exact decode_one (firstWord_mkWord ..) (op0E _ rfl)

theorem shr (nw : Bool) (d : BitVec 7) (a : BitVec 8) (b : BitVec 8) : Statement (.shr nw d a b) := by
  intro _
  exact decode_one (firstWord_mkWord ..) (op0F _ rfl)

theorem sar (nw : Bool) (d : BitVec 7) (a : BitVec 8) (b : BitVec 8) : Statement (.sar nw d a b) := by
  intro _
  exact decode_one (firstWord_mkWord ..) (op10 _ rfl)

theorem rotl (nw : Bool) (d : BitVec 7) (a : BitVec 8) (b : BitVec 8) : Statement (.rotl nw d a b) := by
  intro _
  exact decode_one (firstWord_mkWord ..) (op11 _ rfl)

theorem popc (nw : Bool) (d : BitVec 7) (a : BitVec 8) : Statement (.popc nw d a) := by
  intro _
  exact decode_one (firstWord_mkWord ..) (op12 _ rfl)

theorem clz (nw : Bool) (d : BitVec 7) (a : BitVec 8) : Statement (.clz nw d a) := by
  intro _
  exact decode_one (firstWord_mkWord ..) (op13 _ rfl)

theorem brev (nw : Bool) (d : BitVec 7) (a : BitVec 8) : Statement (.brev nw d a) := by
  intro _
  exact decode_one (firstWord_mkWord ..) (op14 _ rfl)

theorem bfx (nw : Bool) (d : BitVec 7) (a : BitVec 8) (b : BitVec 8) (sx : BitVec 1) : Statement (.bfx nw d a b sx) := by
  intro _
  obtain ⟨e24_8, e1_23, e0_1⟩ := parts_8_23_1 0x88#8 0#23 sx
  show decode (some (mkWord 0x15#8 nw d a b)) (some (0x88#8 ++ (0#23 ++ sx))) = .ok (_, 2)
  generalize 0x88#8 ++ (0#23 ++ sx) = e at *
  exact decode_two (firstWord_mkWord ..) (op15 _ rfl) (by simp [req, e24_8, e1_23, e0_1])

theorem bfi (nw : Bool) (d : BitVec 7) (a : BitVec 8) (b : BitVec 8) (c : BitVec 8) : Statement (.bfi nw d a b c) := by
  intro _
  obtain ⟨e24_8, e0_24⟩ := parts_8_24 c 0#24
  show decode (some (mkWord 0x16#8 nw d a b)) (some (c ++ 0#24)) = .ok (_, 2)
  generalize c ++ 0#24 = e at *
  exact decode_two (firstWord_mkWord ..) (op16 _ rfl) (by simp [req, e24_8, e0_24])

theorem bperm (nw : Bool) (d : BitVec 7) (a : BitVec 8) (b : BitVec 8) (c : BitVec 8) : Statement (.bperm nw d a b c) := by
  intro _
  obtain ⟨e24_8, e0_24⟩ := parts_8_24 c 0#24
  show decode (some (mkWord 0x17#8 nw d a b)) (some (c ++ 0#24)) = .ok (_, 2)
  generalize c ++ 0#24 = e at *
  exact decode_two (firstWord_mkWord ..) (op17 _ rfl) (by simp [req, e24_8, e0_24])

theorem bitf (nw : Bool) (d : BitVec 7) (a : BitVec 8) (b : BitVec 8) (c : BitVec 8) (f1 : BitVec 4) (f0 : BitVec 4) : Statement (.bitf nw d a b c f1 f0) := by
  intro _
  obtain ⟨e24_8, e8_16, e4_4, e0_4⟩ := parts_8_16_4_4 c 0#16 f1 f0
  show decode (some (mkWord 0x18#8 nw d a b)) (some (c ++ (0#16 ++ (f1 ++ f0)))) = .ok (_, 2)
  generalize c ++ (0#16 ++ (f1 ++ f0)) = e at *
  exact decode_two (firstWord_mkWord ..) (op18 _ rfl) (by simp [req, e24_8, e8_16, e4_4, e0_4])

theorem iadd64 (nw : Bool) (d : BitVec 7) (a : BitVec 8) (b : BitVec 8) : Statement (.iadd64 nw d a b) := by
  intro _
  exact decode_one (firstWord_mkWord ..) (op19 _ rfl)

theorem isub64 (nw : Bool) (d : BitVec 7) (a : BitVec 8) (b : BitVec 8) : Statement (.isub64 nw d a b) := by
  intro _
  exact decode_one (firstWord_mkWord ..) (op1A _ rfl)

theorem imulw (nw : Bool) (d : BitVec 7) (a : BitVec 8) (b : BitVec 8) : Statement (.imulw nw d a b) := by
  intro _
  exact decode_one (firstWord_mkWord ..) (op1B _ rfl)

theorem icmp (nw : Bool) (d : BitVec 7) (a : BitVec 8) (b : BitVec 8) (c : BitVec 8) (cond : BitVec 4) : Statement (.icmp nw d a b c cond) := by
  intro _
  obtain ⟨e24_8, e20_4, e0_20⟩ := parts_8_4_20 c cond 0#20
  show decode (some (mkWord 0x1C#8 nw d a b)) (some (c ++ (cond ++ 0#20))) = .ok (_, 2)
  generalize c ++ (cond ++ 0#20) = e at *
  exact decode_two (firstWord_mkWord ..) (op1C _ rfl) (by simp [req, e24_8, e20_4, e0_20])

theorem sel (nw : Bool) (d : BitVec 7) (a : BitVec 8) (b : BitVec 8) (c : BitVec 8) (p : BitVec 1) : Statement (.sel nw d a b c p) := by
  intro _
  obtain ⟨e24_8, e1_23, e0_1⟩ := parts_8_23_1 c 0#23 p
  show decode (some (mkWord 0x1D#8 nw d a b)) (some (c ++ (0#23 ++ p))) = .ok (_, 2)
  generalize c ++ (0#23 ++ p) = e at *
  exact decode_two (firstWord_mkWord ..) (op1D _ rfl) (by simp [req, e24_8, e1_23, e0_1])

theorem mov (nw : Bool) (d : BitVec 7) (a : BitVec 8) : Statement (.mov nw d a) := by
  intro _
  exact decode_one (firstWord_mkWord ..) (op1E _ rfl)

theorem movi (nw : Bool) (d : BitVec 7) (imm : BitVec 32) : Statement (.movi nw d imm) := by
  intro _
  show decode (some (mkWord 0x1F#8 nw d 0x88#8 0x88#8)) (some (imm)) = .ok (_, 2)
  exact decode_two (firstWord_mkWord ..) (op1F _ rfl) rfl

theorem iaddi (nw : Bool) (d : BitVec 7) (a : BitVec 8) (imm : BitVec 8) : Statement (.iaddi nw d a imm) := by
  intro _
  exact decode_one (firstWord_mkWord ..) (op20 _ rfl)

theorem shli (nw : Bool) (d : BitVec 7) (a : BitVec 8) (imm : BitVec 8) : Statement (.shli nw d a imm) := by
  intro _
  exact decode_one (firstWord_mkWord ..) (op21 _ rfl)

theorem shri (nw : Bool) (d : BitVec 7) (a : BitVec 8) (imm : BitVec 8) : Statement (.shri nw d a imm) := by
  intro _
  exact decode_one (firstWord_mkWord ..) (op22 _ rfl)

theorem sari (nw : Bool) (d : BitVec 7) (a : BitVec 8) (imm : BitVec 8) : Statement (.sari nw d a imm) := by
  intro _
  exact decode_one (firstWord_mkWord ..) (op23 _ rfl)

theorem andi (nw : Bool) (d : BitVec 7) (a : BitVec 8) (imm : BitVec 8) : Statement (.andi nw d a imm) := by
  intro _
  exact decode_one (firstWord_mkWord ..) (op24 _ rfl)

theorem ori (nw : Bool) (d : BitVec 7) (a : BitVec 8) (imm : BitVec 8) : Statement (.ori nw d a imm) := by
  intro _
  exact decode_one (firstWord_mkWord ..) (op25 _ rfl)

theorem xori (nw : Bool) (d : BitVec 7) (a : BitVec 8) (imm : BitVec 8) : Statement (.xori nw d a imm) := by
  intro _
  exact decode_one (firstWord_mkWord ..) (op26 _ rfl)

theorem fadd (nw : Bool) (d : BitVec 7) (a : BitVec 8) (b : BitVec 8) : Statement (.fadd nw d a b) := by
  intro h
  change (notMarker b) = true at h
  exact decode_short (firstWord_mkWord ..) (op28 _ rfl) (beq_marker h) rfl

theorem faddExt (nw : Bool) (d : BitVec 7) (a : BitVec 8) (fmt : BitVec 4) (b : BitVec 8) : Statement (.faddExt nw d a fmt b) := by
  intro _
  obtain ⟨e24_8, e20_4, e16_4, e8_8, e0_8⟩ := parts_8_4_4_8_8 0x88#8 0#4 fmt 0#8 b
  show decode (some (mkWord 0x28#8 nw d a 0x8F#8)) (some (0x88#8 ++ (0#4 ++ (fmt ++ (0#8 ++ b))))) = .ok (_, 2)
  generalize 0x88#8 ++ (0#4 ++ (fmt ++ (0#8 ++ b))) = e at *
  exact decode_long (firstWord_mkWord ..) (op28 _ rfl) rfl (by simp [req, e24_8, e20_4, e16_4, e8_8, e0_8])

theorem fsub (nw : Bool) (d : BitVec 7) (a : BitVec 8) (b : BitVec 8) : Statement (.fsub nw d a b) := by
  intro h
  change (notMarker b) = true at h
  exact decode_short (firstWord_mkWord ..) (op29 _ rfl) (beq_marker h) rfl

theorem fsubExt (nw : Bool) (d : BitVec 7) (a : BitVec 8) (fmt : BitVec 4) (b : BitVec 8) : Statement (.fsubExt nw d a fmt b) := by
  intro _
  obtain ⟨e24_8, e20_4, e16_4, e8_8, e0_8⟩ := parts_8_4_4_8_8 0x88#8 0#4 fmt 0#8 b
  show decode (some (mkWord 0x29#8 nw d a 0x8F#8)) (some (0x88#8 ++ (0#4 ++ (fmt ++ (0#8 ++ b))))) = .ok (_, 2)
  generalize 0x88#8 ++ (0#4 ++ (fmt ++ (0#8 ++ b))) = e at *
  exact decode_long (firstWord_mkWord ..) (op29 _ rfl) rfl (by simp [req, e24_8, e20_4, e16_4, e8_8, e0_8])

theorem fmul (nw : Bool) (d : BitVec 7) (a : BitVec 8) (b : BitVec 8) : Statement (.fmul nw d a b) := by
  intro h
  change (notMarker b) = true at h
  exact decode_short (firstWord_mkWord ..) (op2A _ rfl) (beq_marker h) rfl

theorem fmulExt (nw : Bool) (d : BitVec 7) (a : BitVec 8) (fmt : BitVec 4) (b : BitVec 8) : Statement (.fmulExt nw d a fmt b) := by
  intro _
  obtain ⟨e24_8, e20_4, e16_4, e8_8, e0_8⟩ := parts_8_4_4_8_8 0x88#8 0#4 fmt 0#8 b
  show decode (some (mkWord 0x2A#8 nw d a 0x8F#8)) (some (0x88#8 ++ (0#4 ++ (fmt ++ (0#8 ++ b))))) = .ok (_, 2)
  generalize 0x88#8 ++ (0#4 ++ (fmt ++ (0#8 ++ b))) = e at *
  exact decode_long (firstWord_mkWord ..) (op2A _ rfl) rfl (by simp [req, e24_8, e20_4, e16_4, e8_8, e0_8])

theorem ffma (nw : Bool) (d : BitVec 7) (a : BitVec 8) (b : BitVec 8) : Statement (.ffma nw d a b) := by
  intro h
  change (notMarker b) = true at h
  exact decode_short (firstWord_mkWord ..) (op2B _ rfl) (beq_marker h) rfl

theorem ffmaExt (nw : Bool) (d : BitVec 7) (a : BitVec 8) (c : BitVec 8) (fmt : BitVec 4) (b : BitVec 8) : Statement (.ffmaExt nw d a c fmt b) := by
  intro _
  obtain ⟨e24_8, e20_4, e16_4, e8_8, e0_8⟩ := parts_8_4_4_8_8 c 0#4 fmt 0#8 b
  show decode (some (mkWord 0x2B#8 nw d a 0x8F#8)) (some (c ++ (0#4 ++ (fmt ++ (0#8 ++ b))))) = .ok (_, 2)
  generalize c ++ (0#4 ++ (fmt ++ (0#8 ++ b))) = e at *
  exact decode_long (firstWord_mkWord ..) (op2B _ rfl) rfl (by simp [req, e24_8, e20_4, e16_4, e8_8, e0_8])

theorem fmin (nw : Bool) (d : BitVec 7) (a : BitVec 8) (b : BitVec 8) : Statement (.fmin nw d a b) := by
  intro h
  change (notMarker b) = true at h
  exact decode_short (firstWord_mkWord ..) (op2C _ rfl) (beq_marker h) rfl

theorem fminExt (nw : Bool) (d : BitVec 7) (a : BitVec 8) (fmt : BitVec 4) (b : BitVec 8) : Statement (.fminExt nw d a fmt b) := by
  intro _
  obtain ⟨e24_8, e20_4, e16_4, e8_8, e0_8⟩ := parts_8_4_4_8_8 0x88#8 0#4 fmt 0#8 b
  show decode (some (mkWord 0x2C#8 nw d a 0x8F#8)) (some (0x88#8 ++ (0#4 ++ (fmt ++ (0#8 ++ b))))) = .ok (_, 2)
  generalize 0x88#8 ++ (0#4 ++ (fmt ++ (0#8 ++ b))) = e at *
  exact decode_long (firstWord_mkWord ..) (op2C _ rfl) rfl (by simp [req, e24_8, e20_4, e16_4, e8_8, e0_8])

theorem fmax (nw : Bool) (d : BitVec 7) (a : BitVec 8) (b : BitVec 8) : Statement (.fmax nw d a b) := by
  intro h
  change (notMarker b) = true at h
  exact decode_short (firstWord_mkWord ..) (op2D _ rfl) (beq_marker h) rfl

theorem fmaxExt (nw : Bool) (d : BitVec 7) (a : BitVec 8) (fmt : BitVec 4) (b : BitVec 8) : Statement (.fmaxExt nw d a fmt b) := by
  intro _
  obtain ⟨e24_8, e20_4, e16_4, e8_8, e0_8⟩ := parts_8_4_4_8_8 0x88#8 0#4 fmt 0#8 b
  show decode (some (mkWord 0x2D#8 nw d a 0x8F#8)) (some (0x88#8 ++ (0#4 ++ (fmt ++ (0#8 ++ b))))) = .ok (_, 2)
  generalize 0x88#8 ++ (0#4 ++ (fmt ++ (0#8 ++ b))) = e at *
  exact decode_long (firstWord_mkWord ..) (op2D _ rfl) rfl (by simp [req, e24_8, e20_4, e16_4, e8_8, e0_8])

theorem fminn (nw : Bool) (d : BitVec 7) (a : BitVec 8) (b : BitVec 8) : Statement (.fminn nw d a b) := by
  intro h
  change (notMarker b) = true at h
  exact decode_short (firstWord_mkWord ..) (op2E _ rfl) (beq_marker h) rfl

theorem fminnExt (nw : Bool) (d : BitVec 7) (a : BitVec 8) (fmt : BitVec 4) (b : BitVec 8) : Statement (.fminnExt nw d a fmt b) := by
  intro _
  obtain ⟨e24_8, e20_4, e16_4, e8_8, e0_8⟩ := parts_8_4_4_8_8 0x88#8 0#4 fmt 0#8 b
  show decode (some (mkWord 0x2E#8 nw d a 0x8F#8)) (some (0x88#8 ++ (0#4 ++ (fmt ++ (0#8 ++ b))))) = .ok (_, 2)
  generalize 0x88#8 ++ (0#4 ++ (fmt ++ (0#8 ++ b))) = e at *
  exact decode_long (firstWord_mkWord ..) (op2E _ rfl) rfl (by simp [req, e24_8, e20_4, e16_4, e8_8, e0_8])

theorem fmaxn (nw : Bool) (d : BitVec 7) (a : BitVec 8) (b : BitVec 8) : Statement (.fmaxn nw d a b) := by
  intro h
  change (notMarker b) = true at h
  exact decode_short (firstWord_mkWord ..) (op2F _ rfl) (beq_marker h) rfl

theorem fmaxnExt (nw : Bool) (d : BitVec 7) (a : BitVec 8) (fmt : BitVec 4) (b : BitVec 8) : Statement (.fmaxnExt nw d a fmt b) := by
  intro _
  obtain ⟨e24_8, e20_4, e16_4, e8_8, e0_8⟩ := parts_8_4_4_8_8 0x88#8 0#4 fmt 0#8 b
  show decode (some (mkWord 0x2F#8 nw d a 0x8F#8)) (some (0x88#8 ++ (0#4 ++ (fmt ++ (0#8 ++ b))))) = .ok (_, 2)
  generalize 0x88#8 ++ (0#4 ++ (fmt ++ (0#8 ++ b))) = e at *
  exact decode_long (firstWord_mkWord ..) (op2F _ rfl) rfl (by simp [req, e24_8, e20_4, e16_4, e8_8, e0_8])

theorem fcmp (nw : Bool) (d : BitVec 7) (a : BitVec 8) (b : BitVec 8) (c : BitVec 8) (cond : BitVec 4) (fmt : BitVec 4) : Statement (.fcmp nw d a b c cond fmt) := by
  intro _
  obtain ⟨e24_8, e20_4, e16_4, e0_16⟩ := parts_8_4_4_16 c cond fmt 0#16
  show decode (some (mkWord 0x30#8 nw d a b)) (some (c ++ (cond ++ (fmt ++ 0#16)))) = .ok (_, 2)
  generalize c ++ (cond ++ (fmt ++ 0#16)) = e at *
  exact decode_two (firstWord_mkWord ..) (op30 _ rfl) (by simp [req, e24_8, e20_4, e16_4, e0_16])

theorem fclass (nw : Bool) (d : BitVec 7) (a : BitVec 8) : Statement (.fclass nw d a) := by
  intro _
  exact decode_short (firstWord_mkWord ..) (op31 _ rfl) rfl rfl

theorem fclassExt (nw : Bool) (d : BitVec 7) (a : BitVec 8) (fmt : BitVec 4) : Statement (.fclassExt nw d a fmt) := by
  intro _
  obtain ⟨e24_8, e20_4, e16_4, e8_8, e0_8⟩ := parts_8_4_4_8_8 0x88#8 0#4 fmt 0#8 136#8
  show decode (some (mkWord 0x31#8 nw d a 0x8F#8)) (some (0x88#8 ++ (0#4 ++ (fmt ++ (0#8 ++ 136#8))))) = .ok (_, 2)
  generalize 0x88#8 ++ (0#4 ++ (fmt ++ (0#8 ++ 136#8))) = e at *
  exact decode_long (firstWord_mkWord ..) (op31 _ rfl) rfl (by simp [req, e24_8, e20_4, e16_4, e8_8, e0_8])

theorem frcp (nw : Bool) (d : BitVec 7) (a : BitVec 8) : Statement (.frcp nw d a) := by
  intro _
  exact decode_short (firstWord_mkWord ..) (op32 _ rfl) rfl rfl

theorem frcpExt (nw : Bool) (d : BitVec 7) (a : BitVec 8) (fmt : BitVec 4) : Statement (.frcpExt nw d a fmt) := by
  intro _
  obtain ⟨e24_8, e20_4, e16_4, e8_8, e0_8⟩ := parts_8_4_4_8_8 0x88#8 0#4 fmt 0#8 136#8
  show decode (some (mkWord 0x32#8 nw d a 0x8F#8)) (some (0x88#8 ++ (0#4 ++ (fmt ++ (0#8 ++ 136#8))))) = .ok (_, 2)
  generalize 0x88#8 ++ (0#4 ++ (fmt ++ (0#8 ++ 136#8))) = e at *
  exact decode_long (firstWord_mkWord ..) (op32 _ rfl) rfl (by simp [req, e24_8, e20_4, e16_4, e8_8, e0_8])

theorem frsq (nw : Bool) (d : BitVec 7) (a : BitVec 8) : Statement (.frsq nw d a) := by
  intro _
  exact decode_short (firstWord_mkWord ..) (op33 _ rfl) rfl rfl

theorem frsqExt (nw : Bool) (d : BitVec 7) (a : BitVec 8) (fmt : BitVec 4) : Statement (.frsqExt nw d a fmt) := by
  intro _
  obtain ⟨e24_8, e20_4, e16_4, e8_8, e0_8⟩ := parts_8_4_4_8_8 0x88#8 0#4 fmt 0#8 136#8
  show decode (some (mkWord 0x33#8 nw d a 0x8F#8)) (some (0x88#8 ++ (0#4 ++ (fmt ++ (0#8 ++ 136#8))))) = .ok (_, 2)
  generalize 0x88#8 ++ (0#4 ++ (fmt ++ (0#8 ++ 136#8))) = e at *
  exact decode_long (firstWord_mkWord ..) (op33 _ rfl) rfl (by simp [req, e24_8, e20_4, e16_4, e8_8, e0_8])

theorem fexp2 (nw : Bool) (d : BitVec 7) (a : BitVec 8) : Statement (.fexp2 nw d a) := by
  intro _
  exact decode_short (firstWord_mkWord ..) (op34 _ rfl) rfl rfl

theorem fexp2Ext (nw : Bool) (d : BitVec 7) (a : BitVec 8) (fmt : BitVec 4) : Statement (.fexp2Ext nw d a fmt) := by
  intro _
  obtain ⟨e24_8, e20_4, e16_4, e8_8, e0_8⟩ := parts_8_4_4_8_8 0x88#8 0#4 fmt 0#8 136#8
  show decode (some (mkWord 0x34#8 nw d a 0x8F#8)) (some (0x88#8 ++ (0#4 ++ (fmt ++ (0#8 ++ 136#8))))) = .ok (_, 2)
  generalize 0x88#8 ++ (0#4 ++ (fmt ++ (0#8 ++ 136#8))) = e at *
  exact decode_long (firstWord_mkWord ..) (op34 _ rfl) rfl (by simp [req, e24_8, e20_4, e16_4, e8_8, e0_8])

theorem flog2 (nw : Bool) (d : BitVec 7) (a : BitVec 8) : Statement (.flog2 nw d a) := by
  intro _
  exact decode_short (firstWord_mkWord ..) (op35 _ rfl) rfl rfl

theorem flog2Ext (nw : Bool) (d : BitVec 7) (a : BitVec 8) (fmt : BitVec 4) : Statement (.flog2Ext nw d a fmt) := by
  intro _
  obtain ⟨e24_8, e20_4, e16_4, e8_8, e0_8⟩ := parts_8_4_4_8_8 0x88#8 0#4 fmt 0#8 136#8
  show decode (some (mkWord 0x35#8 nw d a 0x8F#8)) (some (0x88#8 ++ (0#4 ++ (fmt ++ (0#8 ++ 136#8))))) = .ok (_, 2)
  generalize 0x88#8 ++ (0#4 ++ (fmt ++ (0#8 ++ 136#8))) = e at *
  exact decode_long (firstWord_mkWord ..) (op35 _ rfl) rfl (by simp [req, e24_8, e20_4, e16_4, e8_8, e0_8])

theorem fsinpi (nw : Bool) (d : BitVec 7) (a : BitVec 8) : Statement (.fsinpi nw d a) := by
  intro _
  exact decode_short (firstWord_mkWord ..) (op36 _ rfl) rfl rfl

theorem fsinpiExt (nw : Bool) (d : BitVec 7) (a : BitVec 8) (fmt : BitVec 4) : Statement (.fsinpiExt nw d a fmt) := by
  intro _
  obtain ⟨e24_8, e20_4, e16_4, e8_8, e0_8⟩ := parts_8_4_4_8_8 0x88#8 0#4 fmt 0#8 136#8
  show decode (some (mkWord 0x36#8 nw d a 0x8F#8)) (some (0x88#8 ++ (0#4 ++ (fmt ++ (0#8 ++ 136#8))))) = .ok (_, 2)
  generalize 0x88#8 ++ (0#4 ++ (fmt ++ (0#8 ++ 136#8))) = e at *
  exact decode_long (firstWord_mkWord ..) (op36 _ rfl) rfl (by simp [req, e24_8, e20_4, e16_4, e8_8, e0_8])

theorem fcospi (nw : Bool) (d : BitVec 7) (a : BitVec 8) : Statement (.fcospi nw d a) := by
  intro _
  exact decode_short (firstWord_mkWord ..) (op37 _ rfl) rfl rfl

theorem fcospiExt (nw : Bool) (d : BitVec 7) (a : BitVec 8) (fmt : BitVec 4) : Statement (.fcospiExt nw d a fmt) := by
  intro _
  obtain ⟨e24_8, e20_4, e16_4, e8_8, e0_8⟩ := parts_8_4_4_8_8 0x88#8 0#4 fmt 0#8 136#8
  show decode (some (mkWord 0x37#8 nw d a 0x8F#8)) (some (0x88#8 ++ (0#4 ++ (fmt ++ (0#8 ++ 136#8))))) = .ok (_, 2)
  generalize 0x88#8 ++ (0#4 ++ (fmt ++ (0#8 ++ 136#8))) = e at *
  exact decode_long (firstWord_mkWord ..) (op37 _ rfl) rfl (by simp [req, e24_8, e20_4, e16_4, e8_8, e0_8])

theorem fsqrt (nw : Bool) (d : BitVec 7) (a : BitVec 8) : Statement (.fsqrt nw d a) := by
  intro _
  exact decode_short (firstWord_mkWord ..) (op38 _ rfl) rfl rfl

theorem fsqrtExt (nw : Bool) (d : BitVec 7) (a : BitVec 8) (fmt : BitVec 4) : Statement (.fsqrtExt nw d a fmt) := by
  intro _
  obtain ⟨e24_8, e20_4, e16_4, e8_8, e0_8⟩ := parts_8_4_4_8_8 0x88#8 0#4 fmt 0#8 136#8
  show decode (some (mkWord 0x38#8 nw d a 0x8F#8)) (some (0x88#8 ++ (0#4 ++ (fmt ++ (0#8 ++ 136#8))))) = .ok (_, 2)
  generalize 0x88#8 ++ (0#4 ++ (fmt ++ (0#8 ++ 136#8))) = e at *
  exact decode_long (firstWord_mkWord ..) (op38 _ rfl) rfl (by simp [req, e24_8, e20_4, e16_4, e8_8, e0_8])

theorem frnd (nw : Bool) (d : BitVec 7) (a : BitVec 8) : Statement (.frnd nw d a) := by
  intro _
  exact decode_short (firstWord_mkWord ..) (op39 _ rfl) rfl rfl

theorem frndExt (nw : Bool) (d : BitVec 7) (a : BitVec 8) (fmt : BitVec 4) : Statement (.frndExt nw d a fmt) := by
  intro _
  obtain ⟨e24_8, e20_4, e16_4, e8_8, e0_8⟩ := parts_8_4_4_8_8 0x88#8 0#4 fmt 0#8 136#8
  show decode (some (mkWord 0x39#8 nw d a 0x8F#8)) (some (0x88#8 ++ (0#4 ++ (fmt ++ (0#8 ++ 136#8))))) = .ok (_, 2)
  generalize 0x88#8 ++ (0#4 ++ (fmt ++ (0#8 ++ 136#8))) = e at *
  exact decode_long (firstWord_mkWord ..) (op39 _ rfl) rfl (by simp [req, e24_8, e20_4, e16_4, e8_8, e0_8])

theorem cvt (nw : Bool) (d : BitVec 7) (a : BitVec 8) (fmt : BitVec 4) (six : BitVec 3) (sfmt : BitVec 4) : Statement (.cvt nw d a fmt six sfmt) := by
  intro _
  obtain ⟨e24_8, e20_4, e16_4, e7_9, e4_3, e0_4⟩ := parts_8_4_4_9_3_4 0x88#8 0#4 fmt 0#9 six sfmt
  show decode (some (mkWord 0x3A#8 nw d a 0x88#8)) (some (0x88#8 ++ (0#4 ++ (fmt ++ (0#9 ++ (six ++ sfmt)))))) = .ok (_, 2)
  generalize 0x88#8 ++ (0#4 ++ (fmt ++ (0#9 ++ (six ++ sfmt)))) = e at *
  exact decode_two (firstWord_mkWord ..) (op3A _ rfl) (by simp [req, e24_8, e20_4, e16_4, e7_9, e4_3, e0_4])

theorem cvtsc (nw : Bool) (d : BitVec 7) (a : BitVec 8) (b : BitVec 8) (fmt : BitVec 4) (six : BitVec 3) (sfmt : BitVec 4) : Statement (.cvtsc nw d a b fmt six sfmt) := by
  intro _
  obtain ⟨e24_8, e20_4, e16_4, e7_9, e4_3, e0_4⟩ := parts_8_4_4_9_3_4 0x88#8 0#4 fmt 0#9 six sfmt
  show decode (some (mkWord 0x3B#8 nw d a b)) (some (0x88#8 ++ (0#4 ++ (fmt ++ (0#9 ++ (six ++ sfmt)))))) = .ok (_, 2)
  generalize 0x88#8 ++ (0#4 ++ (fmt ++ (0#9 ++ (six ++ sfmt)))) = e at *
  exact decode_two (firstWord_mkWord ..) (op3B _ rfl) (by simp [req, e24_8, e20_4, e16_4, e7_9, e4_3, e0_4])

theorem pack (nw : Bool) (d : BitVec 7) (a : BitVec 8) (b : BitVec 8) (fmt : BitVec 4) (idx : BitVec 3) : Statement (.pack nw d a b fmt idx) := by
  intro _
  obtain ⟨e24_8, e20_4, e16_4, e3_13, e0_3⟩ := parts_8_4_4_13_3 0x88#8 0#4 fmt 0#13 idx
  show decode (some (mkWord 0x3C#8 nw d a b)) (some (0x88#8 ++ (0#4 ++ (fmt ++ (0#13 ++ idx))))) = .ok (_, 2)
  generalize 0x88#8 ++ (0#4 ++ (fmt ++ (0#13 ++ idx))) = e at *
  exact decode_two (firstWord_mkWord ..) (op3C _ rfl) (by simp [req, e24_8, e20_4, e16_4, e3_13, e0_3])

theorem unpk (nw : Bool) (d : BitVec 7) (a : BitVec 8) (fmt : BitVec 4) (idx : BitVec 3) : Statement (.unpk nw d a fmt idx) := by
  intro _
  obtain ⟨e24_8, e20_4, e16_4, e3_13, e0_3⟩ := parts_8_4_4_13_3 0x88#8 0#4 fmt 0#13 idx
  show decode (some (mkWord 0x3D#8 nw d a 0x88#8)) (some (0x88#8 ++ (0#4 ++ (fmt ++ (0#13 ++ idx))))) = .ok (_, 2)
  generalize 0x88#8 ++ (0#4 ++ (fmt ++ (0#13 ++ idx))) = e at *
  exact decode_two (firstWord_mkWord ..) (op3D _ rfl) (by simp [req, e24_8, e20_4, e16_4, e3_13, e0_3])

theorem idot4 (nw : Bool) (d : BitVec 7) (a : BitVec 8) (b : BitVec 8) : Statement (.idot4 nw d a b) := by
  intro h
  change (notMarker b) = true at h
  exact decode_short (firstWord_mkWord ..) (op3E _ rfl) (beq_marker h) rfl

theorem idot4Ext (nw : Bool) (d : BitVec 7) (a : BitVec 8) (c : BitVec 8) (fmt : BitVec 4) (b : BitVec 8) : Statement (.idot4Ext nw d a c fmt b) := by
  intro _
  obtain ⟨e24_8, e20_4, e16_4, e8_8, e0_8⟩ := parts_8_4_4_8_8 c 0#4 fmt 0#8 b
  show decode (some (mkWord 0x3E#8 nw d a 0x8F#8)) (some (c ++ (0#4 ++ (fmt ++ (0#8 ++ b))))) = .ok (_, 2)
  generalize c ++ (0#4 ++ (fmt ++ (0#8 ++ b))) = e at *
  exact decode_long (firstWord_mkWord ..) (op3E _ rfl) rfl (by simp [req, e24_8, e20_4, e16_4, e8_8, e0_8])

theorem fdot2 (nw : Bool) (d : BitVec 7) (a : BitVec 8) (b : BitVec 8) : Statement (.fdot2 nw d a b) := by
  intro h
  change (notMarker b) = true at h
  exact decode_short (firstWord_mkWord ..) (op3F _ rfl) (beq_marker h) rfl

theorem fdot2Ext (nw : Bool) (d : BitVec 7) (a : BitVec 8) (c : BitVec 8) (fmt : BitVec 4) (b : BitVec 8) : Statement (.fdot2Ext nw d a c fmt b) := by
  intro _
  obtain ⟨e24_8, e20_4, e16_4, e8_8, e0_8⟩ := parts_8_4_4_8_8 c 0#4 fmt 0#8 b
  show decode (some (mkWord 0x3F#8 nw d a 0x8F#8)) (some (c ++ (0#4 ++ (fmt ++ (0#8 ++ b))))) = .ok (_, 2)
  generalize c ++ (0#4 ++ (fmt ++ (0#8 ++ b))) = e at *
  exact decode_long (firstWord_mkWord ..) (op3F _ rfl) rfl (by simp [req, e24_8, e20_4, e16_4, e8_8, e0_8])

theorem shfl (nw : Bool) (d : BitVec 7) (a : BitVec 8) (b : BitVec 8) : Statement (.shfl nw d a b) := by
  intro h
  change (notMarker b) = true at h
  exact decode_short (firstWord_mkWord ..) (op40 _ rfl) (beq_marker h) rfl

theorem shflExt (nw : Bool) (d : BitVec 7) (a : BitVec 8) (c : BitVec 8) (fmt : BitVec 4) (b : BitVec 8) : Statement (.shflExt nw d a c fmt b) := by
  intro _
  obtain ⟨e24_8, e20_4, e16_4, e8_8, e0_8⟩ := parts_8_4_4_8_8 c 0#4 fmt 0#8 b
  show decode (some (mkWord 0x40#8 nw d a 0x8F#8)) (some (c ++ (0#4 ++ (fmt ++ (0#8 ++ b))))) = .ok (_, 2)
  generalize c ++ (0#4 ++ (fmt ++ (0#8 ++ b))) = e at *
  exact decode_long (firstWord_mkWord ..) (op40 _ rfl) rfl (by simp [req, e24_8, e20_4, e16_4, e8_8, e0_8])

theorem shflup (nw : Bool) (d : BitVec 7) (a : BitVec 8) (b : BitVec 8) : Statement (.shflup nw d a b) := by
  intro h
  change (notMarker b) = true at h
  exact decode_short (firstWord_mkWord ..) (op41 _ rfl) (beq_marker h) rfl

theorem shflupExt (nw : Bool) (d : BitVec 7) (a : BitVec 8) (c : BitVec 8) (fmt : BitVec 4) (b : BitVec 8) : Statement (.shflupExt nw d a c fmt b) := by
  intro _
  obtain ⟨e24_8, e20_4, e16_4, e8_8, e0_8⟩ := parts_8_4_4_8_8 c 0#4 fmt 0#8 b
  show decode (some (mkWord 0x41#8 nw d a 0x8F#8)) (some (c ++ (0#4 ++ (fmt ++ (0#8 ++ b))))) = .ok (_, 2)
  generalize c ++ (0#4 ++ (fmt ++ (0#8 ++ b))) = e at *
  exact decode_long (firstWord_mkWord ..) (op41 _ rfl) rfl (by simp [req, e24_8, e20_4, e16_4, e8_8, e0_8])

theorem shfldn (nw : Bool) (d : BitVec 7) (a : BitVec 8) (b : BitVec 8) : Statement (.shfldn nw d a b) := by
  intro h
  change (notMarker b) = true at h
  exact decode_short (firstWord_mkWord ..) (op42 _ rfl) (beq_marker h) rfl

theorem shfldnExt (nw : Bool) (d : BitVec 7) (a : BitVec 8) (c : BitVec 8) (fmt : BitVec 4) (b : BitVec 8) : Statement (.shfldnExt nw d a c fmt b) := by
  intro _
  obtain ⟨e24_8, e20_4, e16_4, e8_8, e0_8⟩ := parts_8_4_4_8_8 c 0#4 fmt 0#8 b
  show decode (some (mkWord 0x42#8 nw d a 0x8F#8)) (some (c ++ (0#4 ++ (fmt ++ (0#8 ++ b))))) = .ok (_, 2)
  generalize c ++ (0#4 ++ (fmt ++ (0#8 ++ b))) = e at *
  exact decode_long (firstWord_mkWord ..) (op42 _ rfl) rfl (by simp [req, e24_8, e20_4, e16_4, e8_8, e0_8])

theorem shflx (nw : Bool) (d : BitVec 7) (a : BitVec 8) (b : BitVec 8) : Statement (.shflx nw d a b) := by
  intro h
  change (notMarker b) = true at h
  exact decode_short (firstWord_mkWord ..) (op43 _ rfl) (beq_marker h) rfl

theorem shflxExt (nw : Bool) (d : BitVec 7) (a : BitVec 8) (c : BitVec 8) (fmt : BitVec 4) (b : BitVec 8) : Statement (.shflxExt nw d a c fmt b) := by
  intro _
  obtain ⟨e24_8, e20_4, e16_4, e8_8, e0_8⟩ := parts_8_4_4_8_8 c 0#4 fmt 0#8 b
  show decode (some (mkWord 0x43#8 nw d a 0x8F#8)) (some (c ++ (0#4 ++ (fmt ++ (0#8 ++ b))))) = .ok (_, 2)
  generalize c ++ (0#4 ++ (fmt ++ (0#8 ++ b))) = e at *
  exact decode_long (firstWord_mkWord ..) (op43 _ rfl) rfl (by simp [req, e24_8, e20_4, e16_4, e8_8, e0_8])

theorem lred (nw : Bool) (d : BitVec 7) (a : BitVec 8) (fmt : BitVec 4) (opr : BitVec 4) : Statement (.lred nw d a fmt opr) := by
  intro _
  obtain ⟨e24_8, e20_4, e16_4, e4_12, e0_4⟩ := parts_8_4_4_12_4 0x88#8 0#4 fmt 0#12 opr
  show decode (some (mkWord 0x44#8 nw d a 0x88#8)) (some (0x88#8 ++ (0#4 ++ (fmt ++ (0#12 ++ opr))))) = .ok (_, 2)
  generalize 0x88#8 ++ (0#4 ++ (fmt ++ (0#12 ++ opr))) = e at *
  exact decode_two (firstWord_mkWord ..) (op44 _ rfl) (by simp [req, e24_8, e20_4, e16_4, e4_12, e0_4])

theorem lscan (nw : Bool) (d : BitVec 7) (a : BitVec 8) (c : BitVec 8) (fmt : BitVec 4) (excl : BitVec 1) (opr : BitVec 4) : Statement (.lscan nw d a c fmt excl opr) := by
  intro _
  obtain ⟨e24_8, e20_4, e16_4, e5_11, e4_1, e0_4⟩ := parts_8_4_4_11_1_4 c 0#4 fmt 0#11 excl opr
  show decode (some (mkWord 0x45#8 nw d a 0x88#8)) (some (c ++ (0#4 ++ (fmt ++ (0#11 ++ (excl ++ opr)))))) = .ok (_, 2)
  generalize c ++ (0#4 ++ (fmt ++ (0#11 ++ (excl ++ opr)))) = e at *
  exact decode_two (firstWord_mkWord ..) (op45 _ rfl) (by simp [req, e24_8, e20_4, e16_4, e5_11, e4_1, e0_4])

theorem vote (nw : Bool) (d : BitVec 7) (a : BitVec 8) (mode : BitVec 2) : Statement (.vote nw d a mode) := by
  intro _
  obtain ⟨e24_8, e2_22, e0_2⟩ := parts_8_22_2 0x88#8 0#22 mode
  show decode (some (mkWord 0x46#8 nw d a 0x88#8)) (some (0x88#8 ++ (0#22 ++ mode))) = .ok (_, 2)
  generalize 0x88#8 ++ (0#22 ++ mode) = e at *
  exact decode_two (firstWord_mkWord ..) (op46 _ rfl) (by simp [req, e24_8, e2_22, e0_2])

theorem bcast (nw : Bool) (d : BitVec 7) (a : BitVec 8) (b : BitVec 8) (c : BitVec 8) : Statement (.bcast nw d a b c) := by
  intro _
  obtain ⟨e24_8, e0_24⟩ := parts_8_24 c 0#24
  show decode (some (mkWord 0x47#8 nw d a b)) (some (c ++ 0#24)) = .ok (_, 2)
  generalize c ++ 0#24 = e at *
  exact decode_two (firstWord_mkWord ..) (op47 _ rfl) (by simp [req, e24_8, e0_24])

theorem rvsend (a : BitVec 8) (n1 : BitVec 3) (slot : BitVec 4) : Statement (.rvsend a n1 slot) := by
  intro _
  obtain ⟨e24_8, e7_17, e4_3, e0_4⟩ := parts_8_17_3_4 0x88#8 0#17 n1 slot
  show decode (some (mkWord 0x48#8 false 0#7 a 0x88#8)) (some (0x88#8 ++ (0#17 ++ (n1 ++ slot)))) = .ok (_, 2)
  generalize 0x88#8 ++ (0#17 ++ (n1 ++ slot)) = e at *
  exact decode_two (firstWord_mkWord ..) (op48 _ rfl) (by simp [req, e24_8, e7_17, e4_3, e0_4])

theorem rvrecv (d : BitVec 7) (c : BitVec 8) (n1 : BitVec 3) (slot : BitVec 4) : Statement (.rvrecv d c n1 slot) := by
  intro _
  obtain ⟨e24_8, e7_17, e4_3, e0_4⟩ := parts_8_17_3_4 c 0#17 n1 slot
  show decode (some (mkWord 0x49#8 false d 0x88#8 0x88#8)) (some (c ++ (0#17 ++ (n1 ++ slot)))) = .ok (_, 2)
  generalize c ++ (0#17 ++ (n1 ++ slot)) = e at *
  exact decode_two (firstWord_mkWord ..) (op49 _ rfl) (by simp [req, e24_8, e7_17, e4_3, e0_4])

theorem xchgx (d : BitVec 7) (a : BitVec 8) (n1 : BitVec 2) (ch : BitVec 8) : Statement (.xchgx d a n1 ch) := by
  intro _
  obtain ⟨e24_8, e10_14, e8_2, e0_8⟩ := parts_8_14_2_8 0x88#8 0#14 n1 ch
  show decode (some (mkWord 0x4A#8 false d a 0x88#8)) (some (0x88#8 ++ (0#14 ++ (n1 ++ ch)))) = .ok (_, 2)
  generalize 0x88#8 ++ (0#14 ++ (n1 ++ ch)) = e at *
  exact decode_two (firstWord_mkWord ..) (op4A _ rfl) (by simp [req, e24_8, e10_14, e8_2, e0_8])

theorem lnsadd (nw : Bool) (d : BitVec 7) (a : BitVec 8) (b : BitVec 8) : Statement (.lnsadd nw d a b) := by
  intro _
  exact decode_one (firstWord_mkWord ..) (op4B _ rfl)

theorem lnsmul (nw : Bool) (d : BitVec 7) (a : BitVec 8) (b : BitVec 8) : Statement (.lnsmul nw d a b) := by
  intro _
  exact decode_one (firstWord_mkWord ..) (op4C _ rfl)

theorem ld (d : BitVec 7) (a : BitVec 8) (strm : BitVec 4) (fmt : BitVec 4) (scope : BitVec 3) (ord : BitVec 2) (imm : BitVec 11) : Statement (.ld d a strm fmt scope ord imm) := by
  intro h
  change (scopeRead ord scope) = true at h
  obtain ⟨e24_8, e20_4, e16_4, e13_3, e11_2, e0_11⟩ := parts_8_4_4_3_2_11 0x88#8 strm fmt scope ord imm
  show decode (some (mkWord 0x50#8 false d a 0x88#8)) (some (0x88#8 ++ (strm ++ (fmt ++ (scope ++ (ord ++ imm)))))) = .ok (_, 2)
  generalize 0x88#8 ++ (strm ++ (fmt ++ (scope ++ (ord ++ imm)))) = e at *
  exact decode_two (firstWord_mkWord ..) (op50 _ rfl) (by simp [req, e24_8, e20_4, e16_4, e13_3, e11_2, e0_11, h])

theorem st (a : BitVec 8) (b : BitVec 8) (strm : BitVec 4) (fmt : BitVec 4) (scope : BitVec 3) (ord : BitVec 2) (imm : BitVec 11) : Statement (.st a b strm fmt scope ord imm) := by
  intro h
  change (scopeRead ord scope) = true at h
  obtain ⟨e24_8, e20_4, e16_4, e13_3, e11_2, e0_11⟩ := parts_8_4_4_3_2_11 0x88#8 strm fmt scope ord imm
  show decode (some (mkWord 0x51#8 false 0#7 a b)) (some (0x88#8 ++ (strm ++ (fmt ++ (scope ++ (ord ++ imm)))))) = .ok (_, 2)
  generalize 0x88#8 ++ (strm ++ (fmt ++ (scope ++ (ord ++ imm)))) = e at *
  exact decode_two (firstWord_mkWord ..) (op51 _ rfl) (by simp [req, e24_8, e20_4, e16_4, e13_3, e11_2, e0_11, h])

theorem lds (d : BitVec 7) (a : BitVec 8) (strm : BitVec 4) (fmt : BitVec 4) (level : BitVec 2) (fe : BitVec 2) (imm : BitVec 11) : Statement (.lds d a strm fmt level fe imm) := by
  intro _
  obtain ⟨e24_8, e20_4, e16_4, e14_2, e12_2, e11_1, e0_11⟩ := parts_8_4_4_2_2_1_11 0x88#8 strm fmt level fe 0#1 imm
  show decode (some (mkWord 0x52#8 false d a 0x88#8)) (some (0x88#8 ++ (strm ++ (fmt ++ (level ++ (fe ++ (0#1 ++ imm))))))) = .ok (_, 2)
  generalize 0x88#8 ++ (strm ++ (fmt ++ (level ++ (fe ++ (0#1 ++ imm))))) = e at *
  exact decode_two (firstWord_mkWord ..) (op52 _ rfl) (by simp [req, e24_8, e20_4, e16_4, e14_2, e12_2, e11_1, e0_11])

theorem sts (a : BitVec 8) (b : BitVec 8) (strm : BitVec 4) (fmt : BitVec 4) (level : BitVec 2) (fe : BitVec 2) (imm : BitVec 11) : Statement (.sts a b strm fmt level fe imm) := by
  intro _
  obtain ⟨e24_8, e20_4, e16_4, e14_2, e12_2, e11_1, e0_11⟩ := parts_8_4_4_2_2_1_11 0x88#8 strm fmt level fe 0#1 imm
  show decode (some (mkWord 0x53#8 false 0#7 a b)) (some (0x88#8 ++ (strm ++ (fmt ++ (level ++ (fe ++ (0#1 ++ imm))))))) = .ok (_, 2)
  generalize 0x88#8 ++ (strm ++ (fmt ++ (level ++ (fe ++ (0#1 ++ imm))))) = e at *
  exact decode_two (firstWord_mkWord ..) (op53 _ rfl) (by simp [req, e24_8, e20_4, e16_4, e14_2, e12_2, e11_1, e0_11])

theorem atom (d : BitVec 7) (a : BitVec 8) (b : BitVec 8) (strm : BitVec 4) (fmt : BitVec 4) (scope : BitVec 3) (ord : BitVec 2) (aop : BitVec 5) (off : BitVec 6) : Statement (.atom d a b strm fmt scope ord aop off) := by
  intro h
  change (scopeRead ord scope) = true at h
  obtain ⟨e24_8, e20_4, e16_4, e13_3, e11_2, e6_5, e0_6⟩ := parts_8_4_4_3_2_5_6 0x88#8 strm fmt scope ord aop off
  show decode (some (mkWord 0x54#8 false d a b)) (some (0x88#8 ++ (strm ++ (fmt ++ (scope ++ (ord ++ (aop ++ off))))))) = .ok (_, 2)
  generalize 0x88#8 ++ (strm ++ (fmt ++ (scope ++ (ord ++ (aop ++ off))))) = e at *
  exact decode_two (firstWord_mkWord ..) (op54 _ rfl) (by simp [req, e24_8, e20_4, e16_4, e13_3, e11_2, e6_5, e0_6, h])

theorem red (a : BitVec 8) (b : BitVec 8) (strm : BitVec 4) (fmt : BitVec 4) (scope : BitVec 3) (ord : BitVec 2) (aop : BitVec 5) (off : BitVec 6) : Statement (.red a b strm fmt scope ord aop off) := by
  intro h
  change (scopeRead ord scope) = true at h
  obtain ⟨e24_8, e20_4, e16_4, e13_3, e11_2, e6_5, e0_6⟩ := parts_8_4_4_3_2_5_6 0x88#8 strm fmt scope ord aop off
  show decode (some (mkWord 0x55#8 false 0#7 a b)) (some (0x88#8 ++ (strm ++ (fmt ++ (scope ++ (ord ++ (aop ++ off))))))) = .ok (_, 2)
  generalize 0x88#8 ++ (strm ++ (fmt ++ (scope ++ (ord ++ (aop ++ off))))) = e at *
  exact decode_two (firstWord_mkWord ..) (op55 _ rfl) (by simp [req, e24_8, e20_4, e16_4, e13_3, e11_2, e6_5, e0_6, h])

theorem cas (d : BitVec 7) (a : BitVec 8) (b : BitVec 8) (c : BitVec 8) (strm : BitVec 4) (fmt : BitVec 4) (scope : BitVec 3) (ord : BitVec 2) (w64 : BitVec 1) (off : BitVec 6) : Statement (.cas d a b c strm fmt scope ord w64 off) := by
  intro h
  change (scopeRead ord scope) = true at h
  obtain ⟨e24_8, e20_4, e16_4, e13_3, e11_2, e10_1, e6_4, e0_6⟩ := parts_8_4_4_3_2_1_4_6 c strm fmt scope ord w64 0#4 off
  show decode (some (mkWord 0x56#8 false d a b)) (some (c ++ (strm ++ (fmt ++ (scope ++ (ord ++ (w64 ++ (0#4 ++ off)))))))) = .ok (_, 2)
  generalize c ++ (strm ++ (fmt ++ (scope ++ (ord ++ (w64 ++ (0#4 ++ off)))))) = e at *
  exact decode_two (firstWord_mkWord ..) (op56 _ rfl) (by simp [req, e24_8, e20_4, e16_4, e13_3, e11_2, e10_1, e6_4, e0_6, h])

theorem kvmap (d : BitVec 7) (a : BitVec 8) (b : BitVec 8) (c : BitVec 8) (strm : BitVec 4) (scope : BitVec 3) (ord : BitVec 2) (sel : BitVec 1) : Statement (.kvmap d a b c strm scope ord sel) := by
  intro h
  change (scopeRead ord scope) = true at h
  obtain ⟨e24_8, e20_4, e16_4, e13_3, e11_2, e1_10, e0_1⟩ := parts_8_4_4_3_2_10_1 c strm 0#4 scope ord 0#10 sel
  show decode (some (mkWord 0x57#8 false d a b)) (some (c ++ (strm ++ (0#4 ++ (scope ++ (ord ++ (0#10 ++ sel))))))) = .ok (_, 2)
  generalize c ++ (strm ++ (0#4 ++ (scope ++ (ord ++ (0#10 ++ sel))))) = e at *
  exact decode_two (firstWord_mkWord ..) (op57 _ rfl) (by simp [req, e24_8, e20_4, e16_4, e13_3, e11_2, e1_10, e0_1, h])

theorem kvapp (a : BitVec 8) (b : BitVec 8) (c : BitVec 8) (strm : BitVec 4) (scope : BitVec 3) (ord : BitVec 2) : Statement (.kvapp a b c strm scope ord) := by
  intro h
  change (scopeRead ord scope) = true at h
  obtain ⟨e24_8, e20_4, e16_4, e13_3, e11_2, e0_11⟩ := parts_8_4_4_3_2_11 c strm 0#4 scope ord 0#11
  show decode (some (mkWord 0x58#8 false 0#7 a b)) (some (c ++ (strm ++ (0#4 ++ (scope ++ (ord ++ 0#11)))))) = .ok (_, 2)
  generalize c ++ (strm ++ (0#4 ++ (scope ++ (ord ++ 0#11)))) = e at *
  exact decode_two (firstWord_mkWord ..) (op58 _ rfl) (by simp [req, e24_8, e20_4, e16_4, e13_3, e11_2, e0_11, h])

theorem qadd (d : BitVec 7) (a : BitVec 8) (b : BitVec 8) : Statement (.qadd d a b) := by
  intro _
  exact decode_one (firstWord_mkWord ..) (op60 _ rfl)

theorem qsub (d : BitVec 7) (a : BitVec 8) (b : BitVec 8) : Statement (.qsub d a b) := by
  intro _
  exact decode_one (firstWord_mkWord ..) (op61 _ rfl)

theorem qmul (d : BitVec 7) (a : BitVec 8) (b : BitVec 8) : Statement (.qmul d a b) := by
  intro _
  exact decode_one (firstWord_mkWord ..) (op62 _ rfl)

theorem qdiv (d : BitVec 7) (a : BitVec 8) (b : BitVec 8) : Statement (.qdiv d a b) := by
  intro _
  exact decode_one (firstWord_mkWord ..) (op63 _ rfl)

theorem qneg (d : BitVec 7) (a : BitVec 8) : Statement (.qneg d a) := by
  intro _
  exact decode_one (firstWord_mkWord ..) (op64 _ rfl)

theorem qenc (d : BitVec 7) (a : BitVec 8) (b : BitVec 8) : Statement (.qenc d a b) := by
  intro _
  exact decode_one (firstWord_mkWord ..) (op65 _ rfl)

theorem qdec (d : BitVec 7) (a : BitVec 8) : Statement (.qdec d a) := by
  intro _
  exact decode_one (firstWord_mkWord ..) (op66 _ rfl)

theorem nop : Statement .nop := by
  intro _
  exact decode_one (firstWord_mkWord ..) (op80 _ rfl)

theorem sadd (nw : Bool) (d : BitVec 7) (a : BitVec 8) (b : BitVec 8) : Statement (.sadd nw d a b) := by
  intro _
  exact decode_one (firstWord_mkWord ..) (op81 _ rfl)

theorem ssub (nw : Bool) (d : BitVec 7) (a : BitVec 8) (b : BitVec 8) : Statement (.ssub nw d a b) := by
  intro _
  exact decode_one (firstWord_mkWord ..) (op82 _ rfl)

theorem smul (nw : Bool) (d : BitVec 7) (a : BitVec 8) (b : BitVec 8) : Statement (.smul nw d a b) := by
  intro _
  exact decode_one (firstWord_mkWord ..) (op83 _ rfl)

theorem sand (nw : Bool) (d : BitVec 7) (a : BitVec 8) (b : BitVec 8) : Statement (.sand nw d a b) := by
  intro _
  exact decode_one (firstWord_mkWord ..) (op84 _ rfl)

theorem sor (nw : Bool) (d : BitVec 7) (a : BitVec 8) (b : BitVec 8) : Statement (.sor nw d a b) := by
  intro _
  exact decode_one (firstWord_mkWord ..) (op85 _ rfl)

theorem sxor (nw : Bool) (d : BitVec 7) (a : BitVec 8) (b : BitVec 8) : Statement (.sxor nw d a b) := by
  intro _
  exact decode_one (firstWord_mkWord ..) (op86 _ rfl)

theorem sshl (nw : Bool) (d : BitVec 7) (a : BitVec 8) (b : BitVec 8) : Statement (.sshl nw d a b) := by
  intro _
  exact decode_one (firstWord_mkWord ..) (op87 _ rfl)

theorem sshr (nw : Bool) (d : BitVec 7) (a : BitVec 8) (b : BitVec 8) : Statement (.sshr nw d a b) := by
  intro _
  exact decode_one (firstWord_mkWord ..) (op88 _ rfl)

theorem ssar (nw : Bool) (d : BitVec 7) (a : BitVec 8) (b : BitVec 8) : Statement (.ssar nw d a b) := by
  intro _
  exact decode_one (firstWord_mkWord ..) (op89 _ rfl)

theorem smin (nw : Bool) (d : BitVec 7) (a : BitVec 8) (b : BitVec 8) : Statement (.smin nw d a b) := by
  intro _
  exact decode_one (firstWord_mkWord ..) (op8A _ rfl)

theorem smax (nw : Bool) (d : BitVec 7) (a : BitVec 8) (b : BitVec 8) : Statement (.smax nw d a b) := by
  intro _
  exact decode_one (firstWord_mkWord ..) (op8B _ rfl)

theorem smov (nw : Bool) (d : BitVec 7) (a : BitVec 8) : Statement (.smov nw d a) := by
  intro _
  exact decode_one (firstWord_mkWord ..) (op8C _ rfl)

theorem spopc (nw : Bool) (d : BitVec 7) (a : BitVec 8) : Statement (.spopc nw d a) := by
  intro _
  exact decode_one (firstWord_mkWord ..) (op8D _ rfl)

theorem sclz (nw : Bool) (d : BitVec 7) (a : BitVec 8) : Statement (.sclz nw d a) := by
  intro _
  exact decode_one (firstWord_mkWord ..) (op8E _ rfl)

theorem sffs (nw : Bool) (d : BitVec 7) (a : BitVec 8) : Statement (.sffs nw d a) := by
  intro _
  exact decode_one (firstWord_mkWord ..) (op8F _ rfl)

theorem saddi (nw : Bool) (d : BitVec 7) (imm : BitVec 16) : Statement (.saddi nw d imm) := by
  intro _
  exact decode_one (firstWord_si ..) (op90 _ rfl)

theorem smovi (nw : Bool) (d : BitVec 7) (imm : BitVec 16) : Statement (.smovi nw d imm) := by
  intro _
  exact decode_one (firstWord_si ..) (op91 _ rfl)

theorem smovl (nw : Bool) (d : BitVec 7) (imm : BitVec 16) : Statement (.smovl nw d imm) := by
  intro _
  exact decode_one (firstWord_si ..) (op92 _ rfl)

theorem smovh (nw : Bool) (d : BitVec 7) (imm : BitVec 16) : Statement (.smovh nw d imm) := by
  intro _
  exact decode_one (firstWord_si ..) (op93 _ rfl)

theorem scmp (nw : Bool) (d : BitVec 7) (a : BitVec 8) (b : BitVec 8) (cond : BitVec 4) : Statement (.scmp nw d a b cond) := by
  intro _
  obtain ⟨e24_8, e20_4, e0_20⟩ := parts_8_4_20 0x88#8 cond 0#20
  show decode (some (mkWord 0x94#8 nw d a b)) (some (0x88#8 ++ (cond ++ 0#20))) = .ok (_, 2)
  generalize 0x88#8 ++ (cond ++ 0#20) = e at *
  exact decode_two (firstWord_mkWord ..) (op94 _ rfl) (by simp [req, e24_8, e20_4, e0_20])

theorem mfs (nw : Bool) (d : BitVec 7) (imm : BitVec 16) : Statement (.mfs nw d imm) := by
  intro _
  exact decode_one (firstWord_si ..) (op95 _ rfl)

theorem mts (d : BitVec 7) (imm : BitVec 16) : Statement (.mts d imm) := by
  intro _
  exact decode_one (firstWord_si ..) (op96 _ rfl)

theorem mvtcTo (d : BitVec 7) (a : BitVec 8) : Statement (.mvtcTo d a) := by
  intro _
  have e0_1 : bits (0x88#8 ++ 0#24) 0 1 = 0#1 := by decide
  have e0_24 : bits (0x88#8 ++ 0#24) 0 24 = 0#24 := by decide
  have e1_23 : bits (0x88#8 ++ 0#24) 1 23 = 0#23 := by decide
  have e24_8 : bits (0x88#8 ++ 0#24) 24 8 = 0x88#8 := by decide
  show decode (some (mkWord 0x97#8 false d a 0x88#8)) (some (0x88#8 ++ 0#24)) = .ok (_, 2)
  generalize 0x88#8 ++ 0#24 = e at *
  exact decode_two (firstWord_mkWord ..) (op97 _ rfl) (by simp [req, e0_1, e0_24, e24_8])

theorem mvtcFrom (nw : Bool) (d : BitVec 7) (a : BitVec 8) : Statement (.mvtcFrom nw d a) := by
  intro _
  have e0_1 : bits (0x88#8 ++ (0#23 ++ 1#1)) 0 1 = 1#1 := by decide
  have e0_24 : bits (0x88#8 ++ (0#23 ++ 1#1)) 0 24 = 1#24 := by decide
  have e1_23 : bits (0x88#8 ++ (0#23 ++ 1#1)) 1 23 = 0#23 := by decide
  have e24_8 : bits (0x88#8 ++ (0#23 ++ 1#1)) 24 8 = 0x88#8 := by decide
  show decode (some (mkWord 0x97#8 nw d a 0x88#8)) (some (0x88#8 ++ (0#23 ++ 1#1))) = .ok (_, 2)
  generalize 0x88#8 ++ (0#23 ++ 1#1) = e at *
  exact decode_two (firstWord_mkWord ..) (op97 _ rfl) (by simp [req, e0_1, e1_23, e24_8])

theorem bra (off : BitVec 24) : Statement (.bra off) := by
  intro _
  exact decode_one (firstWord_sb ..) (opA0 _ rfl)

theorem call (off : BitVec 24) : Statement (.call off) := by
  intro _
  exact decode_one (firstWord_sb ..) (opA1 _ rfl)

theorem brz (d : BitVec 7) (imm : BitVec 16) : Statement (.brz d imm) := by
  intro _
  exact decode_one (firstWord_si ..) (opA2 _ rfl)

theorem brnz (d : BitVec 7) (imm : BitVec 16) : Statement (.brnz d imm) := by
  intro _
  exact decode_one (firstWord_si ..) (opA3 _ rfl)

theorem brany (d : BitVec 7) (imm : BitVec 16) : Statement (.brany d imm) := by
  intro _
  exact decode_one (firstWord_si ..) (opA4 _ rfl)

theorem brall (d : BitVec 7) (imm : BitVec 16) : Statement (.brall d imm) := by
  intro _
  exact decode_one (firstWord_si ..) (opA5 _ rfl)

theorem brnone (d : BitVec 7) (imm : BitVec 16) : Statement (.brnone d imm) := by
  intro _
  exact decode_one (firstWord_si ..) (opA6 _ rfl)

theorem loop (d : BitVec 7) (imm : BitVec 16) : Statement (.loop d imm) := by
  intro _
  exact decode_one (firstWord_si ..) (opA7 _ rfl)

theorem ret (a : BitVec 8) : Statement (.ret a) := by
  intro _
  exact decode_one (firstWord_mkWord ..) (opA8 _ rfl)

theorem jmpr (nw : Bool) (d : BitVec 7) (a : BitVec 8) : Statement (.jmpr nw d a) := by
  intro _
  exact decode_one (firstWord_mkWord ..) (opA9 _ rfl)

theorem exit : Statement .exit := by
  intro _
  exact decode_one (firstWord_mkWord ..) (opAA _ rfl)

theorem exmand (a : BitVec 8) : Statement (.exmand a) := by
  intro _
  exact decode_one (firstWord_mkWord ..) (opAB _ rfl)

theorem exmset (a : BitVec 8) : Statement (.exmset a) := by
  intro _
  exact decode_one (firstWord_mkWord ..) (opAC _ rfl)

theorem trap (imm : BitVec 16) : Statement (.trap imm) := by
  intro _
  exact decode_one (firstWord_si ..) (opAD _ rfl)

theorem tret : Statement .tret := by
  intro _
  exact decode_one (firstWord_mkWord ..) (opAE _ rfl)

theorem ckpt : Statement .ckpt := by
  intro _
  exact decode_one (firstWord_mkWord ..) (opAF _ rfl)

theorem rep (cnt : BitVec 6) (sd : BitVec 1) (sa : BitVec 1) (sb : BitVec 1) (str : BitVec 2) : Statement (.rep cnt sd sa sb str) := by
  intro h
  show decode (some (0xB0#8 ++ (0#1 ++ (cnt ++ (sd ++ (sa ++ (sb ++ (str ++ 0#12)))))))) none = .ok (_, 1)
  obtain ⟨e1, e2, e3, e4, e5, e6, e7, e8⟩ := parts_8_1_6_1_1_1_2_12 0xB0#8 0#1 cnt sd sa sb str 0#12
  generalize 0xB0#8 ++ (0#1 ++ (cnt ++ (sd ++ (sa ++ (sb ++ (str ++ 0#12)))))) = w at *
  exact decode_one rfl ((opB0 (FirstWord.of w) e1).trans (by simp [FirstWord.of, req, e2, e3, e4, e5, e6, e7, e8]))

theorem mcall (d : BitVec 7) (a : BitVec 8) (b : BitVec 8) : Statement (.mcall d a b) := by
  intro _
  exact decode_one (firstWord_mkWord ..) (opB1 _ rfl)

theorem yield_ : Statement .yield_ := by
  intro _
  exact decode_one (firstWord_mkWord ..) (opB2 _ rfl)

theorem elect (nw : Bool) (d : BitVec 7) (a : BitVec 8) : Statement (.elect nw d a) := by
  intro _
  exact decode_one (firstWord_mkWord ..) (opB3 _ rfl)

theorem bar (scope : BitVec 3) (ord : BitVec 2) (id : BitVec 4) : Statement (.bar scope ord id) := by
  intro _
  obtain ⟨e24_8, e16_8, e13_3, e11_2, e4_7, e0_4⟩ := parts_8_8_3_2_7_4 0x88#8 0#8 scope ord 0#7 id
  show decode (some (mkWord 0xB8#8 false 0#7 0x88#8 0x88#8)) (some (0x88#8 ++ (0#8 ++ (scope ++ (ord ++ (0#7 ++ id)))))) = .ok (_, 2)
  generalize 0x88#8 ++ (0#8 ++ (scope ++ (ord ++ (0#7 ++ id)))) = e at *
  exact decode_two (firstWord_mkWord ..) (opB8 _ rfl) (by simp [req, e24_8, e16_8, e13_3, e11_2, e4_7, e0_4])

theorem bararv (scope : BitVec 3) (ord : BitVec 2) (id : BitVec 4) : Statement (.bararv scope ord id) := by
  intro _
  obtain ⟨e24_8, e16_8, e13_3, e11_2, e4_7, e0_4⟩ := parts_8_8_3_2_7_4 0x88#8 0#8 scope ord 0#7 id
  show decode (some (mkWord 0xB9#8 false 0#7 0x88#8 0x88#8)) (some (0x88#8 ++ (0#8 ++ (scope ++ (ord ++ (0#7 ++ id)))))) = .ok (_, 2)
  generalize 0x88#8 ++ (0#8 ++ (scope ++ (ord ++ (0#7 ++ id)))) = e at *
  exact decode_two (firstWord_mkWord ..) (opB9 _ rfl) (by simp [req, e24_8, e16_8, e13_3, e11_2, e4_7, e0_4])

theorem barwt (scope : BitVec 3) (ord : BitVec 2) (id : BitVec 4) : Statement (.barwt scope ord id) := by
  intro _
  obtain ⟨e24_8, e16_8, e13_3, e11_2, e4_7, e0_4⟩ := parts_8_8_3_2_7_4 0x88#8 0#8 scope ord 0#7 id
  show decode (some (mkWord 0xBA#8 false 0#7 0x88#8 0x88#8)) (some (0x88#8 ++ (0#8 ++ (scope ++ (ord ++ (0#7 ++ id)))))) = .ok (_, 2)
  generalize 0x88#8 ++ (0#8 ++ (scope ++ (ord ++ (0#7 ++ id)))) = e at *
  exact decode_two (firstWord_mkWord ..) (opBA _ rfl) (by simp [req, e24_8, e16_8, e13_3, e11_2, e4_7, e0_4])

theorem fence (strm : BitVec 4) (scope : BitVec 3) (ord : BitVec 2) : Statement (.fence strm scope ord) := by
  intro _
  obtain ⟨e24_8, e20_4, e16_4, e13_3, e11_2, e0_11⟩ := parts_8_4_4_3_2_11 0x88#8 strm 0#4 scope ord 0#11
  show decode (some (mkWord 0xBB#8 false 0#7 0x88#8 0x88#8)) (some (0x88#8 ++ (strm ++ (0#4 ++ (scope ++ (ord ++ 0#11)))))) = .ok (_, 2)
  generalize 0x88#8 ++ (strm ++ (0#4 ++ (scope ++ (ord ++ 0#11)))) = e at *
  exact decode_two (firstWord_mkWord ..) (opBB _ rfl) (by simp [req, e24_8, e20_4, e16_4, e13_3, e11_2, e0_11])

theorem sfence (a : BitVec 8) (scope : BitVec 3) (ord : BitVec 2) : Statement (.sfence a scope ord) := by
  intro _
  obtain ⟨e24_8, e16_8, e13_3, e11_2, e0_11⟩ := parts_8_8_3_2_11 0x88#8 0#8 scope ord 0#11
  show decode (some (mkWord 0xBC#8 false 0#7 a 0x88#8)) (some (0x88#8 ++ (0#8 ++ (scope ++ (ord ++ 0#11))))) = .ok (_, 2)
  generalize 0x88#8 ++ (0#8 ++ (scope ++ (ord ++ 0#11))) = e at *
  exact decode_two (firstWord_mkWord ..) (opBC _ rfl) (by simp [req, e24_8, e16_8, e13_3, e11_2, e0_11])

theorem qfence (d : BitVec 7) (scope : BitVec 3) (ord : BitVec 2) (qmask : BitVec 8) : Statement (.qfence d scope ord qmask) := by
  intro h
  change (scopeRead ord scope) = true at h
  obtain ⟨e24_8, e16_8, e13_3, e11_2, e8_3, e0_8⟩ := parts_8_8_3_2_3_8 0x88#8 0#8 scope ord 0#3 qmask
  show decode (some (mkWord 0xBD#8 false d 0x88#8 0x88#8)) (some (0x88#8 ++ (0#8 ++ (scope ++ (ord ++ (0#3 ++ qmask)))))) = .ok (_, 2)
  generalize 0x88#8 ++ (0#8 ++ (scope ++ (ord ++ (0#3 ++ qmask)))) = e at *
  exact decode_two (firstWord_mkWord ..) (opBD _ rfl) (by simp [req, e24_8, e16_8, e13_3, e11_2, e8_3, e0_8, h])

theorem qpush (a : BitVec 8) (b : BitVec 8) : Statement (.qpush a b) := by
  intro _
  exact decode_one (firstWord_mkWord ..) (opBE _ rfl)

theorem qpop (d : BitVec 7) (b : BitVec 8) : Statement (.qpop d b) := by
  intro _
  exact decode_one (firstWord_mkWord ..) (opBF _ rfl)

theorem evset (a : BitVec 8) (scope : BitVec 3) (ord : BitVec 2) (win : BitVec 2) : Statement (.evset a scope ord win) := by
  intro h
  change (scopeRead ord scope) = true at h
  obtain ⟨e24_8, e16_8, e13_3, e11_2, e2_9, e0_2⟩ := parts_8_8_3_2_9_2 0x88#8 0#8 scope ord 0#9 win
  show decode (some (mkWord 0xC0#8 false 0#7 a 0x88#8)) (some (0x88#8 ++ (0#8 ++ (scope ++ (ord ++ (0#9 ++ win)))))) = .ok (_, 2)
  generalize 0x88#8 ++ (0#8 ++ (scope ++ (ord ++ (0#9 ++ win)))) = e at *
  exact decode_two (firstWord_mkWord ..) (opC0 _ rfl) (by simp [req, e24_8, e16_8, e13_3, e11_2, e2_9, e0_2, h])

theorem evclr (a : BitVec 8) (scope : BitVec 3) (ord : BitVec 2) (win : BitVec 2) : Statement (.evclr a scope ord win) := by
  intro h
  change (scopeRead ord scope) = true at h
  obtain ⟨e24_8, e16_8, e13_3, e11_2, e2_9, e0_2⟩ := parts_8_8_3_2_9_2 0x88#8 0#8 scope ord 0#9 win
  show decode (some (mkWord 0xC1#8 false 0#7 a 0x88#8)) (some (0x88#8 ++ (0#8 ++ (scope ++ (ord ++ (0#9 ++ win)))))) = .ok (_, 2)
  generalize 0x88#8 ++ (0#8 ++ (scope ++ (ord ++ (0#9 ++ win)))) = e at *
  exact decode_two (firstWord_mkWord ..) (opC1 _ rfl) (by simp [req, e24_8, e16_8, e13_3, e11_2, e2_9, e0_2, h])

theorem evwait (a : BitVec 8) (scope : BitVec 3) (ord : BitVec 2) (any : BitVec 1) (win : BitVec 2) : Statement (.evwait a scope ord any win) := by
  intro h
  change (scopeRead ord scope) = true at h
  obtain ⟨e24_8, e16_8, e13_3, e11_2, e3_8, e2_1, e0_2⟩ := parts_8_8_3_2_8_1_2 0x88#8 0#8 scope ord 0#8 any win
  show decode (some (mkWord 0xC2#8 false 0#7 a 0x88#8)) (some (0x88#8 ++ (0#8 ++ (scope ++ (ord ++ (0#8 ++ (any ++ win))))))) = .ok (_, 2)
  generalize 0x88#8 ++ (0#8 ++ (scope ++ (ord ++ (0#8 ++ (any ++ win))))) = e at *
  exact decode_two (firstWord_mkWord ..) (opC2 _ rfl) (by simp [req, e24_8, e16_8, e13_3, e11_2, e3_8, e2_1, e0_2, h])

theorem acqtok (b : BitVec 8) : Statement (.acqtok b) := by
  intro _
  exact decode_one (firstWord_mkWord ..) (opC3 _ rfl)

theorem reltok (b : BitVec 8) : Statement (.reltok b) := by
  intro _
  exact decode_one (firstWord_mkWord ..) (opC4 _ rfl)

theorem tld (d : BitVec 7) (a : BitVec 8) (b : BitVec 8) (c : BitVec 8) (strm : BitVec 4) (scope : BitVec 3) (ord : BitVec 2) (q : BitVec 3) (dr : BitVec 3) (dc : BitVec 3) : Statement (.tld d a b c strm scope ord q dr dc) := by
  intro h
  change (scopeRead ord scope) = true at h
  obtain ⟨e24_8, e20_4, e16_4, e13_3, e11_2, e8_3, e6_2, e3_3, e0_3⟩ := parts_8_4_4_3_2_3_2_3_3 c strm 0#4 scope ord q 0#2 dr dc
  show decode (some (mkWord 0xD0#8 false d a b)) (some (c ++ (strm ++ (0#4 ++ (scope ++ (ord ++ (q ++ (0#2 ++ (dr ++ dc))))))))) = .ok (_, 2)
  generalize c ++ (strm ++ (0#4 ++ (scope ++ (ord ++ (q ++ (0#2 ++ (dr ++ dc))))))) = e at *
  exact decode_two (firstWord_mkWord ..) (opD0 _ rfl) (by simp [req, e24_8, e20_4, e16_4, e13_3, e11_2, e8_3, e6_2, e3_3, e0_3, h])

theorem tst (d : BitVec 7) (a : BitVec 8) (b : BitVec 8) (c : BitVec 8) (strm : BitVec 4) (scope : BitVec 3) (ord : BitVec 2) (q : BitVec 3) (dr : BitVec 3) (dc : BitVec 3) : Statement (.tst d a b c strm scope ord q dr dc) := by
  intro h
  change (scopeRead ord scope) = true at h
  obtain ⟨e24_8, e20_4, e16_4, e13_3, e11_2, e8_3, e6_2, e3_3, e0_3⟩ := parts_8_4_4_3_2_3_2_3_3 c strm 0#4 scope ord q 0#2 dr dc
  show decode (some (mkWord 0xD1#8 false d a b)) (some (c ++ (strm ++ (0#4 ++ (scope ++ (ord ++ (q ++ (0#2 ++ (dr ++ dc))))))))) = .ok (_, 2)
  generalize c ++ (strm ++ (0#4 ++ (scope ++ (ord ++ (q ++ (0#2 ++ (dr ++ dc))))))) = e at *
  exact decode_two (firstWord_mkWord ..) (opD1 _ rfl) (by simp [req, e24_8, e20_4, e16_4, e13_3, e11_2, e8_3, e6_2, e3_3, e0_3, h])

theorem tzero (d : BitVec 7) (kind : BitVec 1) : Statement (.tzero d kind) := by
  intro _
  obtain ⟨e24_8, e1_23, e0_1⟩ := parts_8_23_1 0x88#8 0#23 kind
  show decode (some (mkWord 0xD2#8 false d 0x88#8 0x88#8)) (some (0x88#8 ++ (0#23 ++ kind))) = .ok (_, 2)
  generalize 0x88#8 ++ (0#23 ++ kind) = e at *
  exact decode_two (firstWord_mkWord ..) (opD2 _ rfl) (by simp [req, e24_8, e1_23, e0_1])

theorem mma (d : BitVec 7) (a : BitVec 8) (b : BitVec 8) : Statement (.mma d a b) := by
  intro _
  have e0_24 : bits (0x88#8 ++ 0#24) 0 24 = 0#24 := by decide
  have e24_8 : bits (0x88#8 ++ 0#24) 24 8 = 0x88#8 := by decide
  show decode (some (mkWord 0xD3#8 false d a b)) (some (0x88#8 ++ 0#24)) = .ok (_, 2)
  generalize 0x88#8 ++ 0#24 = e at *
  exact decode_two (firstWord_mkWord ..) (opD3 _ rfl) (by simp [req, e0_24, e24_8])

theorem mmas (d : BitVec 7) (a : BitVec 8) (b : BitVec 8) (sb : BitVec 4) (sa : BitVec 4) : Statement (.mmas d a b sb sa) := by
  intro _
  obtain ⟨e24_8, e8_16, e4_4, e0_4⟩ := parts_8_16_4_4 0x88#8 0#16 sb sa
  show decode (some (mkWord 0xD4#8 false d a b)) (some (0x88#8 ++ (0#16 ++ (sb ++ sa)))) = .ok (_, 2)
  generalize 0x88#8 ++ (0#16 ++ (sb ++ sa)) = e at *
  exact decode_two (firstWord_mkWord ..) (opD4 _ rfl) (by simp [req, e24_8, e8_16, e4_4, e0_4])

theorem mmam (d : BitVec 7) (a : BitVec 8) (b : BitVec 8) (tm : BitVec 4) : Statement (.mmam d a b tm) := by
  intro _
  obtain ⟨e24_8, e4_20, e0_4⟩ := parts_8_20_4 0x88#8 0#20 tm
  show decode (some (mkWord 0xD5#8 false d a b)) (some (0x88#8 ++ (0#20 ++ tm))) = .ok (_, 2)
  generalize 0x88#8 ++ (0#20 ++ tm) = e at *
  exact decode_two (firstWord_mkWord ..) (opD5 _ rfl) (by simp [req, e24_8, e4_20, e0_4])

theorem accrd (d : BitVec 7) (a : BitVec 8) (b : BitVec 8) (row : BitVec 6) : Statement (.accrd d a b row) := by
  intro _
  obtain ⟨e24_8, e6_18, e0_6⟩ := parts_8_18_6 0x88#8 0#18 row
  show decode (some (mkWord 0xD6#8 false d a b)) (some (0x88#8 ++ (0#18 ++ row))) = .ok (_, 2)
  generalize 0x88#8 ++ (0#18 ++ row) = e at *
  exact decode_two (firstWord_mkWord ..) (opD6 _ rfl) (by simp [req, e24_8, e6_18, e0_6])

theorem accwr (a : BitVec 8) (b : BitVec 8) (c : BitVec 8) (row : BitVec 6) : Statement (.accwr a b c row) := by
  intro _
  obtain ⟨e24_8, e6_18, e0_6⟩ := parts_8_18_6 c 0#18 row
  show decode (some (mkWord 0xD7#8 false 0#7 a b)) (some (c ++ (0#18 ++ row))) = .ok (_, 2)
  generalize c ++ (0#18 ++ row) = e at *
  exact decode_two (firstWord_mkWord ..) (opD7 _ rfl) (by simp [req, e24_8, e6_18, e0_6])

theorem ttask (d : BitVec 7) (a : BitVec 8) (strm : BitVec 4) (scope : BitVec 3) (ord : BitVec 2) (q : BitVec 3) : Statement (.ttask d a strm scope ord q) := by
  intro h
  change (scopeRead ord scope) = true at h
  obtain ⟨e24_8, e20_4, e16_4, e13_3, e11_2, e8_3, e0_8⟩ := parts_8_4_4_3_2_3_8 0x88#8 strm 0#4 scope ord q 0#8
  show decode (some (mkWord 0xD8#8 false d a 0x88#8)) (some (0x88#8 ++ (strm ++ (0#4 ++ (scope ++ (ord ++ (q ++ 0#8))))))) = .ok (_, 2)
  generalize 0x88#8 ++ (strm ++ (0#4 ++ (scope ++ (ord ++ (q ++ 0#8))))) = e at *
  exact decode_two (firstWord_mkWord ..) (opD8 _ rfl) (by simp [req, e24_8, e20_4, e16_4, e13_3, e11_2, e8_3, e0_8, h])

theorem tdesc (d : BitVec 7) (a : BitVec 8) (c : BitVec 8) (strm : BitVec 4) (scope : BitVec 3) (ord : BitVec 2) (q : BitVec 3) : Statement (.tdesc d a c strm scope ord q) := by
  intro h
  change (scopeRead ord scope) = true at h
  obtain ⟨e24_8, e20_4, e16_4, e13_3, e11_2, e8_3, e0_8⟩ := parts_8_4_4_3_2_3_8 c strm 0#4 scope ord q 0#8
  show decode (some (mkWord 0xD9#8 false d a 0x88#8)) (some (c ++ (strm ++ (0#4 ++ (scope ++ (ord ++ (q ++ 0#8))))))) = .ok (_, 2)
  generalize c ++ (strm ++ (0#4 ++ (scope ++ (ord ++ (q ++ 0#8))))) = e at *
  exact decode_two (firstWord_mkWord ..) (opD9 _ rfl) (by simp [req, e24_8, e20_4, e16_4, e13_3, e11_2, e8_3, e0_8, h])

theorem remap (d : BitVec 7) (a : BitVec 8) (c : BitVec 8) (strm : BitVec 4) (scope : BitVec 3) (ord : BitVec 2) (q : BitVec 3) : Statement (.remap d a c strm scope ord q) := by
  intro h
  change (scopeRead ord scope) = true at h
  obtain ⟨e24_8, e20_4, e16_4, e13_3, e11_2, e8_3, e0_8⟩ := parts_8_4_4_3_2_3_8 c strm 0#4 scope ord q 0#8
  show decode (some (mkWord 0xDA#8 false d a 0x88#8)) (some (c ++ (strm ++ (0#4 ++ (scope ++ (ord ++ (q ++ 0#8))))))) = .ok (_, 2)
  generalize c ++ (strm ++ (0#4 ++ (scope ++ (ord ++ (q ++ 0#8))))) = e at *
  exact decode_two (firstWord_mkWord ..) (opDA _ rfl) (by simp [req, e24_8, e20_4, e16_4, e13_3, e11_2, e8_3, e0_8, h])

theorem cpy (d : BitVec 7) (a : BitVec 8) (b : BitVec 8) (c : BitVec 8) (strm : BitVec 4) (scope : BitVec 3) (ord : BitVec 2) (q : BitVec 3) (sloc : BitVec 2) (dloc : BitVec 2) : Statement (.cpy d a b c strm scope ord q sloc dloc) := by
  intro h
  change (scopeRead ord scope) = true at h
  obtain ⟨e24_8, e20_4, e16_4, e13_3, e11_2, e8_3, e7_1, e5_2, e3_2, e0_3⟩ := parts_8_4_4_3_2_3_1_2_2_3 c strm 0#4 scope ord q 0#1 sloc dloc 0#3
  show decode (some (mkWord 0xE0#8 false d a b)) (some (c ++ (strm ++ (0#4 ++ (scope ++ (ord ++ (q ++ (0#1 ++ (sloc ++ (dloc ++ 0#3)))))))))) = .ok (_, 2)
  generalize c ++ (strm ++ (0#4 ++ (scope ++ (ord ++ (q ++ (0#1 ++ (sloc ++ (dloc ++ 0#3)))))))) = e at *
  exact decode_two (firstWord_mkWord ..) (opE0 _ rfl) (by simp [req, e24_8, e20_4, e16_4, e13_3, e11_2, e8_3, e7_1, e5_2, e3_2, e0_3, h])

theorem cpyTensor (d : BitVec 7) (a : BitVec 8) (b : BitVec 8) (c : BitVec 8) (strm : BitVec 4) (scope : BitVec 3) (ord : BitVec 2) (q : BitVec 3) : Statement (.cpyTensor d a b c strm scope ord q) := by
  intro h
  change (scopeRead ord scope) = true at h
  obtain ⟨e24_8, e20_4, e16_4, e13_3, e11_2, e8_3, e7_1, e0_7⟩ := parts_8_4_4_3_2_3_1_7 c strm 0#4 scope ord q 1#1 0#7
  show decode (some (mkWord 0xE0#8 false d a b)) (some (c ++ (strm ++ (0#4 ++ (scope ++ (ord ++ (q ++ (1#1 ++ 0#7)))))))) = .ok (_, 2)
  generalize c ++ (strm ++ (0#4 ++ (scope ++ (ord ++ (q ++ (1#1 ++ 0#7)))))) = e at *
  exact decode_two (firstWord_mkWord ..) (opE0 _ rfl) (by simp [req, e24_8, e20_4, e16_4, e13_3, e11_2, e8_3, e7_1, e0_7, h])

theorem cpyacc (d : BitVec 7) (a : BitVec 8) (b : BitVec 8) (c : BitVec 8) (strm : BitVec 4) (fmt : BitVec 4) (scope : BitVec 3) (ord : BitVec 2) (q : BitVec 3) (sloc : BitVec 2) (dloc : BitVec 2) : Statement (.cpyacc d a b c strm fmt scope ord q sloc dloc) := by
  intro h
  change (scopeRead ord scope) = true at h
  obtain ⟨e24_8, e20_4, e16_4, e13_3, e11_2, e8_3, e7_1, e5_2, e3_2, e0_3⟩ := parts_8_4_4_3_2_3_1_2_2_3 c strm fmt scope ord q 0#1 sloc dloc 0#3
  show decode (some (mkWord 0xE1#8 false d a b)) (some (c ++ (strm ++ (fmt ++ (scope ++ (ord ++ (q ++ (0#1 ++ (sloc ++ (dloc ++ 0#3)))))))))) = .ok (_, 2)
  generalize c ++ (strm ++ (fmt ++ (scope ++ (ord ++ (q ++ (0#1 ++ (sloc ++ (dloc ++ 0#3)))))))) = e at *
  exact decode_two (firstWord_mkWord ..) (opE1 _ rfl) (by simp [req, e24_8, e20_4, e16_4, e13_3, e11_2, e8_3, e7_1, e5_2, e3_2, e0_3, h])

theorem cpydd (d : BitVec 7) (a : BitVec 8) (b : BitVec 8) (c : BitVec 8) (strm : BitVec 4) (scope : BitVec 3) (ord : BitVec 2) (q : BitVec 3) (sloc : BitVec 2) : Statement (.cpydd d a b c strm scope ord q sloc) := by
  intro h
  change (scopeRead ord scope) = true at h
  obtain ⟨e24_8, e20_4, e16_4, e13_3, e11_2, e8_3, e7_1, e5_2, e0_5⟩ := parts_8_4_4_3_2_3_1_2_5 c strm 0#4 scope ord q 0#1 sloc 0#5
  show decode (some (mkWord 0xE2#8 false d a b)) (some (c ++ (strm ++ (0#4 ++ (scope ++ (ord ++ (q ++ (0#1 ++ (sloc ++ 0#5))))))))) = .ok (_, 2)
  generalize c ++ (strm ++ (0#4 ++ (scope ++ (ord ++ (q ++ (0#1 ++ (sloc ++ 0#5))))))) = e at *
  exact decode_two (firstWord_mkWord ..) (opE2 _ rfl) (by simp [req, e24_8, e20_4, e16_4, e13_3, e11_2, e8_3, e7_1, e5_2, e0_5, h])

theorem gather (d : BitVec 7) (a : BitVec 8) (strm : BitVec 4) (scope : BitVec 3) (ord : BitVec 2) (q : BitVec 3) (sloc : BitVec 2) (dloc : BitVec 2) : Statement (.gather d a strm scope ord q sloc dloc) := by
  intro h
  change (scopeRead ord scope) = true at h
  obtain ⟨e24_8, e20_4, e16_4, e13_3, e11_2, e8_3, e7_1, e5_2, e3_2, e0_3⟩ := parts_8_4_4_3_2_3_1_2_2_3 0x88#8 strm 0#4 scope ord q 0#1 sloc dloc 0#3
  show decode (some (mkWord 0xE3#8 false d a 0x88#8)) (some (0x88#8 ++ (strm ++ (0#4 ++ (scope ++ (ord ++ (q ++ (0#1 ++ (sloc ++ (dloc ++ 0#3)))))))))) = .ok (_, 2)
  generalize 0x88#8 ++ (strm ++ (0#4 ++ (scope ++ (ord ++ (q ++ (0#1 ++ (sloc ++ (dloc ++ 0#3)))))))) = e at *
  exact decode_two (firstWord_mkWord ..) (opE3 _ rfl) (by simp [req, e24_8, e20_4, e16_4, e13_3, e11_2, e8_3, e7_1, e5_2, e3_2, e0_3, h])

theorem mcast (d : BitVec 7) (a : BitVec 8) (b : BitVec 8) (c : BitVec 8) (strm : BitVec 4) (scope : BitVec 3) (ord : BitVec 2) (q : BitVec 3) (sloc : BitVec 2) (dlev : BitVec 2) : Statement (.mcast d a b c strm scope ord q sloc dlev) := by
  intro h
  change (scopeRead ord scope) = true at h
  obtain ⟨e24_8, e20_4, e16_4, e13_3, e11_2, e8_3, e7_1, e5_2, e3_2, e0_3⟩ := parts_8_4_4_3_2_3_1_2_2_3 c strm 0#4 scope ord q 0#1 sloc dlev 0#3
  show decode (some (mkWord 0xE4#8 false d a b)) (some (c ++ (strm ++ (0#4 ++ (scope ++ (ord ++ (q ++ (0#1 ++ (sloc ++ (dlev ++ 0#3)))))))))) = .ok (_, 2)
  generalize c ++ (strm ++ (0#4 ++ (scope ++ (ord ++ (q ++ (0#1 ++ (sloc ++ (dlev ++ 0#3)))))))) = e at *
  exact decode_two (firstWord_mkWord ..) (opE4 _ rfl) (by simp [req, e24_8, e20_4, e16_4, e13_3, e11_2, e8_3, e7_1, e5_2, e3_2, e0_3, h])

theorem mcastTensor (d : BitVec 7) (a : BitVec 8) (b : BitVec 8) (c : BitVec 8) (strm : BitVec 4) (scope : BitVec 3) (ord : BitVec 2) (q : BitVec 3) (dlev : BitVec 2) : Statement (.mcastTensor d a b c strm scope ord q dlev) := by
  intro h
  change (scopeRead ord scope) = true at h
  obtain ⟨e24_8, e20_4, e16_4, e13_3, e11_2, e8_3, e7_1, e5_2, e3_2, e0_3⟩ := parts_8_4_4_3_2_3_1_2_2_3 c strm 0#4 scope ord q 1#1 0#2 dlev 0#3
  show decode (some (mkWord 0xE4#8 false d a b)) (some (c ++ (strm ++ (0#4 ++ (scope ++ (ord ++ (q ++ (1#1 ++ (0#2 ++ (dlev ++ 0#3)))))))))) = .ok (_, 2)
  generalize c ++ (strm ++ (0#4 ++ (scope ++ (ord ++ (q ++ (1#1 ++ (0#2 ++ (dlev ++ 0#3)))))))) = e at *
  exact decode_two (firstWord_mkWord ..) (opE4 _ rfl) (by simp [req, e24_8, e20_4, e16_4, e13_3, e11_2, e8_3, e7_1, e5_2, e3_2, e0_3, h])

theorem bclose : Statement .bclose := by
  intro _
  have e0_24 : bits (0x88#8 ++ 0#24) 0 24 = 0#24 := by decide
  have e24_8 : bits (0x88#8 ++ 0#24) 24 8 = 0x88#8 := by decide
  show decode (some (mkWord 0xE5#8 false 0#7 0x88#8 0x88#8)) (some (0x88#8 ++ 0#24)) = .ok (_, 2)
  generalize 0x88#8 ++ 0#24 = e at *
  exact decode_two (firstWord_mkWord ..) (opE5 _ rfl) (by simp [req, e0_24, e24_8])

theorem bwait (scope : BitVec 3) (ord : BitVec 2) (n : BitVec 8) : Statement (.bwait scope ord n) := by
  intro h
  change (scopeRead ord scope) = true at h
  obtain ⟨e24_8, e16_8, e13_3, e11_2, e8_3, e0_8⟩ := parts_8_8_3_2_3_8 0x88#8 0#8 scope ord 0#3 n
  show decode (some (mkWord 0xE6#8 false 0#7 0x88#8 0x88#8)) (some (0x88#8 ++ (0#8 ++ (scope ++ (ord ++ (0#3 ++ n)))))) = .ok (_, 2)
  generalize 0x88#8 ++ (0#8 ++ (scope ++ (ord ++ (0#3 ++ n)))) = e at *
  exact decode_two (firstWord_mkWord ..) (opE6 _ rfl) (by simp [req, e24_8, e16_8, e13_3, e11_2, e8_3, e0_8, h])

theorem crmerge (d : BitVec 7) (a : BitVec 8) (b : BitVec 8) (c : BitVec 8) (strm : BitVec 4) (scope : BitVec 3) (ord : BitVec 2) (q : BitVec 3) (slot : BitVec 4) : Statement (.crmerge d a b c strm scope ord q slot) := by
  intro h
  change (scopeRead ord scope) = true at h
  obtain ⟨e24_8, e20_4, e16_4, e13_3, e11_2, e8_3, e4_4, e0_4⟩ := parts_8_4_4_3_2_3_4_4 c strm 0#4 scope ord q 0#4 slot
  show decode (some (mkWord 0xE7#8 false d a b)) (some (c ++ (strm ++ (0#4 ++ (scope ++ (ord ++ (q ++ (0#4 ++ slot)))))))) = .ok (_, 2)
  generalize c ++ (strm ++ (0#4 ++ (scope ++ (ord ++ (q ++ (0#4 ++ slot)))))) = e at *
  exact decode_two (firstWord_mkWord ..) (opE7 _ rfl) (by simp [req, e24_8, e20_4, e16_4, e13_3, e11_2, e8_3, e4_4, e0_4, h])

theorem crfin (d : BitVec 7) (a : BitVec 8) (b : BitVec 8) (c : BitVec 8) (strm : BitVec 4) (scope : BitVec 3) (ord : BitVec 2) (q : BitVec 3) (slot : BitVec 4) : Statement (.crfin d a b c strm scope ord q slot) := by
  intro h
  change (scopeRead ord scope) = true at h
  obtain ⟨e24_8, e20_4, e16_4, e13_3, e11_2, e8_3, e4_4, e0_4⟩ := parts_8_4_4_3_2_3_4_4 c strm 0#4 scope ord q 0#4 slot
  show decode (some (mkWord 0xE8#8 false d a b)) (some (c ++ (strm ++ (0#4 ++ (scope ++ (ord ++ (q ++ (0#4 ++ slot)))))))) = .ok (_, 2)
  generalize c ++ (strm ++ (0#4 ++ (scope ++ (ord ++ (q ++ (0#4 ++ slot)))))) = e at *
  exact decode_two (firstWord_mkWord ..) (opE8 _ rfl) (by simp [req, e24_8, e20_4, e16_4, e13_3, e11_2, e8_3, e4_4, e0_4, h])

theorem cvopen (d : BitVec 7) (a : BitVec 8) (strm : BitVec 4) (scope : BitVec 3) (ord : BitVec 2) : Statement (.cvopen d a strm scope ord) := by
  intro h
  change (scopeRead ord scope) = true at h
  obtain ⟨e24_8, e20_4, e16_4, e13_3, e11_2, e0_11⟩ := parts_8_4_4_3_2_11 0x88#8 strm 0#4 scope ord 0#11
  show decode (some (mkWord 0xF0#8 false d a 0x88#8)) (some (0x88#8 ++ (strm ++ (0#4 ++ (scope ++ (ord ++ 0#11)))))) = .ok (_, 2)
  generalize 0x88#8 ++ (strm ++ (0#4 ++ (scope ++ (ord ++ 0#11)))) = e at *
  exact decode_two (firstWord_mkWord ..) (opF0 _ rfl) (by simp [req, e24_8, e20_4, e16_4, e13_3, e11_2, e0_11, h])

theorem cvbind (a : BitVec 8) (strm : BitVec 4) (scope : BitVec 3) (ord : BitVec 2) (rr : BitVec 2) (role : BitVec 3) : Statement (.cvbind a strm scope ord rr role) := by
  intro h
  change (scopeRead ord scope) = true at h
  obtain ⟨e24_8, e20_4, e16_4, e13_3, e11_2, e5_6, e3_2, e0_3⟩ := parts_8_4_4_3_2_6_2_3 0x88#8 strm 0#4 scope ord 0#6 rr role
  show decode (some (mkWord 0xF1#8 false 0#7 a 0x88#8)) (some (0x88#8 ++ (strm ++ (0#4 ++ (scope ++ (ord ++ (0#6 ++ (rr ++ role)))))))) = .ok (_, 2)
  generalize 0x88#8 ++ (strm ++ (0#4 ++ (scope ++ (ord ++ (0#6 ++ (rr ++ role)))))) = e at *
  exact decode_two (firstWord_mkWord ..) (opF1 _ rfl) (by simp [req, e24_8, e20_4, e16_4, e13_3, e11_2, e5_6, e3_2, e0_3, h])

theorem cvsend (a : BitVec 8) (b : BitVec 8) (strm : BitVec 4) (scope : BitVec 3) (ord : BitVec 2) (im : BitVec 1) (rr : BitVec 2) (kind : BitVec 5) : Statement (.cvsend a b strm scope ord im rr kind) := by
  intro h
  change (scopeRead ord scope && (im == 0#1 || b == 0x88#8)) = true at h
  obtain ⟨e24_8, e20_4, e16_4, e13_3, e11_2, e8_3, e7_1, e5_2, e0_5⟩ := parts_8_4_4_3_2_3_1_2_5 0x88#8 strm 0#4 scope ord 0#3 im rr kind
  show decode (some (mkWord 0xF2#8 false 0#7 a b)) (some (0x88#8 ++ (strm ++ (0#4 ++ (scope ++ (ord ++ (0#3 ++ (im ++ (rr ++ kind))))))))) = .ok (_, 2)
  generalize 0x88#8 ++ (strm ++ (0#4 ++ (scope ++ (ord ++ (0#3 ++ (im ++ (rr ++ kind))))))) = e at *
  simp only [Bool.and_eq_true, Bool.or_eq_true, beq_iff_eq] at h
  exact decode_two (firstWord_mkWord ..) (opF2 _ rfl) (by simp [req, e24_8, e20_4, e16_4, e13_3, e11_2, e8_3, e7_1, e5_2, e0_5, h.1, h.2])

theorem cvrecv (d : BitVec 7) (a : BitVec 8) (strm : BitVec 4) (scope : BitVec 3) (ord : BitVec 2) (rr : BitVec 2) : Statement (.cvrecv d a strm scope ord rr) := by
  intro h
  change (scopeRead ord scope) = true at h
  obtain ⟨e24_8, e20_4, e16_4, e13_3, e11_2, e7_4, e5_2, e0_5⟩ := parts_8_4_4_3_2_4_2_5 0x88#8 strm 0#4 scope ord 0#4 rr 0#5
  show decode (some (mkWord 0xF3#8 false d a 0x88#8)) (some (0x88#8 ++ (strm ++ (0#4 ++ (scope ++ (ord ++ (0#4 ++ (rr ++ 0#5)))))))) = .ok (_, 2)
  generalize 0x88#8 ++ (strm ++ (0#4 ++ (scope ++ (ord ++ (0#4 ++ (rr ++ 0#5)))))) = e at *
  exact decode_two (firstWord_mkWord ..) (opF3 _ rfl) (by simp [req, e24_8, e20_4, e16_4, e13_3, e11_2, e7_4, e5_2, e0_5, h])

theorem cvchoose (strm : BitVec 4) (scope : BitVec 3) (ord : BitVec 2) (rr : BitVec 2) (kind : BitVec 5) : Statement (.cvchoose strm scope ord rr kind) := by
  intro h
  change (scopeRead ord scope) = true at h
  obtain ⟨e24_8, e20_4, e16_4, e13_3, e11_2, e7_4, e5_2, e0_5⟩ := parts_8_4_4_3_2_4_2_5 0x88#8 strm 0#4 scope ord 0#4 rr kind
  show decode (some (mkWord 0xF4#8 false 0#7 0x88#8 0x88#8)) (some (0x88#8 ++ (strm ++ (0#4 ++ (scope ++ (ord ++ (0#4 ++ (rr ++ kind)))))))) = .ok (_, 2)
  generalize 0x88#8 ++ (strm ++ (0#4 ++ (scope ++ (ord ++ (0#4 ++ (rr ++ kind)))))) = e at *
  exact decode_two (firstWord_mkWord ..) (opF4 _ rfl) (by simp [req, e24_8, e20_4, e16_4, e13_3, e11_2, e7_4, e5_2, e0_5, h])

theorem cvdeleg (strm : BitVec 4) (scope : BitVec 3) (ord : BitVec 2) (rrp : BitVec 2) (rr : BitVec 2) (kind : BitVec 5) : Statement (.cvdeleg strm scope ord rrp rr kind) := by
  intro h
  change (scopeRead ord scope) = true at h
  obtain ⟨e24_8, e20_4, e16_4, e13_3, e11_2, e9_2, e7_2, e5_2, e0_5⟩ := parts_8_4_4_3_2_2_2_2_5 0x88#8 strm 0#4 scope ord 0#2 rrp rr kind
  show decode (some (mkWord 0xF5#8 false 0#7 0x88#8 0x88#8)) (some (0x88#8 ++ (strm ++ (0#4 ++ (scope ++ (ord ++ (0#2 ++ (rrp ++ (rr ++ kind))))))))) = .ok (_, 2)
  generalize 0x88#8 ++ (strm ++ (0#4 ++ (scope ++ (ord ++ (0#2 ++ (rrp ++ (rr ++ kind))))))) = e at *
  exact decode_two (firstWord_mkWord ..) (opF5 _ rfl) (by simp [req, e24_8, e20_4, e16_4, e13_3, e11_2, e9_2, e7_2, e5_2, e0_5, h])

theorem cvclose (strm : BitVec 4) (scope : BitVec 3) (ord : BitVec 2) (rr : BitVec 2) : Statement (.cvclose strm scope ord rr) := by
  intro h
  change (scopeRead ord scope) = true at h
  obtain ⟨e24_8, e20_4, e16_4, e13_3, e11_2, e7_4, e5_2, e0_5⟩ := parts_8_4_4_3_2_4_2_5 0x88#8 strm 0#4 scope ord 0#4 rr 0#5
  show decode (some (mkWord 0xF6#8 false 0#7 0x88#8 0x88#8)) (some (0x88#8 ++ (strm ++ (0#4 ++ (scope ++ (ord ++ (0#4 ++ (rr ++ 0#5)))))))) = .ok (_, 2)
  generalize 0x88#8 ++ (strm ++ (0#4 ++ (scope ++ (ord ++ (0#4 ++ (rr ++ 0#5)))))) = e at *
  exact decode_two (firstWord_mkWord ..) (opF6 _ rfl) (by simp [req, e24_8, e20_4, e16_4, e13_3, e11_2, e7_4, e5_2, e0_5, h])

theorem ttclr (a : BitVec 8) : Statement (.ttclr a) := by
  intro _
  have e0_24 : bits (0x88#8 ++ 0#24) 0 24 = 0#24 := by decide
  have e24_8 : bits (0x88#8 ++ 0#24) 24 8 = 0x88#8 := by decide
  show decode (some (mkWord 0xF8#8 false 0#7 a 0x88#8)) (some (0x88#8 ++ 0#24)) = .ok (_, 2)
  generalize 0x88#8 ++ 0#24 = e at *
  exact decode_two (firstWord_mkWord ..) (opF8 _ rfl) (by simp [req, e0_24, e24_8])

theorem ttadd (d : BitVec 7) (a : BitVec 8) (b : BitVec 8) : Statement (.ttadd d a b) := by
  intro _
  have e0_24 : bits (0x88#8 ++ 0#24) 0 24 = 0#24 := by decide
  have e24_8 : bits (0x88#8 ++ 0#24) 24 8 = 0x88#8 := by decide
  show decode (some (mkWord 0xF9#8 false d a b)) (some (0x88#8 ++ 0#24)) = .ok (_, 2)
  generalize 0x88#8 ++ 0#24 = e at *
  exact decode_two (firstWord_mkWord ..) (opF9 _ rfl) (by simp [req, e0_24, e24_8])

theorem ttanc (a : BitVec 8) (b : BitVec 8) : Statement (.ttanc a b) := by
  intro _
  have e0_24 : bits (0x88#8 ++ 0#24) 0 24 = 0#24 := by decide
  have e24_8 : bits (0x88#8 ++ 0#24) 24 8 = 0x88#8 := by decide
  show decode (some (mkWord 0xFA#8 false 0#7 a b)) (some (0x88#8 ++ 0#24)) = .ok (_, 2)
  generalize 0x88#8 ++ 0#24 = e at *
  exact decode_two (firstWord_mkWord ..) (opFA _ rfl) (by simp [req, e0_24, e24_8])

theorem ttpos (d : BitVec 7) (a : BitVec 8) (sel : BitVec 1) : Statement (.ttpos d a sel) := by
  intro _
  obtain ⟨e24_8, e1_23, e0_1⟩ := parts_8_23_1 0x88#8 0#23 sel
  show decode (some (mkWord 0xFB#8 false d a 0x88#8)) (some (0x88#8 ++ (0#23 ++ sel))) = .ok (_, 2)
  generalize 0x88#8 ++ (0#23 ++ sel) = e at *
  exact decode_two (firstWord_mkWord ..) (opFB _ rfl) (by simp [req, e24_8, e1_23, e0_1])

theorem ttprune (d : BitVec 7) (a : BitVec 8) (c : BitVec 8) : Statement (.ttprune d a c) := by
  intro _
  obtain ⟨e24_8, e0_24⟩ := parts_8_24 c 0#24
  show decode (some (mkWord 0xFC#8 false d a 0x88#8)) (some (c ++ 0#24)) = .ok (_, 2)
  generalize c ++ 0#24 = e at *
  exact decode_two (firstWord_mkWord ..) (opFC _ rfl) (by simp [req, e24_8, e0_24])

theorem instructionFetchFault (crew : Nat) : Statement (.instructionFetchFault crew) := fun _ => trivial

theorem chainAbandon (crew : Nat) : Statement (.chainAbandon crew) := fun _ => trivial

theorem chainResume (crew : Nat) : Statement (.chainResume crew) := fun _ => trivial

theorem pickerUrgent (crew : Nat) : Statement (.pickerUrgent crew) := fun _ => trivial

theorem handlerInstructionLimit (crew : Nat) : Statement (.handlerInstructionLimit crew) := fun _ => trivial

theorem handlerWaitLimit (crew : Nat) : Statement (.handlerWaitLimit crew) := fun _ => trivial

theorem crewInterruptDelivery (crew : Nat) : Statement (.crewInterruptDelivery crew) := fun _ => trivial

theorem teamRetire (slot : Nat) : Statement (.teamRetire slot) := fun _ => trivial

theorem evecWriteback (ctx : Nat) : Statement (.evecWriteback ctx) := fun _ => trivial

theorem almanacSchedule (act : Nat) (launch : Nat) (slot : Nat) : Statement (.almanacSchedule act launch slot) := fun _ => trivial

theorem slotBind (slot : Nat) : Statement (.slotBind slot) := fun _ => trivial

theorem slotRestore (slot : Nat) : Statement (.slotRestore slot) := fun _ => trivial

theorem slotPreempt (slot : Nat) : Statement (.slotPreempt slot) := fun _ => trivial

theorem slotOpReserved (slot : Nat) : Statement (.slotOpReserved slot) := fun _ => trivial

theorem slotHoldUpdate (slot : Nat) (hold : Bool) (prio : Nat) : Statement (.slotHoldUpdate slot hold prio) := fun _ => trivial

theorem forcedSaveExpiry (slot : Nat) : Statement (.forcedSaveExpiry slot) := fun _ => trivial

theorem saveComplete (slot : Nat) : Statement (.saveComplete slot) := fun _ => trivial

theorem faultDomainEnd (ctx : Nat) (fdom : Nat) : Statement (.faultDomainEnd ctx fdom) := fun _ => trivial

theorem unitFence (core : Nat) : Statement (.unitFence core) := fun _ => trivial

theorem granuleService (crew : Nat) (granule : Nat) : Statement (.granuleService crew granule) := fun _ => trivial

theorem queueService (crew : Nat) : Statement (.queueService crew) := fun _ => trivial

theorem barrierRelease (launch : Nat) (phase : Nat) : Statement (.barrierRelease launch phase) := fun _ => trivial

theorem rendezvousMatch (team : Nat) (slot : Nat) : Statement (.rendezvousMatch team slot) := fun _ => trivial

theorem xchgxPair (launch : Nat) (ch : Nat) : Statement (.xchgxPair launch ch) := fun _ => trivial

theorem remoteReply (req : Nat) (refusal : Nat) (data : BitVec 64) : Statement (.remoteReply req refusal data) := fun _ => trivial

theorem remoteRequestArrive (src : Nat) (tag : Nat) (sec : Bool) (kind : Nat) (va : BitVec 64) (size : Nat) (aop : BitVec 5) (fmt : BitVec 4) (data : BitVec 64) (data2 : BitVec 64) : Statement (.remoteRequestArrive src tag sec kind va size aop fmt data data2) := fun _ => trivial

theorem requestLost (req : Nat) : Statement (.requestLost req) := fun _ => trivial

theorem leaseGrant (cluster : Nat) (line : Nat) (size : Nat) : Statement (.leaseGrant cluster line size) := fun _ => trivial

theorem leaseIdleRelease (cluster : Nat) (line : Nat) : Statement (.leaseIdleRelease cluster line) := fun _ => trivial

theorem cowPath (ctx : Nat) (page : Nat) : Statement (.cowPath ctx page) := fun _ => trivial

theorem engineCommandStart (team : Nat) (q : Nat) : Statement (.engineCommandStart team q) := fun _ => trivial

theorem engineCommandComplete (team : Nat) (q : Nat) : Statement (.engineCommandComplete team q) := fun _ => trivial

theorem matrixStep (core : Nat) (party : Nat) : Statement (.matrixStep core party) := fun _ => trivial

theorem remapPass (crew : Option Nat) (team : Nat) (q : Nat) : Statement (.remapPass crew team q) := fun _ => trivial

theorem tileTaskDispatch (cluster : Nat) (task : Nat) : Statement (.tileTaskDispatch cluster task) := fun _ => trivial

theorem taskDependencePoll (cluster : Nat) (task : Nat) : Statement (.taskDependencePoll cluster task) := fun _ => trivial

theorem tileTaskComplete (cluster : Nat) (task : Nat) : Statement (.tileTaskComplete cluster task) := fun _ => trivial

theorem cpyaccContribution (team : Nat) (q : Nat) : Statement (.cpyaccContribution team q) := fun _ => trivial

theorem mergeSessionMerge (cluster : Nat) (launch : Nat) (slot : Nat) : Statement (.mergeSessionMerge cluster launch slot) := fun _ => trivial

theorem crfinComplete (team : Nat) (q : Nat) : Statement (.crfinComplete team q) := fun _ => trivial

theorem cpyddPageStep (team : Nat) (q : Nat) : Statement (.cpyddPageStep team q) := fun _ => trivial

theorem convHomeRequest (crew : Nat) : Statement (.convHomeRequest crew) := fun _ => trivial

theorem convAccept (conv : Nat) : Statement (.convAccept conv) := fun _ => trivial

theorem convDeliver (crew : Nat) : Statement (.convDeliver crew) := fun _ => trivial

theorem kick (fn : Nat) (ring : Nat) (v : BitVec 64) : Statement (.kick fn ring v) := fun _ => trivial

theorem rctlWrite (fn : Nat) (ring : Nat) (v : BitVec 64) : Statement (.rctlWrite fn ring v) := fun _ => trivial

theorem ringRecordRead (fn : Nat) (ring : Nat) (hostRec : BitVec 1024) : Statement (.ringRecordRead fn ring hostRec) := fun _ => trivial

theorem ringStaleTimeout (fn : Nat) (ring : Nat) : Statement (.ringStaleTimeout fn ring) := fun _ => trivial

theorem evdataRead (fn : Nat) (win : Nat) : Statement (.evdataRead fn win) := fun _ => trivial

theorem hostBar2Read (fn : Nat) (addr : Nat) (size : Nat) : Statement (.hostBar2Read fn addr size) := fun _ => trivial

theorem hostBar2Write (fn : Nat) (addr : Nat) (size : Nat) (data : BitVec 64) : Statement (.hostBar2Write fn addr size data) := fun _ => trivial

theorem invcmd (v : BitVec 64) : Statement (.invcmd v) := fun _ => trivial

theorem invalidationDrainDone : Statement .invalidationDrainDone := fun _ => trivial

theorem attcmd (v : BitVec 64) : Statement (.attcmd v) := fun _ => trivial

theorem attestationReportDone : Statement .attestationReportDone := fun _ => trivial

theorem rsvbase (v : BitVec 64) : Statement (.rsvbase v) := fun _ => trivial

theorem rsvtail (v : BitVec 64) : Statement (.rsvtail v) := fun _ => trivial

theorem fdcmd (v : BitVec 64) : Statement (.fdcmd v) := fun _ => trivial

theorem cirqcmd (v : BitVec 64) : Statement (.cirqcmd v) := fun _ => trivial

theorem seclimitWrite (stack : Nat) (range : Nat) (limit : Bool) (sec : Bool) (v : BitVec 64) : Statement (.seclimitWrite stack range limit sec v) := fun _ => trivial

theorem eqtrig (v : BitVec 64) : Statement (.eqtrig v) := fun _ => trivial

theorem equinoxBufferDone : Statement .equinoxBufferDone := fun _ => trivial

theorem vigilClr (m : Nat) (v : BitVec 64) : Statement (.vigilClr m v) := fun _ => trivial

theorem vigilSample (m : Nat) (v : Nat) : Statement (.vigilSample m v) := fun _ => trivial

theorem registerWrite (fn : Nat) (off : Nat) (v : BitVec 64) : Statement (.registerWrite fn off v) := fun _ => trivial

theorem i3cHealthRead : Statement .i3cHealthRead := fun _ => trivial

theorem boot : Statement .boot := fun _ => trivial

theorem thermalTrip (die : Nat) : Statement (.thermalTrip die) := fun _ => trivial

theorem powerWindow (watts : Nat) : Statement (.powerWindow watts) := fun _ => trivial

theorem linkReplay (link : Nat) : Statement (.linkReplay link) := fun _ => trivial

theorem linkRetrain (link : Nat) (ok : Bool) : Statement (.linkRetrain link ok) := fun _ => trivial

theorem crossbarAging (die : Nat) (port : Nat) (input : Nat) : Statement (.crossbarAging die port input) := fun _ => trivial

theorem errorWindowEnd (kind : Nat) : Statement (.errorWindowEnd kind) := fun _ => trivial

theorem copyEngineError (team : Nat) (q : Nat) : Statement (.copyEngineError team q) := fun _ => trivial

theorem matrixEngineError (core : Nat) : Statement (.matrixEngineError core) := fun _ => trivial

theorem loadResultReturn (crew : Nat) (reg : Nat) : Statement (.loadResultReturn crew reg) := fun _ => trivial

theorem remoteAcknowledgement (req : Nat) : Statement (.remoteAcknowledgement req) := fun _ => trivial

end RoundTrip
end Sys2Proof.Laws
end

