-- ==== Sys2Proof/Laws/Results.lean ====
section
/-! SUPPORT. What the shared operations of the lane and uniform instructions do: with their operands good they complete with
their result, and leave everything else. -/
namespace Sys2Proof.Machine
open Sys2Proof.Safety

theorem laneOp1_done {s : State} {nw : Bool} {d : BitVec 7} {a : BitVec 8} {words : Nat} {f : Word → Word} {g : Nat → DWord}
    (hd : s.dV d = true) (ha : s.laneOk a = true) (hm : mayRun s [a])
    (hg : ∀ l ∈ s.active, (f (s.lane a l)).setWidth 64 = g l) :
    laneDone (laneOp1 s nw d a words f) s false nw d [a] words 0 g := by
  unfold laneOp1
  refine laneDone_plain rfl (by rfl) (by rfl) hm ?_ (by rfl) ?_
  · simp [lanePlan, State.dstOk, hd, ha]
  · simpa [lanePlan] using hg

theorem laneOp2_done {s : State} {nw : Bool} {d : BitVec 7} {a b : BitVec 8} {words : Nat} {f : Word → Word → Word}
    {g : Nat → DWord} (hd : s.dV d = true) (ha : s.laneOk a = true) (hb : s.laneOk b = true) (hm : mayRun s [a, b])
    (hg : ∀ l ∈ s.active, (f (s.lane a l) (s.lane b l)).setWidth 64 = g l) :
    laneDone (laneOp2 s nw d a b words f) s false nw d [a, b] words 0 g := by
  unfold laneOp2
  refine laneDone_plain rfl (by rfl) (by rfl) hm ?_ (by rfl) ?_
  · simp [lanePlan, State.dstOk, hd, ha, hb]
  · simpa [lanePlan] using hg

theorem laneOp3_done {s : State} {nw : Bool} {d : BitVec 7} {a b c : BitVec 8} {f : Word → Word → Word → Word}
    {g : Nat → DWord} (hd : s.dV d = true) (ha : s.laneOk a = true) (hb : s.laneOk b = true) (hc : s.laneOk c = true)
    (hm : mayRun s [a, b, c]) (hg : ∀ l ∈ s.active, (f (s.lane a l) (s.lane b l) (s.lane c l)).setWidth 64 = g l) :
    laneDone (laneOp3 s nw d a b c f) s false nw d [a, b, c] 2 0 g := by
  unfold laneOp3
  refine laneDone_plain rfl (by rfl) (by rfl) hm ?_ (by rfl) ?_
  · simp [lanePlan, State.dstOk, hd, ha, hb, hc]
  · simpa [lanePlan] using hg

theorem packedOp_done {s : State} {nw : Bool} {d : BitVec 7} {a b : BitVec 8} {fmt : BitVec 4} {words w : Nat}
    {f : Nat → Nat → Nat → Nat} {g : Nat → DWord} (hw : intWidth fmt = some w) (hd : s.dV d = true) (ha : s.laneOk a = true)
    (hb : s.laneOk b = true) (hm : mayRun s [a, b])
    (hg : ∀ l ∈ s.active, (packed w (f w) (s.lane a l) (s.lane b l)).setWidth 64 = g l) :
    laneDone (packedOp s nw d a b fmt words f) s false nw d [a, b] words 0 g := by
  unfold packedOp
  refine laneDone_plain rfl (by rfl) (by rfl) hm ?_ (by rfl) ?_
  · simp [lanePlan, State.dstOk, hd, ha, hb, hw]
  · simpa [lanePlan, hw] using hg

theorem lanePair2_done {s : State} {nw : Bool} {d : BitVec 7} {a b : BitVec 8} {f : DWord → DWord → DWord} {g : Nat → DWord}
    (hd : s.dPair d = true) (ha : s.pairOk a = true) (hb : s.pairOk b = true) (hm : mayRun s [a, b])
    (hg : ∀ l ∈ s.active, f (s.pair a l) (s.pair b l) = g l) :
    laneDone (lanePair2 s nw d a b f) s true nw d [a, b] 1 0 g := by
  unfold lanePair2
  refine laneDone_plain rfl (by rfl) (by rfl) hm ?_ (by rfl) ?_
  · simp [lanePlan, State.dstOk, hd, ha, hb]
  · simpa [lanePlan] using hg

theorem scalar2_done {s : State} {nw : Bool} {d : BitVec 7} {a b : BitVec 8} {f : DWord → DWord → DWord}
    (hd : dS d = true) (ha : isUniform a = true) (hb : isUniform b = true) (hm : mayRun s [a, b]) :
    uniformDone (scalar2 s nw d a b f) s nw d [a, b] 1 0 (f (s.uni a) (s.uni b)) := by
  unfold scalar2
  refine uniformDone_plain rfl (by rfl) (by rfl) hm ?_ ?_
  · simp [hd, ha, hb]
  · simp

theorem scalar1_done {s : State} {nw : Bool} {d : BitVec 7} {a : BitVec 8} {f : DWord → DWord}
    (hd : dS d = true) (ha : isUniform a = true) (hm : mayRun s [a]) :
    uniformDone (scalar1 s nw d a f) s nw d [a] 1 0 (f (s.uni a)) := by
  unfold scalar1
  refine uniformDone_plain rfl (by rfl) (by rfl) hm ?_ ?_
  · simp [hd, ha]
  · simp

/-- An instruction without source codes reads no latch. -/
theorem mayRun_nil (s : State) : mayRun s [] := fun h => by simp [readsLatch] at h

theorem scalarImm_done {s : State} {nw : Bool} {d : BitVec 7} {imm : BitVec 16} {f : DWord → BitVec 16 → DWord}
    (hd : dS d = true) : uniformDone (scalarImm s nw d imm f) s nw d [] 1 0 (f (s.crew.getS (sNum d)) imm) := by
  unfold scalarImm
  refine uniformDone_plain rfl (by rfl) (by rfl) (mayRun_nil s) ?_ ?_
  · simp [hd]
  · simp

/-! Packed results and their flags. -/

theorem sideBySide_lt (z : Nat) (g : Nat → Res) (n : Nat) : (sideBySide z g n).code < 2 ^ (z * n) := by
  induction n with
  | zero => simp [sideBySide]
  | succ n ih =>
    simp only [sideBySide]
    have h : (g n).code % 2 ^ z < 2 ^ z := Nat.mod_lt _ (Nat.two_pow_pos z)
    have e : 2 ^ (z * (n + 1)) = 2 ^ z * 2 ^ (z * n) := by rw [Nat.mul_succ, Nat.pow_add, Nat.mul_comm]
    have h2 : ((g n).code % 2 ^ z + 1) * 2 ^ (z * n) ≤ 2 ^ z * 2 ^ (z * n) := Nat.mul_le_mul_right _ h
    rw [Nat.add_mul, Nat.one_mul] at h2
    omega

/-- Each of the elements side by side is the result for it. -/
theorem sideBySide_element (z : Nat) (g : Nat → Res) (n j : Nat) (h : j < n) :
    (sideBySide z g n).code / 2 ^ (z * j) % 2 ^ z = (g j).code % 2 ^ z := by
  induction n with
  | zero => omega
  | succ n ih =>
    simp only [sideBySide]
    by_cases hj : j = n
    · subst hj
      rw [Nat.add_mul_div_right _ _ (Nat.two_pow_pos _), Nat.div_eq_of_lt (sideBySide_lt z g j), Nat.zero_add, Nat.mod_mod]
    · have hlt : j < n := by omega
      have e : z * n = z * j + (z + z * (n - j - 1)) := by
        have : n = j + (1 + (n - j - 1)) := by omega
        rw (occs := .pos [1]) [this]
        rw [Nat.mul_add, Nat.mul_add, Nat.mul_one]
      have e2 : (g n).code % 2 ^ z * 2 ^ (z * n) = 2 ^ (z * j) * (2 ^ z * (2 ^ (z * (n - j - 1)) * ((g n).code % 2 ^ z))) := by
        rw [e, Nat.pow_add, Nat.pow_add, Nat.mul_comm]
        simp only [Nat.mul_assoc]
      rw [e2, Nat.add_mul_div_left _ _ (Nat.two_pow_pos _), Nat.add_mul_mod_self_left]
      exact ih hlt

theorem sideBySide_flags (z : Nat) (g : Nat → Res) (n k : Nat) :
    (sideBySide z g n).fl.testBit k = true ↔ ∃ j, j < n ∧ (g j).fl.testBit k = true := by
  induction n with
  | zero => simp [sideBySide]
  | succ n ih =>
    simp only [sideBySide, Nat.testBit_or, Bool.or_eq_true, ih]
    constructor
    · rintro (⟨j, hj, h⟩ | h)
      · exact ⟨j, by omega, h⟩
      · exact ⟨n, by omega, h⟩
    · rintro ⟨j, hj, h⟩
      by_cases e : j = n
      · subst e; exact Or.inr h
      · exact Or.inl ⟨j, by omega, h⟩

theorem foldl_or_testBit (ls : List Nat) (f : Nat → Nat) (m k : Nat) :
    (ls.foldl (fun m l => m ||| f l) m).testBit k = true ↔ m.testBit k = true ∨ ∃ l ∈ ls, (f l).testBit k = true := by
  induction ls generalizing m with
  | nil => simp
  | cons l ls ih =>
    rw [List.foldl_cons, ih, Nat.testBit_or, Bool.or_eq_true]
    simp only [List.mem_cons, exists_eq_or_imp]
    exact or_assoc

/-- The flags of a lane result are those that some active lane raises (R106). -/
theorem laneFlags_testBit (s : State) (g : Nat → Res) (k : Nat) :
    (s.laneFlags g).testBit k = true ↔ ∃ l ∈ s.active, (g l).fl.testBit k = true := by
  unfold State.laneFlags
  rw [foldl_or_testBit]
  simp

@[simp] theorem begin_laneFlags (s : State) (ch : Bool) (g : Nat → Res) : (s.begin ch).laneFlags g = s.laneFlags g := by
  simp [State.laneFlags]

/-- A floating-point instruction: its packed result and its flags. -/
theorem floatOp_done {s : State} {nw : Bool} {d : BitVec 7} {srcs : List (BitVec 8)} {fmt : BitVec 4} {words n z : Nat}
    {f : State → Nat → Nat → (BitVec 8 → Nat) → Res} {g : Nat → Nat → Res} (hf : floatForm fmt = some (n, z))
    (hd : s.dstOk (fmt == 0#4) d = true) (hs : srcs.all (s.srcOk (fmt == 0#4)) = true) (hm : mayRun s srcs)
    (hg : ∀ l ∈ s.active, ∀ j, f (s.begin (readsLatch srcs)) l fmt.toNat
      (fun x => field ((s.begin (readsLatch srcs)).laneW (fmt == 0#4) x l).toNat (z * j) z) = g l j) :
    laneDone (floatOp s nw d srcs fmt words f) s (fmt == 0#4) nw d srcs words
      (s.laneFlags fun l => sideBySide z (g l) n) (fun l => dw (sideBySide z (g l) n).code) := by
  unfold floatOp
  have hcongr : ∀ l ∈ s.active, (sideBySide z (fun j => f (s.begin (readsLatch srcs)) l fmt.toNat
      (fun x => field ((s.begin (readsLatch srcs)).laneW (fmt == 0#4) x l).toNat (z * j) z)) n) = sideBySide z (g l) n := by
    intro l hl
    congr 1
    funext j
    exact hg l hl j
  refine laneDone_perform (g := fun l => dw (sideBySide z (fun j => f (s.begin (readsLatch srcs)) l fmt.toNat
      (fun x => field ((s.begin (readsLatch srcs)).laneW (fmt == 0#4) x l).toNat (z * j) z)) n).code)
    rfl (by rfl) (by rfl) hm ?_ ?_ ?_
  · simp only [hf, hd, Option.isSome_some, Bool.true_and]; exact hs
  · simp only [hf, Option.getD_some, State.putRes]
    congr 2
    unfold State.laneFlags
    rw [State.begin_active]
    have : ∀ (ls : List Nat), (∀ l ∈ ls, l ∈ s.active) → ∀ m, ls.foldl (fun m l => m ||| (sideBySide z (fun j =>
        f (s.begin (readsLatch srcs)) l fmt.toNat (fun x =>
          field ((s.begin (readsLatch srcs)).laneW (fmt == 0#4) x l).toNat (z * j) z)) n).fl) m =
        ls.foldl (fun m l => m ||| (sideBySide z (g l) n).fl) m := by
      intro ls
      induction ls with
      | nil => intro _ m; rfl
      | cons l ls ih =>
        intro h m
        simp only [List.foldl_cons]
        rw [hcongr l (h l (by simp)), ih (fun x hx => h x (by simp [hx]))]
    exact this s.active (fun _ h => h) 0
  · intro l hl
    rw [hcongr l hl]

end Sys2Proof.Machine
end

