-- ==== Sys2Proof/Tests/Slice0.lean ====
section
/-! SUPPORT. Tests: words written out from the spec, refused terms, one step of an instruction with a result from the spec's worked
cases or worked out by hand from its rule, and a state that meets the hypotheses of each statement. -/
open Sys2Proof Sys2Proof.Machine Sys2Proof.Safety Sys2Proof.Claims

namespace Sys2Proof.Tests

set_option Elab.async false
set_option maxRecDepth 8000
set_option exponentiation.threshold 5000

/-! Well-formedness: an ill-formed term for each check. -/

theorem test_wf_marker : (∀ i ∈ [Instr.iadd false 1 2 0x8F, .ffma false 1 2 0x8F, .shfl false 1 2 0x8F, .idot4 false 1 2 0x8F],
    wellFormed i = false) ∧ wellFormed (.iadd false 1 2 0x8E) = true := by decide
theorem test_wf_scope : (∀ i ∈ [Instr.ld 2 0x62 0 13 3 0 0, .qfence 0x62 3 0 1, .bwait 3 0 0, .cvopen 0x66 0x62 0 3 0],
    wellFormed i = false) ∧ wellFormed (.ld 2 0x62 0 13 3 1 0) = true ∧ wellFormed (.ld 2 0x62 0 13 0 0 0) = true := by decide
theorem test_wf_send : wellFormed (.cvsend 0x64 0x65 0 0 0 1 1 3) = false ∧ wellFormed (.cvsend 0x64 0x88 0 0 0 1 1 3) = true ∧
    wellFormed (.cvsend 0x64 0x65 0 0 0 0 1 3) = true := by decide
theorem test_wf_units : (∀ i ∈ [Instr.chainAbandon 24576, .teamRetire 1536, .unitFence 768, .leaseGrant 96 0 64, .engineCommandStart 0 8,
    .convAccept 4096, .kick 2 0 0, .kick 0 8 0, .evdataRead 0 4, .seclimitWrite 8 0 false true 0, .seclimitWrite 0 4 false true 0,
    .vigilClr 32 0, .thermalTrip 8, .crossbarAging 0 72 0], wellFormed i = false) ∧
    wellFormed (.chainAbandon 24575) = true ∧ wellFormed (.teamRetire 1535) = true ∧ wellFormed (.unitFence 767) = true := by decide

/-! Decoding: words from the worked encodings of the spec, the operand words above the first at bits 63 to 32. -/

def word (w e : Nat) : Option Instr := decodeTableWord 64 (w + e * 2 ^ 32)

theorem test_decode_integer : word 0x00018988 0 = some (.iadd false 0x01 0x89 0x88) ∧ word 0x21098002 0 = some (.shli false 0x09 0x80 0x02) ∧
    word 0x0002008F 0x880B0001 = some (.iaddExt false 0x02 0x00 0xB 0x01) ∧
    word 0x17030102 0x04000000 = some (.bperm false 0x03 0x01 0x02 0x04) ∧
    word 0x18050102 0x030000CA = some (.bitf false 0x05 0x01 0x02 0x03 0xC 0xA) ∧
    word 0x19060466 0 = some (.iadd64 false 0x06 0x04 0x66) := by decide
theorem test_decode_float : word 0x2B04068F 0x0A000008 = some (.ffmaExt false 0x04 0x06 0x0A 0x0 0x08) ∧
    word 0x2B040608 0 = some (.ffma false 0x04 0x06 0x08) ∧ word 0x3A030288 0x88040001 = some (.cvt false 0x03 0x02 0x4 0 0x1) := by decide
theorem test_decode_lanes : word 0x4204038F 0x8C0D0061 = some (.shfldnExt false 0x04 0x03 0x8C 0xD 0x61) ∧
    word 0x44060588 0x88010008 = some (.lred false 0x06 0x05 0x1 0x8) ∧ word 0x63080004 0 = some (.qdiv 0x08 0x00 0x04) := by decide
theorem test_decode_uniform : word 0x81636162 0 = some (.sadd false 0x63 0x61 0x62) ∧ word 0x92631234 0 = some (.smovl false 0x63 0x1234) ∧
    word 0x94686162 0x88600000 = some (.scmp false 0x68 0x61 0x62 0x6) ∧ word 0x95690008 0 = some (.mfs false 0x69 0x0008) ∧
    word 0x96690008 0 = some (.mts 0x69 0x0008) ∧ word 0x97026488 0x88000000 = some (.mvtcTo 0x02 0x64) := by decide
theorem test_decode_control : word 0xA0FFFFF8 0 = some (.bra 0xFFFFF8) ∧ word 0xA767FFF8 0 = some (.loop 0x67 0xFFF8) ∧
    word 0xB1081002 0 = some (.mcall 0x08 0x10 0x02) ∧ word 0xB0078000 0 = some (.rep 3 1 1 0 0) ∧ word 0xAA008888 0 = some .exit := by decide
theorem test_decode_memory : word 0x51000802 0x88040003 = some (.st 0x08 0x02 0 0x4 0 0 3) ∧
    word 0x54066204 0x880D0000 = some (.atom 0x06 0x62 0x04 0 0xD 0 0 0 0) ∧
    word 0x570A0264 0x65006800 = some (.kvmap 0x0A 0x02 0x64 0x65 0 3 1 0) ∧ word 0x58001464 0x65007000 = some (.kvapp 0x14 0x64 0x65 0 3 2) := by
  decide
theorem test_decode_ordering : word 0xBE006403 0 = some (.qpush 0x64 0x03) ∧ word 0xBF658803 0 = some (.qpop 0x65 0x03) ∧
    word 0xC4008802 0 = some (.reltok 0x02) ∧ word 0xC3008802 0 = some (.acqtok 0x02) := by decide
theorem test_decode_tensor : word 0xD0666803 0x62000208 = some (.tld 0x66 0x68 0x03 0x62 0 0 0 2 1 0) ∧
    word 0xD2038888 0x88000001 = some (.tzero 0x03 1) ∧ word 0xD3020001 0x88000000 = some (.mma 0x02 0x00 0x01) ∧
    word 0xE0666263 0x64002960 = some (.cpy 0x66 0x62 0x63 0x64 0 1 1 1 3 0) ∧
    word 0xE7660104 0x69000300 = some (.crmerge 0x66 0x01 0x04 0x69 0 0 0 3 0) := by decide
theorem test_decode_special : word 0xF2006488 0x880090A3 = some (.cvsend 0x64 0x88 0 4 2 1 1 3) ∧
    word 0xF36A8888 0x88008820 = some (.cvrecv 0x6A 0x88 0 4 1 1) ∧ word 0xF9660203 0x88000000 = some (.ttadd 0x66 0x02 0x03) := by decide
theorem test_decode_refuses : word 0xFFFFFFFF 0 = none ∧ word 0x27000000 0 = none ∧ word 0x4D000000 0 = none ∧ word 0x98000000 0 = none ∧
    word 0x80000001 0 = none ∧ word 0xAA008889 0 = none ∧ word 0x0002008F 0x880B0101 = none := by decide

/-! One step of one instruction. -/

/-- The value of register r in lane l. -/
def v (r l : Nat) (x : Word) : Nat × Word := (32 * r + l, x)

/-- One crew at PC 0 with the lanes of exm active and these registers. -/
def crewOf (exm : BitVec 32) (vs : List (Nat × Word)) (ss : List (Nat × DWord)) : State :=
  let s := State.reset.withFetchWord 32 0
  s.setCrew { s.crew with exm := exm, v := vs, sr := ss }

/-- The same with the instruction word w at the PC. -/
def fetching (w e : Nat) (exm : BitVec 32) (vs : List (Nat × Word)) (ss : List (Nat × DWord)) : State :=
  let s := State.reset.withFetchWord 64 (w + e * 2 ^ 32)
  s.setCrew { s.crew with exm := exm, v := vs, sr := ss }

/-- A property of the next state, false where there is none. -/
def after (o : Out) (p : State → Bool) : Bool := match o with | .next t => p t | _ => false

def vIs (r l : Nat) (x : Word) (t : State) : Bool := t.crew.getV r l == x
def sIs (r : Nat) (x : DWord) (t : State) : Bool := t.crew.getS r == x
def pcIs (x : BitVec 32) (t : State) : Bool := t.crew.pc == x
def flagsAre (x : DWord) (t : State) : Bool := t.crew.fpsr == x

-- spec/08: IADD.i16 wraps each element, without a flag.
theorem test_iadd_i16 : after (step (fetching 0x0002008F 0x880B0001 1 [v 0 0 0x7FFF0001, v 1 0 0x0001FFFF] []))
    (fun t => vIs 2 0 0x80000000 t && vIs 2 1 0 t && pcIs 8 t && flagsAre 0 t) = true := by decide
theorem test_iadd_wraps : after (exec (.iadd false 1 1 2) (crewOf 1 [v 1 0 0xFFFFFFFF, v 2 0 2] [])) (vIs 1 0 1) = true := by decide
theorem test_isub : after (exec (.isub false 3 1 2) (crewOf 1 [v 1 0 1, v 2 0 2] [])) (vIs 3 0 0xFFFFFFFF) = true := by decide
theorem test_imul : after (exec (.imul false 3 1 2) (crewOf 1 [v 1 0 0x10001, v 2 0 0x10001] [])) (vIs 3 0 0x20001) = true := by decide
theorem test_imulhs : after (exec (.imulhs false 3 1 2) (crewOf 1 [v 1 0 0x80000000, v 2 0 2] [])) (vIs 3 0 0xFFFFFFFF) = true := by decide
theorem test_imulhu : after (exec (.imulhu false 3 1 2) (crewOf 1 [v 1 0 0x80000000, v 2 0 2] [])) (vIs 3 0 1) = true := by decide
theorem test_imad : after (exec (.imad false 3 1 2 1) (crewOf 1 [v 1 0 3, v 2 0 5] [])) (vIs 3 0 18) = true := by decide
theorem test_minmax : after (exec (.imin false 3 1 2) (crewOf 1 [v 1 0 0xFFFFFFFF, v 2 0 1] [])) (vIs 3 0 0xFFFFFFFF) = true ∧
    after (exec (.umin false 3 1 2) (crewOf 1 [v 1 0 0xFFFFFFFF, v 2 0 1] [])) (vIs 3 0 1) = true := by decide
theorem test_vandn : after (exec (.vandn false 3 1 2) (crewOf 1 [v 1 0 0xFF, v 2 0 0x0F] [])) (vIs 3 0 0xF0) = true := by decide
-- A shift by 32 or more gives zero, or the sign.
theorem test_shl_32 : after (exec (.shl false 3 1 2) (crewOf 1 [v 1 0 1, v 2 0 32] [])) (vIs 3 0 0) = true := by decide
theorem test_sar_big : after (exec (.sar false 3 1 2) (crewOf 1 [v 1 0 0x80000000, v 2 0 99] [])) (vIs 3 0 0xFFFFFFFF) = true := by decide
theorem test_rotl : after (exec (.rotl false 3 1 2) (crewOf 1 [v 1 0 0x80000001, v 2 0 33] [])) (vIs 3 0 3) = true := by decide
theorem test_clz : after (exec (.clz false 3 1) (crewOf 1 [v 1 0 0x00010000] [])) (vIs 3 0 15) = true := by decide
theorem test_brev : after (exec (.brev false 3 1) (crewOf 1 [v 1 0 1] [])) (vIs 3 0 0x80000000) = true := by decide
theorem test_bfx : after (exec (.bfx false 3 1 2 1) (crewOf 1 [v 1 0 0x0000F500, v 2 0 0x0408] [])) (vIs 3 0 5) = true ∧
    after (exec (.bfx false 3 1 2 1) (crewOf 1 [v 1 0 0x0000F500, v 2 0 0x0808] [])) (vIs 3 0 0xFFFFFFF5) = true := by decide
theorem test_bfi : after (exec (.bfi false 3 1 2 4) (crewOf 1 [v 1 0 0xAB, v 2 0 0x0804, v 4 0 0xFFFFFFFF] [])) (vIs 3 0 0xFFFFFABF) = true := by
  decide
-- spec/08: the worked cases of BPERM and BITF.
theorem test_bperm : after (exec (.bperm false 3 1 2 4) (crewOf 1 [v 1 0 0x88776655, v 2 0 0x00002280, v 4 0 0x20854403] []))
    (vIs 3 0 0x0044FF88) = true := by decide
theorem test_bitf : after (exec (.bitf false 5 1 2 3 0xC 0xA) (crewOf 1 [v 1 0 0x0000FFFF, v 2 0 0x00FF00FF, v 3 0 0x0F0F0F0F] []))
    (vIs 5 0 0x000FF0FF) = true := by decide
theorem test_iadd64 : after (exec (.iadd64 false 6 2 4) (crewOf 1 [v 2 0 0xFFFFFFFF, v 4 0 1] []))
    (fun t => vIs 6 0 0 t && vIs 7 0 1 t) = true := by decide
theorem test_imulw : after (exec (.imulw false 6 2 4) (crewOf 1 [v 2 0 0xFFFFFFFF, v 4 0 3] []))
    (fun t => vIs 6 0 0xFFFFFFFD t && vIs 7 0 0xFFFFFFFF t) = true := by decide
theorem test_icmp : after (exec (.icmp false 0x63 1 2 0x8C 2) (crewOf 3 [v 1 0 0xFFFFFFFF, v 2 1 5, v 1 1 9] [])) (sIs 3 1) = true := by decide
theorem test_sel_mask : after (exec (.sel false 3 1 2 0x61 0) (crewOf 3 [v 1 0 7, v 1 1 7, v 2 0 9, v 2 1 9] [(1, 2)]))
    (fun t => vIs 3 0 9 t && vIs 3 1 7 t) = true := by decide
theorem test_movi : after (exec (.movi false 3 0x12345678) (crewOf 2 [] [])) (fun t => vIs 3 1 0x12345678 t && vIs 3 0 0 t && pcIs 8 t) = true := by
  decide
theorem test_iaddi_sign : after (exec (.iaddi false 3 1 0xFF) (crewOf 1 [v 1 0 1] [])) (vIs 3 0 0) = true := by decide

-- 1.5 + 2.5 = 4; 2^24 + 1 ties to even with NX.
theorem test_fadd : after (exec (.fadd false 3 1 2) (crewOf 1 [v 1 0 0x3FC00000, v 2 0 0x40200000] []))
    (fun t => vIs 3 0 0x40800000 t && flagsAre 0 t) = true ∧
    after (exec (.fadd false 3 1 2) (crewOf 1 [v 1 0 0x4B800000, v 2 0 0x3F800000] [])) (fun t => vIs 3 0 0x4B800000 t && flagsAre 16 t) = true := by
  decide
theorem test_fsub_inf : after (exec (.fsub false 3 1 2) (crewOf 1 [v 1 0 0x7F800000, v 2 0 0x7F800000] []))
    (fun t => vIs 3 0 0x7FC00000 t && flagsAre 1 t) = true := by decide
theorem test_fmul : after (exec (.fmul false 3 1 2) (crewOf 1 [v 1 0 0xC0000000, v 2 0 0x40400000] [])) (vIs 3 0 0xC0C00000) = true := by decide
theorem test_ffma_old_d : after (exec (.ffma false 3 1 2) (crewOf 1 [v 1 0 0x40000000, v 2 0 0x40400000, v 3 0 0x3F800000] []))
    (vIs 3 0 0x40E00000) = true := by decide
-- Table 5.10: FMINN of a quiet NaN and 1 is 1, FMIN the default NaN; -0 is below +0.
theorem test_fmin : after (exec (.fminn false 3 1 2) (crewOf 1 [v 1 0 0x7FC00001, v 2 0 0x3F800000] [])) (vIs 3 0 0x3F800000) = true ∧
    after (exec (.fmin false 3 1 2) (crewOf 1 [v 1 0 0x7FC00001, v 2 0 0x3F800000] [])) (vIs 3 0 0x7FC00000) = true := by decide
theorem test_fmax_zero : after (exec (.fmax false 3 1 2) (crewOf 1 [v 1 0 0x80000000] [])) (vIs 3 0 0) = true := by decide
theorem test_fcmp_nan : after (exec (.fcmp false 0x63 1 2 0x8C 2 1) (crewOf 1 [v 1 0 0x7FC00000] []))
    (fun t => sIs 3 0 t && flagsAre 1 t) = true := by decide
theorem test_fsqrt : after (exec (.fsqrt false 3 1) (crewOf 1 [v 1 0 0x40800000] [])) (fun t => vIs 3 0 0x40000000 t && flagsAre 0 t) = true := by
  decide
theorem test_fclass : after (exec (.fclass false 3 1) (crewOf 1 [v 1 0 0xFF800000] [])) (vIs 3 0 4) = true := by decide
-- spec/08: 0.3 in E4M3 is 0x2A with NX. spec/10: 500 saturates to 0x7E.
theorem test_cvt_e4m3 : after (exec (.cvt false 3 2 4 0 1) (crewOf 1 [v 2 0 0x3E99999A] [])) (fun t => vIs 3 0 0x2A t && flagsAre 16 t) = true ∧
    after (exec (.cvt false 3 2 4 0 1) (crewOf 1 [v 2 0 0x43FA0000] [])) (fun t => vIs 3 0 0x7E t && flagsAre 20 t) = true := by decide
-- spec/05: state 1, 1.3 to E2M1 under SR gives 1.5, and the state 0x00042021.
theorem test_cvt_sr : after (exec (.cvt false 3 2 6 0 1)
      (let s := crewOf 1 [v 2 0 0x3FA66666] []; s.setCrew { s.crew with fpcr := 4, seed := [(0, 1)] }))
    (fun t => vIs 3 0 3 t && fget 0 t.crew.seed 0 == 0x00042021) = true := by decide
theorem test_pack : after (exec (.pack false 3 1 2 8 1) (crewOf 1 [v 1 0 0x12, v 2 0 0xFFFFFFFF] [])) (vIs 3 0 0xFFFF12FF) = true := by decide
theorem test_unpk : after (exec (.unpk false 3 1 8 3) (crewOf 1 [v 1 0 0x80000000] [])) (vIs 3 0 0xFFFFFF80) = true := by decide
theorem test_idot4 : after (exec (.idot4 false 3 1 2) (crewOf 1 [v 1 0 0x010203FF, v 2 0 0x01010102, v 3 0 10] [])) (vIs 3 0 14) = true := by decide
-- spec/05: L = 22 times L = 15 has L = 21.
theorem test_lnsmul : after (exec (.lnsmul false 3 1 2) (crewOf 1 [v 1 0 0x16, v 2 0 0x0F] [])) (vIs 3 0 0x15) = true := by decide
-- spec/08, Table 8.12: lane 0 reads lane 1, lane 4's source has exited, lane 31 has none, lane 3 is off.
theorem test_shfldn : after (exec (.shfldnExt false 4 3 0x8C 0xD 0x61)
      (let s := crewOf 0xFFFFFFD7 [v 3 1 10, v 3 4 40, v 3 5 50, v 4 3 0x77, v 4 5 0x77] [(1, 1)]
       s.setCrew { s.crew with live := 0xFFFFFFDF }))
    (fun t => vIs 4 0 10 t && vIs 4 4 0xFFFFFFFF t && vIs 4 31 0xFFFFFFFF t && vIs 4 3 0x77 t && vIs 4 5 0x77 t) = true := by decide
-- spec/08: the butterfly sum of 2^24, 1, 1, 1 is 2^24 + 2 with NX.
theorem test_lred : after (exec (.lred false 6 5 1 8) (crewOf 0xF [v 5 0 0x4B800000, v 5 1 0x3F800000, v 5 2 0x3F800000, v 5 3 0x3F800000] []))
    (fun t => vIs 6 0 0x4B800001 t && vIs 6 3 0x4B800001 t && vIs 6 4 0 t && flagsAre 16 t) = true := by decide
theorem test_lscan : after (exec (.lscan false 6 5 0x88 13 0 0) (crewOf 0xB [v 5 0 1, v 5 1 2, v 5 3 8] []))
    (fun t => vIs 6 0 1 t && vIs 6 1 3 t && vIs 6 2 0 t && vIs 6 3 11 t) = true := by decide
theorem test_vote : after (exec (.vote false 0x63 1 0) (crewOf 7 [v 1 0 1, v 1 2 5, v 1 3 1] [])) (sIs 3 5) = true := by decide
theorem test_bcast : after (exec (.bcast false 0x63 1 0x61 0x88) (crewOf 1 [v 1 4 9] [(1, 4)])) (sIs 3 9) = true := by decide

-- spec/09: SADD wraps and pushes; SMOVL shifts the register up by 16.
theorem test_sadd : after (step (fetching 0x81636162 0 1 [] [(1, 0xFFFFFFFFFFFFFFFF), (2, 2)]))
    (fun t => sIs 3 1 t && t.crew.bs0 == 1 && pcIs 4 t) = true := by decide
theorem test_smovl : after (exec (.smovl false 0x63 0x5678) (crewOf 1 [] [(3, 0x00401234)])) (sIs 3 0x004012345678) = true := by decide
theorem test_ssar_big : after (exec (.ssar false 0x63 0x61 0x62) (crewOf 1 [] [(1, 0x8000000000000000), (2, 200)]))
    (sIs 3 0xFFFFFFFFFFFFFFFF) = true := by decide
theorem test_sffs : after (exec (.sffs false 0x63 0x61) (crewOf 1 [] [])) (sIs 3 64) = true := by decide
theorem test_elect : after (exec (.elect false 0x63 0x8C) (crewOf 0xC [] [])) (sIs 3 2) = true := by decide
theorem test_scmp_ltu : after (exec (.scmp false 0x68 0x61 0x62 6) (crewOf 1 [] [(1, 1), (2, 0xFFFFFFFFFFFFFFFF)])) (sIs 8 1) = true := by decide
theorem test_mts_fpcr : after (exec (.mts 0x69 8) (crewOf 1 [] [(9, 5)])) (fun t => t.crew.fpcr == 5 && pcIs 4 t) = true ∧
    after (exec (.mts 0x69 8) (crewOf 1 [] [(9, 8)])) (fun t => t.crew.fpcr == 0 && t.crew.trapcause == 2) = true := by decide
theorem test_mfs_exm : after (exec (.mfs false 0x63 0) (crewOf 0x15 [] [])) (sIs 3 0x15) = true := by decide
theorem test_mvtc : after (exec (.mvtcTo 2 0x64) (crewOf 1 [] [(4, 0x000F3F02)])) (fun t => fget 0 t.team.tc 2 == 0x000F3F02) = true := by decide
-- spec/09: BRA at 0x40 with offset -8 goes to 0x20; the text here ends at 16, so a forward branch there traps.
theorem test_bra : after (exec (.bra 0xFFFFFE) (let s := crewOf 1 [] []; s.setCrew { s.crew with pc := 8 })) (pcIs 0) = true ∧
    after (exec (.bra 4) (crewOf 1 [] [])) (fun t => t.crew.trapcause == 1 && t.crew.halted) = true := by decide
theorem test_loop : after (exec (.loop 0x67 1) (crewOf 1 [] [(7, 2)])) (fun t => sIs 7 1 t && pcIs 4 t) = true ∧
    after (exec (.loop 0x67 2) (crewOf 1 [] [(7, 1)])) (fun t => sIs 7 0 t && pcIs 4 t) = true := by decide
theorem test_call_ret : after (exec (.call 2) (crewOf 5 [] [])) (fun t => sIs 31 0x0000000500000004 t && pcIs 8 t) = true ∧
    after (exec (.ret 0x7F) (crewOf 1 [] [(31, 0x0000000500000004)])) (fun t => t.crew.exm == 5 && pcIs 4 t) = true := by decide
theorem test_exit : after (exec .exit (crewOf 5 [] [])) (fun t => t.crew.live == 0xFFFFFFFA && t.crew.exm == 0 && pcIs 4 t) = true := by decide
theorem test_exmset : after (exec (.exmset 0x61) (let s := crewOf 1 [] [(1, 7)]; s.setCrew { s.crew with live := 5 }))
    (fun t => t.crew.exm == 5) = true := by decide
theorem test_trap : after (exec (.trap 7) (crewOf 5 [] []))
    (fun t => t.crew.trapcause == 0x0007000000000011 && t.crew.traplanes == 5 && t.crew.resumepc == 4 && t.crew.halted) = true := by decide
theorem test_tret : after (exec .tret (let s := crewOf 1 [] [(32, 3)]; s.setCrew { s.crew with inHandler := true, resumepc := 12 }))
    (fun t => t.crew.exm == 3 && pcIs 12 t && !t.crew.inHandler) = true := by decide
theorem test_rep : after (step (fetching 0xB0078000 0x00080063 1 [] [])) (fun t => t.crew.run == some (.rep 0 3) && pcIs 0 t) = true := by decide

-- spec/12, Table 12.2: QDIV then QDEC.
theorem test_qdiv : after (exec (.qdiv 8 0 4) (crewOf 1 [v 0 0 0xD5555555, v 4 0 0xE6666666] []))
    (fun t => vIs 8 0 0x15555556 t && vIs 9 0 0x80000000 t && t.crew.rxf == 0) = true := by decide
theorem test_qdec : after (exec (.qdec 12 8) (crewOf 1 [v 8 0 0x15555556, v 9 0 0x80000000] []))
    (fun t => vIs 12 0 5 t && vIs 14 0 6 t && t.crew.rxf == 0) = true := by decide
-- Table 5.16: the sum of 1/3 and 2/5, and the product whose height sets RXF.OV.
theorem test_qadd : after (exec (.qadd 8 0 4) (crewOf 1 [v 0 0 0xD5555555, v 4 0 0xE6666666] []))
    (fun t => vIs 8 0 (1002159036 + 0x80000000) t && vIs 9 0 0x80000000 t && t.crew.rxf == 0) = true := by decide
theorem test_qmul : after (exec (.qmul 8 0 4) (crewOf 1 [v 0 0 (1002159036 + 0x80000000), v 1 0 0x80000000, v 4 0 0x80000003] []))
    (fun t => vIs 8 0 858993461 t && vIs 10 0 0x80000000 t && t.crew.rxf == 1) = true := by decide

/-! Memory: physical addresses 0 to 2^30 are mapped to themselves; the next 1 GiB is a read-only page on the same frame, the one
after it is copy-on-write, the fourth is remote. -/

/-- The page tables of the context at 0, with bytes above them. -/
def pages (ms : List (Nat × Byte)) : Memory :=
  [(81, 0x10), (0x1000, 1), (0x1001, 0x20), (0x2000, 1), (0x2001, 0x30), (0x3000, 0x1F), (0x3008, 0x07), (0x3010, 0x87), (0x3018, 0x0F),
   (0x3019, 0x04)] ++ ms
def withMem (s : State) (ms : List (Nat × Byte)) : State := { s with mem := pages ms }

-- spec/10: ST.e4m3 of 500.0 at V8:V9 + 3 stores 0x7E, with OF and NX, and nothing else.
theorem test_st_e4m3 : after (step (withMem (fetching 0x51000802 0x88040003 1 [v 2 0 0x43FA0000, v 8 0 0x10000] []) [(0x10002, 5)]))
    (fun t => flagsAre 20 t && pcIs 8 t && t.mem == pages [(0x10002, 5)] &&
      after (t.perform1Acc 0 0) (fun u => u.mem == pages [(0x10002, 5), (0x10003, 0x7E)] && u.crew.pend == [])) = true := by decide
-- A load of the 16-bit value -2 at S2 + 2: issued, read, then written with its sign.
theorem test_ld : after (exec (.ld 6 0x62 0 11 0 0 2) (withMem (crewOf 1 [] [(2, 0x10000)]) [(0x10002, 0xFE), (0x10003, 0xFF)]))
    (fun t => vIs 6 0 0 t && after (t.perform1Acc 0 0) (fun u => after (exec (.loadResultReturn 0 6) u) (vIs 6 0 0xFFFFFFFE))) = true := by decide
theorem test_load_result : after (exec (.loadResultReturn 0 6)
      (let s := crewOf 1 [] []; s.setCrew { s.crew with loads := [{ reg := 6, pair := true, data := [(0, 0x0000000200000001)] }] }))
    (fun t => vIs 6 0 1 t && vIs 7 0 2 t && t.crew.loads == []) = true := by decide
-- A store to the read-only page is a permission fault in the lane that touches it, whose address TRAPADDR holds.
theorem test_st_read_only : after (exec (.st 8 2 0 13 0 0 0) (withMem (crewOf 3 [v 8 1 0x40000000, v 2 0 7] []) []))
    (fun t => t.crew.trapcause == 5 && t.crew.traplanes == 2 && t.crew.trapaddr == 0x40000000 && t.mem == pages []) = true := by decide
theorem test_ld_unmapped : after (exec (.ld 6 0x62 0 13 0 0 0) (withMem (crewOf 1 [] [(2, 0x100000000)]) []))
    (fun t => t.crew.trapcause == 4 && t.crew.trapaddr == 0x100000000) = true := by decide
/-- The first accesses of crew 0's list, performed one after the other. -/
def performed : Nat → Out → Out
  | 0, o => o
  | n + 1, .next t => performed n (t.perform1Acc 0 0)
  | _ + 1, o => o
/-- Atomics on the line at 0x10000 go to their home (R73). -/
def home2 (s : State) : State := s.setClusterAt 0 { s.clusterAt 0 with pred := [(predIndex 0x10000, 2)] }
-- spec/10: four lanes add 1, 2, 3 and 4 to 100 in lane order.
theorem test_atom : after (performed 4 (.next
      (let s := home2 (withMem (crewOf 0xF [] []) [(0x10000, 100)])
       s.setCrew { s.crew with
         pend := (List.range 4).map fun l => .acc { seq := 1, lane := l, rd := true, wr := true, pa := 0x10000, n := 4, data := l + 1, op := .atom 0 13 }
         loads := [{ reg := 6, pair := false, data := (List.range 4).map fun l => (l, 0), fmt := 13, seq := 1, left := 4 }] })))
    (fun t => t.mem == pages [(0x10000, 110)] && after (exec (.loadResultReturn 0 6) t) fun u =>
      vIs 6 0 100 u && vIs 6 1 101 u && vIs 6 2 103 u && vIs 6 3 106 u) = true := by decide +kernel
theorem test_red : after (performed 1 (exec (.red 0x62 4 0 13 0 0 0 0) (home2 (withMem (crewOf 1 [v 4 0 1] [(2, 0x10000)]) [(0x10000, 0xFF)]))))
    (fun t => t.mem == pages [(0x10001, 1)]) = true := by decide +kernel
theorem test_cas :
    after (performed 1 (exec (.cas 6 0x62 4 5 0 13 0 0 0 0) (home2 (withMem (crewOf 1 [v 4 0 9, v 5 0 7] [(2, 0x10000)]) [(0x10000, 9)]))))
      (fun t => t.mem == pages [(0x10000, 7)] && after (exec (.loadResultReturn 0 6) t) (vIs 6 0 9)) = true := by decide +kernel
theorem test_cas_unequal :
    after (performed 1 (exec (.cas 6 0x62 4 5 0 13 0 0 0 0) (home2 (withMem (crewOf 1 [v 4 0 8, v 5 0 7] [(2, 0x10000)]) [(0x10000, 9)]))))
      (fun t => t.mem == pages [(0x10000, 9)] && after (exec (.loadResultReturn 0 6) t) (vIs 6 0 9)) = true := by decide +kernel

/-- A team's core part. -/
def withPart (s : State) (p : Part) : State := s.setTeam { s.team with part := p }

theorem test_lds_take : after (exec (.lds 6 0x61 0 13 0 2 0) (withPart (crewOf 1 [] [(1, 16)]) { size := 64, bytes := [(16, 7)] }))
    (fun t => t.crew.loads == [{ reg := 6, pair := false, data := [(0, 7)] }] && t.team.part.isEmpty 1) = true := by decide
theorem test_sts_wfill_waits : after (exec (.sts 0x61 0x62 0 13 0 2 0) (withPart (crewOf 1 [] [(2, 7)]) { size := 64 }))
    (fun t => t.crew.block.isSome && pcIs 0 t && t.team.part.bytes == []) = true ∧
    after (exec (.sts 0x61 0x62 0 13 0 2 0) (withPart (crewOf 1 [] [(2, 7)]) { size := 64, empty := [(0, true)] }))
    (fun t => t.crew.block.isNone && pcIs 8 t && t.team.part.bytes == [(0, 7)] && t.team.part.empty == []) = true := by decide

/-- Table 10.8: Bt = 16, S = 16, W = 32, ROWB = 256, VL = 70; the descriptor at 0x10000, the table at 0x10100, the records at
0x10200, VL at 0x10300. -/
def wrapped : List (Nat × Byte) :=
  [(0x10001, 4), (0x10014, 16), (0x10016, 1), (0x10018, 16), (0x1001C, 32), (0x10021, 1), (0x10022, 1), (0x10029, 2), (0x1002A, 1),
   (0x10031, 3), (0x10032, 1), (0x10102, 0x40), (0x1010A, 0x41), (0x10112, 0x42), (0x10208, 1), (0x1020C, 16), (0x10210, 1), (0x10214, 6),
   (0x10300, 70)]
theorem test_kvmap : after (exec (.kvmap 10 2 0x64 0x65 0 0 0 0)
      (withMem (crewOf 0x3F [v 2 0 5, v 2 1 36, v 2 2 39, v 2 3 40, v 2 4 50, v 2 5 70] [(4, 0x10000)]) wrapped))
    (fun t => (List.range 6).map (t.crew.getV 10) == [0x400501, 0, 0x420701, 0x420801, 0x410201, 0]) = true := by decide +kernel
-- The next position, 70, takes slot 38: page 2, offset 6, where generation 1 has filled six slots.
theorem test_kvapp : after (exec (.kvapp 20 0x64 0x65 0 0 0)
      (withPart (withMem (crewOf 1 [v 20 0 70] [(4, 0x10000)]) wrapped) { size := 1024, bytes := [(0, 9), (256, 8)] }))
    (fun t => after (t.perform1Acc 0 0) fun u =>
      u.byte 0x420600 == 9 && u.byte 0x421600 == 8 && u.byte 0x10214 == 7 && u.byte 0x10210 == 1 && u.byte 0x10300 == 71) = true := by
  decide +kernel

/-! Ordering and synchronisation. -/

def withQueue (s : State) (q : HwQueue) : State :=
  let s := withPart (s.setTeam { s.team with qmaps := [{ logical := 3, hw := 0 }] }) { size := 64 }
  s.setClusterAt 0 { s.clusterAt 0 with hwq := [(0, q)] }
def queue (count : Nat) : HwQueue := { launch := 0, owner := some 0, level := 0, offset := 0, cap := 2, head := 1, count := count }
def queueIs (n head count : Nat) (t : State) : Bool :=
  match t.hwOf 0 n with | some (_, h) => h.head == head && h.count == count | none => false

theorem test_qpush : after (exec (.qpush 0x64 3) (withQueue (crewOf 1 [] [(4, 5)]) (queue 1)))
    (fun t => queueIs 3 1 2 t && t.team.part.bytes == [(0, 5)] && pcIs 4 t) = true ∧
    after (exec (.qpush 0x64 3) (withQueue (crewOf 1 [] [(4, 5)]) (queue 2))) (fun t => t.crew.block == some (.qpush 3 5) && pcIs 0 t) = true := by
  decide
theorem test_qpop : after (exec (.qpop 0x65 3) (let s := withQueue (crewOf 1 [] []) (queue 1); withPart s { size := 64, bytes := [(8, 6)] }))
    (fun t => queueIs 3 0 0 t && sIs 5 6 t && pcIs 4 t) = true ∧
    after (exec (.qpop 0x65 3) (withQueue (crewOf 1 [] []) (queue 0))) (fun t => t.crew.block == some (.qpop 3 5) && pcIs 0 t) = true := by decide
theorem test_bararv : after (exec (.bararv 1 0 2) (crewOf 1 [] []))
    (fun t => t.crew.arrivals == 4 && (t.launchAt 0).phases == [{ id := 2, scope := 1, inst := 0, arrived := [0] }] && pcIs 8 t) = true := by decide
theorem test_barwt : after (exec (.barwt 1 0 2) (let s := crewOf 1 [] []; s.setCrew { s.crew with arrivals := 4 }))
    (fun t => t.crew.block == some (.barrier 2) && pcIs 0 t) = true := by decide
theorem test_barrier_release : after (exec (.barrierRelease 0 0)
      (let s := crewOf 1 [] []
       (s.setCrew { s.crew with arrivals := 4, block := some (.barrier 2) }).setLaunchAt 0
         { phases := [{ id := 2, scope := 1, inst := 0, arrived := [0] }] }))
    (fun t => t.crew.arrivals == 0 && t.crew.block == none && pcIs 8 t && (t.launchAt 0).phases == []) = true := by decide
theorem test_evset : after (exec (.evset 0x64 0 0 1) (crewOf 1 [] [(4, 5)])) (fun t => t.vector 0 == 5 * 2 ^ 64) = true := by decide
theorem test_evwait : after (exec (.evwait 0x64 0 0 0 0) (crewOf 1 [] [(4, 5)])) (fun t => t.crew.block == some (.evwait 0 5 false)) = true := by decide
theorem test_reltok : after (exec (.reltok 2) (crewOf 1 [] [])) (fun t => t.team.tokhold == 4 && pcIs 4 t) = true := by decide

/-! Tensor instructions. -/

theorem test_tzero : after (exec (.tzero 3 1) (let s := crewOf 1 [] []; s.setTeam { s.team with acc := [(3 * 4096 + 5, 1), (4 * 4096, 2)] }))
    (fun t => t.team.acc == [(4 * 4096, 2)] && pcIs 8 t) = true := by decide
-- The accumulator's token is at the crews: MMA traps, and TRAPPC is its PC.
theorem test_mma_token : after (exec (.mma 2 0 1) (let s := crewOf 1 [] []; s.setTeam { s.team with tc := [(0, 0x3), (1, 0x3)] }))
    (fun t => t.crew.trapcause == 9 && t.team.matrix == []) = true := by decide
theorem test_accwr : after (exec (.accwr 0x61 2 6 1) (crewOf 2 [v 6 1 7, v 7 1 8] [(1, 4)]))
    (fun t => t.team.acc == [(2 * 4096 + 5 * 64 + 2, 7), (2 * 4096 + 5 * 64 + 3, 8)]) = true := by decide
-- A CPY enters its queue with the values of A, B and C, and its status register waits.
theorem test_cpy_issue : after (step (fetching 0xE0666263 0x64000960 1 [] [(2, 0x10000), (3, 0x8000000000000000), (4, 32)]))
    (fun t => (t.team.queue 1).map (·.ops) == [[0x10000, 0x8000000000000000, 32]] && t.crew.pendS == [6] && pcIs 8 t) = true := by decide
-- spec/11: merging (3, 2, 10) and (1, 4, 8) gives (3, 3, 12).
theorem test_merge_row : (mergeRow [0x40400000, 0x40000000, 0x41200000] [0x3F800000, 0x40800000, 0x41000000]).take 3 =
    [0x40400000, 0x40400000, 0x41400000] := by decide

/-! Special instructions: the tree of Table 12.12. -/

def tree (s : State) : State :=
  s.setTeam { s.team with count := 6, rootpos := 100,
                          tree := [(0, 0x10000000B0000), (1, 0x1000000150100), (2, 0x1000000160100), (3, 0x10000001F0201), (4, 0x1000000200202),
                                   (5, 0x1000000290303)] }
theorem test_ttadd : after (exec (.ttadd 0x66 2 3)
      (crewOf 0x3F [v 2 3 1, v 2 4 2, v 2 5 3, v 3 0 11, v 3 1 21, v 3 2 22, v 3 3 31, v 3 4 32, v 3 5 41] []))
    (fun t => t.team.tree == (tree t).team.tree && t.team.count == 6 && sIs 6 6 t) = true := by decide
theorem test_ttanc : after (exec (.ttanc 0x67 5) (let s := tree (crewOf 1 [] []); s.setTeam { s.team with tc := [(5, 0x0000050F)] }))
    (fun t => (List.range 6).map (fun r => fget 0 t.team.tiles (5 * 16384 + 256 * r)) == [0x01, 0x03, 0x05, 0x0B, 0x15, 0x2B]) = true := by decide
theorem test_ttpos : after (exec (.ttpos 6 7 0) (tree (crewOf 0x3F [v 7 1 1, v 7 2 2, v 7 3 3, v 7 4 4, v 7 5 9] [])))
    (fun t => (List.range 6).map (t.crew.getV 6) == [100, 101, 101, 102, 102, 0xFFFFFFFF]) = true := by decide
theorem test_ttprune : after (exec (.ttprune 0x68 0x69 4) (tree (crewOf 0x3F [] [(9, 5)])))
    (fun t => sIs 8 4 t && t.team.count == 4 && (List.range 5).map (t.crew.getV 4) == [11, 21, 31, 41, 0]) = true := by decide
theorem test_cvsend_unbound : after (exec (.cvsend 0x64 0x88 0 0 0 1 1 3) (crewOf 1 [] []))
    (fun t => t.crew.trapcause == 0xF && t.crew.trapaddr == 0x300000000) = true := by decide

/-! Events. -/

theorem test_kick_overrun : after (exec (.kick 0 0 17) (State.reset.setReg 0 0x1008 0x41))
    (fun t => t.reg 0 0x1020 == 1 && (t.ring 0 0).kicks == 0 && t.msix == [1]) = true ∧
    after (exec (.kick 0 0 16) (State.reset.setReg 0 0x1008 0x41)) (fun t => (t.ring 0 0).kicks == 16) = true := by decide
theorem test_rctl_size : after (exec (.rctlWrite 0 0 0x31) State.reset) (fun t => t.reg 0 0x1008 == 0x30) = true := by decide
theorem test_bar2_write : after (exec (.hostBar2Write 0 0x10000 2 0x0102) State.reset) (fun t => t.mem == [(0x10000, 2), (0x10001, 1)]) = true := by
  decide
theorem test_rsvtail : after (exec (.rsvtail 513) State.reset) (fun t => t.reg 0 0x6408 == 0) = true ∧
    after (exec (.rsvtail 512) State.reset) (fun t => t.reg 0 0x6408 == 512) = true := by decide
theorem test_thermal : after (exec (.thermalTrip 3) State.reset) (fun t => t.halted && t.reg 0 0x10 == 3) = true := by decide
theorem test_vigil : after (exec (.vigilSample 2 9) (State.reset.setReg 0 0x7100 0x0000000900000201))
    (fun t => t.reg 0 0x7118 == 1 && t.reg 0 0x7108 == 9 && t.reg 0 0x7110 == 9 && (t.reg 0 0x7100).getLsbD 31) = true := by decide
theorem test_granule_service : after (exec (.granuleService 0 0)
      (let s := withPart (crewOf 1 [] []) { size := 64 }
       s.setCrew { s.crew with block := some (.granules { level := 0, load := false, fe := 1, d := 0, fmt := 13, acc := [(0, 4)], data := [(0, 7)],
                                                          wait := [0] }) }))
    (fun t => t.crew.block == none && pcIs 8 t && t.team.part.bytes == [(4, 7)]) = true := by decide
theorem test_retire : after (exec (.teamRetire 0) (let s := crewOf 1 [] []; s.setCrew { s.crew with live := 0, exm := 0 }))
    (fun t => t.teams == [] && t.crews == [] && (t.slotAt 0).st == 0) = true := by decide
theorem test_preempt : after (exec (.slotPreempt 0) (let s := crewOf 1 [] []; s.setSlotAt 0 { s.slotAt 0 with op := 3 }))
    (fun t => (t.slotAt 0).st == 2 && (t.slotAt 0).op == 0) = true := by decide

/-! States and operands that meet the hypotheses of the statements. -/

/-- Two active lanes; S1 to S9 hold addresses and small numbers. -/
def w : State :=
  withMem (crewOf 3 [v 2 0 0x10000, v 2 1 0x10010, v 4 0 3, v 4 1 5] [(1, 1), (2, 0x10000), (3, 2), (4, 12), (7, 16)]) []
/-- The same with one value in each latch file. -/
def latched : State := w.setCrew { w.crew with nL := 1, nS := 1, bl0 := [(0, 7)], bs0 := 9 }
def inHandler : State := w.setCrew { w.crew with inHandler := true }
/-- 64 lane registers instead of 96. -/
def short : State := w.setTeam { w.team with nvreg := 64 }

theorem witness_PackedIntegerResults : w.dV 0x5F = true ∧ w.laneOk 2 = true ∧ w.laneOk 0x89 = true ∧ mayRun w [2, 0x89] ∧
    latched.dV 0 = true ∧ latched.laneOk 0x80 = true ∧ mayRun latched [0x80, 0x84] ∧ (0x8#4, 8) ∈ intFormats := by
  unfold mayRun; decide
theorem witness_IntegerWordResults : w.dV 6 = true ∧ w.laneOk 2 = true ∧ w.laneOk 4 = true ∧ w.laneOk 0x61 = true ∧
    mayRun w [2] ∧ mayRun w [2, 4] ∧ mayRun w [2, 4, 0x61] ∧ mayRun latched [0x80, 4, 0x84] := by unfold mayRun; decide
theorem witness_LaneMoves : w.dV 6 = true ∧ w.dPair 6 = true ∧ w.laneOk 2 = true ∧ w.pairOk 2 = true ∧ w.pairOk 4 = true ∧
    w.laneOk 0x61 = true ∧ mayRun w [2, 4, 0x61] ∧ dS 0x63 = true ∧ isUniform 0x61 = true ∧ isUniform 0x63 = true ∧
    w.srcOk (0xD#4 == 0#4) 5 = true ∧ w.srcOk (0#4 == 0#4) 4 = true := by unfold mayRun; decide
theorem witness_FloatBinaryResults : ∀ k ∈ floatFormats, w.dstOk (k.1 == 0#4) 6 = true ∧ w.srcOk (k.1 == 0#4) 2 = true ∧
    w.srcOk (k.1 == 0#4) 4 = true ∧ mayRun w [2, 4] := by unfold mayRun; decide
theorem witness_FusedMultiplyAdd : (∀ k ∈ floatFormats, w.dstOk (k.1 == 0#4) 6 = true ∧ w.srcOk (k.1 == 0#4) 2 = true ∧
    w.srcOk (k.1 == 0#4) 4 = true ∧ w.srcOk (k.1 == 0#4) 0x88 = true) ∧ mayRun w [2, 4, 0x88] ∧ mayRun w [2, 4] ∧ w.dV 6 = true ∧
    w.laneOk 2 = true ∧ w.laneOk 4 = true := by unfold mayRun; decide
theorem witness_FloatUnaryResults : (∀ k ∈ floatFormats, w.dstOk (k.1 == 0#4) 6 = true ∧ w.srcOk (k.1 == 0#4) 2 = true) ∧ mayRun w [2] ∧
    w.dV 6 = true := by unfold mayRun; decide
theorem witness_NaNOperands : ∀ x ∈ [(0, 0x7FF8000000000000, 0), (1, 0x7F800001, 0), (2, 0, 0xFFC0), (3, 0x7E00, 0x7C01)],
    x.1 ∈ [0, 1, 2, 3] ∧ ((valOf x.1 x.2.1).isNaN || (valOf x.1 x.2.2).isNaN) = true := by decide
theorem witness_MinimumMaximum : ((0, 64) ∈ [(0, 64), (1, 32), (2, 16), (3, 16)] ∧ 0x7FF0000000000001 < 2 ^ 64 ∧
    ((valOf 0 0x7FF0000000000001).isNaN || (valOf 0 0).isNaN) = true) ∧
    ((1, 32) ∈ [(0, 64), (1, 32), (2, 16), (3, 16)] ∧ 0x80000000 < 2 ^ 32 ∧ ((valOf 1 0x80000000).isNaN || (valOf 1 0).isNaN) = false) := by decide
theorem witness_Rounding : 6 ∈ [0, 1, 2, 3, 4, 5, 6] ∧ 0 < 1 ∧
    (∀ neg, floorIndex 6 { a := 1, e := 0 } < maxIndex 6 neg ∧ (memberOf 6 (maxIndex 6 neg)).lt { a := 1, e := 0 } = false) ∧
    (let s := w.setCrew { w.crew with fpcr := 4 }
     s.dV 3 = true ∧ s.srcOk ((1 : Nat) == 0) 2 = true ∧ placeOk 1 0 ∧ s.crew.sre = true ∧ widening 1 6 = false ∧ mayRun s [2]) := by
  unfold mayRun placeOk; decide
theorem witness_ConversionResults : w.dstOk ((15 : Nat) == 0) 3 = true ∧ w.srcOk ((1 : Nat) == 0) 2 = true ∧ placeOk 1 0 ∧ mayRun w [2] ∧
    w.dstOk ((0 : Nat) == 0) 6 = true ∧ placeOk 6 7 ∧ w.srcOk ((6 : Nat) == 0) 2 = true ∧ w.crew.sre = false := by
  unfold mayRun placeOk; decide
theorem witness_ScalePackUnpack : w.dstOk ((4 : Nat) == 0) 3 = true ∧ w.srcOk ((1 : Nat) == 0) 2 = true ∧ w.laneOk 4 = true ∧ placeOk 1 0 ∧
    w.crew.sre = false ∧ mayRun w [2, 4] ∧ w.dV 3 = true ∧ placeOk 8 3 ∧ mayRun w [2] := by unfold mayRun placeOk; decide
theorem witness_DotProductResults : w.dV 3 = true ∧ w.laneOk 2 = true ∧ w.laneOk 4 = true ∧ w.laneOk 0x88 = true ∧ mayRun w [2, 4] ∧
    mayRun w [2, 4, 0x88] := by unfold mayRun; decide
theorem witness_L6Arithmetic : w.dV 3 = true ∧ w.laneOk 2 = true ∧ w.laneOk 4 = true ∧ mayRun w [2, 4] ∧
    (∀ x ∈ [(32, 0), (1, 32), (0, 63), (1, 16), (1, 15), (31, 16), (31, 17), (63, 63)], x.1 < 64 ∧ x.2 < 64) ∧ Mode.rne ∈ [Mode.rne, .rz, .ru, .rd] ∧
    1 % 32 + 16 % 32 = 17 ∧ 1 % 32 + 15 % 32 < 17 ∧ 31 % 32 + 16 % 32 = 47 ∧ 47 < 31 % 32 + 17 % 32 := by unfold mayRun; decide
theorem witness_LaneMoves_scan : mayRun w [4, 0x88] ∧ reductionOk 0 13 ∧ reductionOk 7 13 ∧ reductionOk 8 1 ∧ reductionOk 12 0 ∧
    w.srcOk (13#4 == 0#4) 4 = true ∧ w.srcOk (13#4 == 0#4) 0x88 = true ∧ w.dstOk (13#4 == 0#4) 6 = true := by
  unfold mayRun reductionOk; decide
theorem witness_Reductions : mayRun w [4] ∧ reductionOk 0 13 ∧ reductionOk 7 13 ∧ reductionOk 8 1 ∧ reductionOk 12 0 ∧
    w.srcOk (13#4 == 0#4) 4 = true ∧ w.srcOk (0#4 == 0#4) 4 = true ∧ w.dstOk (0#4 == 0#4) 6 = true ∧ dS 0x66 = true ∧ w.dV 6 = true := by
  unfold mayRun reductionOk; decide
theorem witness_CompareResults : dS 0x63 = true ∧ mayRun w [2, 4, 0x61] ∧ w.laneOk 2 = true ∧ w.laneOk 4 = true ∧ isUniform 0x61 = true ∧
    isUniform 0x62 = true ∧ mayRun w [0x61, 0x62] ∧ w.srcOk (0#4 == 0#4) 2 = true ∧ w.srcOk (1#4 == 0#4) 3 = true := by unfold mayRun; decide
theorem witness_RationalResults :
    let s := crewOf 1 [v 0 0 0xD5555555, v 4 0 0xE6666666, v 16 0 2, v 18 0 5] []
    s.quadOk 8 = true ∧ s.quadOk 0 = true ∧ s.quadOk 92 = true ∧ mayRun s [0, 4] ∧ mayRun s [0] ∧
      (∀ l ∈ s.active, (s.crew.getV 4 l).toNat % 2 ^ 31 % s.crew.prime ≠ 0) ∧ s.pairOk 16 = true ∧ s.pairOk 18 = true ∧ mayRun s [16, 18] ∧
      (∀ l ∈ s.active, (s.pair 18 l).toInt % (s.crew.prime : Int) ≠ 0) ∧
      1002159036 < 2147483647 ∧ decodeRational 2147483647 1002159036 = (11, 15, true) := by unfold mayRun; decide
theorem witness_ScalarResults : dS 0x63 = true ∧ isUniform 0x61 = true ∧ isUniform 0x8C = true ∧ mayRun w [0x61, 0x8C] ∧ mayRun latched [0x84] := by
  unfold mayRun; decide
theorem witness_QuietInstructions : w.teamSaves (slotOf w.cur) = false ∧ inHandler.crew.inHandler = true ∧
    (let s := w.setSlotAt 0 { w.slotAt 0 with st := 2 }; s.teamSaves (slotOf s.cur) = true ∧ s.crew.inHandler = false ∧ s.crew.run = none) ∧
    (let s := (w.setSlotAt 0 { w.slotAt 0 with st := 4 }).setTeam { w.team with saving := true }; s.teamSaves (slotOf s.cur) = true) := by
  decide
theorem outside_text : ∀ p, ¬ inText w 4 p := by
  intro p h
  have h1 : (w.crew.pc.toNat : Int) = 0 := by decide
  have h2 : w.team.textsize = 16 := by decide
  simp only [inText, h1, h2] at h
  omega
theorem witness_BranchResults : w.crew.run = none ∧ inText w 3 12 ∧ (∀ p, ¬ inText w 4 p) ∧ w.team.textsize ≤ 2 ^ 32 ∧ dS 0x61 = true ∧
    ¬ w.crew.getS 1 = 0 ∧ w.crew.getS 0 = 0 ∧ w.crew.getS 3 ≠ 1 ∧
    (isUniform 0x64 = true ∧ mayRun w [0x64] ∧ (w.uni 0x64).toNat % 4 = 0 ∧ (w.uni 0x64).toNat < w.team.textsize) ∧
    (isUniform 0x61 = true ∧ (w.uni 0x61).toNat % 4 ≠ 0) ∧ w.team.textsize ≤ (w.uni 0x67).toNat % 2 ^ 32 := by
  refine ⟨by decide, by unfold inText; decide, outside_text, ?_⟩; unfold mayRun; decide
theorem witness_ExecutionMask : isUniform 0x61 = true ∧ mayRun w [0x61] := by unfold mayRun; decide
theorem witness_SoftwareTrapAndReturn : w.crew.run = none ∧ w.crew.inHandler = false ∧ inHandler.crew.inHandler = true := by decide
theorem witness_IssueTraps : w.crew.run = none ∧
    (let s := latched.setCrew { latched.crew with fin := true }; s.crew.run = none ∧ readsLatch [0x80, 4] = true ∧ s.crew.fin = true) ∧
    (short.dV 64 = false ∧ short.dV 63 = true ∧ short.laneOk 64 = false ∧ short.dPair 1 = false ∧ short.pairOk 3 = false ∧ dS 0x5F = false ∧
      isUniform 2 = false) ∧
    (pushed w.crew [0x80, 4] = false ∧ readsLatch [0x80, 4] = true ∧ ¬ (readsLatch [0x80, 4] = true ∧ w.crew.fin = true)) ∧
    (let s := short.setCrew { short.crew with run := some (.rep 2 3) }; s.laneOk 64 = false ∧ readsLatch [64] = false ∧
      s.crew.run = some (.rep 2 3)) ∧
    (let s := short.setCrew { short.crew with run := some (.mcall 2 0) }; s.laneOk 64 = false ∧ s.crew.run = some (.mcall 2 0)) := by decide
theorem witness_SpecialReads : dS 0x69 = true ∧ (0x1F, (if w.team.compat then 1 else 0 : DWord)) ∈ specialValues w ∧
    (∀ k ∈ [0, 3], k < 4) ∧ (0x19#16).toNat = 0x19 ∧ 0x20 ≤ (0x20#16).toNat ∧ w.crew.run = none := by decide
theorem witness_SpecialWrites : dS 0x64 = true ∧ w.crew.run = none ∧
    ((0x0A, ~~~0x3F#64, { w.crew with psel := 12 }) ∈ specialWrites w 12 ∧ w.crew.getS 4 = 12 ∧ (12#64 &&& ~~~0x3F#64) = 0) ∧
    ((0x08, ~~~7#64, { w.crew with fpcr := 12 }) ∈ specialWrites w 12 ∧ (12#64 &&& ~~~7#64) ≠ 0) ∧
    ((w.crew.getS 4).toNat % 4 = 0 ∧ (w.crew.getS 4).toNat < w.team.textsize) ∧ w.team.textsize ≤ (w.crew.getS 7).toNat ∧
    (0x1F#16).toNat ∈ [1, 2, 3, 4, 5, 6, 7, 0x0E, 0x0F, 0x10, 0x11, 0x18, 0x19, 0x1E, 0x1F] ∧ 0x20 ≤ (0x20#16).toNat := by decide
theorem witness_TileControl : dS 0x63 = true ∧ (15#8).toNat < w.team.ntile ∧ (15#7).toNat < w.team.ntile ∧ isUniform 0x64 = true ∧
    mayRun w [0x64] ∧ (w.uni 0x64 &&& 0xFFFFFFFFFFF0C0F0#64 = 0) ∧ (w.uni 0x67 &&& 0xFFFFFFFFFFF0C0F0#64 ≠ 0) ∧ w.crew.run = none := by
  unfold mayRun; decide

/-- An image with entry 8 of spec/09: FFMA and SHLI with marks, MACWIN 1. -/
def macros : State :=
  let s := w.setTeam { w.team with macwin := 1 }
  let text : List Word := [0xB0078000, 0x00080063, 0xB1081002, 0]
  s.setClusterAt 0 { s.clusterAt 0 with
    images := [{ ctx := 0, va := 0, text := text, hdr := BitVec.ofNat 2048 (16 * 2 ^ 288), window := some 1
                 macros := [(8, ([0x2B000102, 0x21030300, 0xFFFFFFFF], [7, 19, 0]))] }] }
/-- A resuming crew, at repeat 2. -/
def resumes : State := macros.setCrew { macros.crew with resuming := true, traprep := 0x8102 }

theorem witness_UnitEntry : macros.crew.run = none ∧
    (macros.textWord (macros.crew.pc.toNat + 4) = some 0x00080063 ∧
      decode (some 0x00080063) (macros.textWord (macros.crew.pc.toNat + 8)) = .ok (.iadd false 8 0 0x63, 1) ∧ notRepeated 0 = false ∧
      regFields 0 0xB1081002 = (true, true, true)) ∧
    (let s := w.setCrew { w.crew with pc := 12 }; s.crew.run = none ∧ s.textWord (s.crew.pc.toNat + 4) = none) ∧
    (∃ img, macros.image = some img ∧ (8#7).toNat < img.hdr.toNat / 2 ^ 288 % 256 ∧ (16#8).toNat < 0x80 ∧ (8#7).toNat / 8 = macros.team.macwin ∧
      (let e := macros.macroEntry 8
       let ops := e.1.take (entryEnd e.1)
       ops ≠ [] ∧ macros.marksOk 16 ops e.2 = true ∧ opsOk 16 2 32 ops e.2 = true)) ∧
    (resumes.crew.resuming = true ∧ resumes.crew.traprep.toNat % 64 ≤ (3#6).toNat ∧ (1#6).toNat < resumes.crew.traprep.toNat % 64 ∧
      resumes.crew.traprep.getLsbD 15 = true) := by
  refine ⟨by decide, ⟨by decide, rfl, by decide⟩, by decide, ⟨_, rfl, by decide⟩, by decide⟩

/-- An outcome of a check as it is computed. -/
def okIs {ε α : Type} [DecidableEq α] (x : Except ε α) (a : α) : Bool := match x with | .ok b => b == a | .error _ => false
theorem ok_of_okIs {ε α : Type} [DecidableEq α] {x : Except ε α} {a : α} (h : okIs x a = true) : x = .ok a := by
  cases x with
  | ok b => simp only [okIs, beq_iff_eq] at h; rw [h]
  | error e => cases h
def errIs {ε α : Type} [DecidableEq ε] (x : Except ε α) (a : ε) : Bool := match x with | .error b => b == a | .ok _ => false
theorem err_of_errIs {ε α : Type} [DecidableEq ε] {x : Except ε α} {a : ε} (h : errIs x a = true) : x = .error a := by
  cases x with
  | error b => simp only [errIs, beq_iff_eq] at h; rw [h]
  | ok e => cases h

/-- The one part of an access on the identity pages. -/
def part (va n : Nat) : List Piece := [{ page := { pte := 0x1F, pa := va, level := 3 }, n := n, off := 0, va := va }]

/-- The accesses of both lanes of w, through the pair at V2. -/
theorem w_reaches (need : Need) (h : need ∈ [{ r := true }, { w := true }, { r := true, w := true }]) :
    reaches w need (fun l => wrapInt 64 ((w.pair 2 l).toNat + (4#11).toInt)) 4 (fun l => part (0x10004 + 16 * l) 4) := by
  have h2 : w.active = [0, 1] := by decide
  intro l hl
  rw [h2] at hl
  simp only [List.mem_cons, List.not_mem_nil, or_false] at h hl
  rcases h with rfl | rfl | rfl <;> rcases hl with rfl | rfl <;> exact ⟨ok_of_okIs (by decide +kernel), by decide⟩

theorem mayIssue_of {s : State} (h : s.crew.pend = []) (o : BitVec 2) (sc : BitVec 3) : mayIssue s o sc := by
  intro _ a ha
  rw [h] at ha
  cases ha
theorem accessFree_of {s : State} (h : s.crew.pend = []) (x : Acc) : accessFree s x := by
  unfold accessFree
  rw [h]
  rfl
theorem streamFree_of {s : State} (h : s.crew.pend = []) (m : BitVec 4) : streamFree s m := fun _ _ => accessFree_of h _
theorem readsFree_of {s : State} (h : s.crew.pend = []) (x : Acc) (ps : List Piece) : readsFree s x ps := fun _ _ => accessFree_of h _
theorem noneLate_of {s : State} (h : s.someLate = false) : noneLate s := by
  intro e he a ha
  have h1 : ∀ p, p ∈ e.2.pend → (match p with | Pend.acc a => a.late != 0 | .fence _ _ _ => false) = false := by
    intro p hp
    have := List.any_eq_false.mp h e he
    exact Bool.eq_false_iff.mpr (List.any_eq_false.mp (Bool.eq_false_iff.mpr this) p hp)
  simpa using h1 _ ha

theorem witness_LoadStore : elementSize 13 = some 4 ∧ (13#4 ≠ 7) ∧ w.dstOk (13#4 == 0) 6 = true ∧ w.addrOk 2 = true ∧ (1#2).toNat ≤ 1 ∧
    (3#3 ≠ 7) ∧ mayRun w [2] ∧ w.active ≠ [] ∧
    reaches w { r := true } (fun l => wrapInt 64 ((w.pair 2 l).toNat + (4#11).toInt)) 4 (fun l => part (0x10004 + 16 * l) 4) ∧
    noPoison w (fun l => part (0x10004 + 16 * l) 4) ∧ (crewOf 0 [] []).active = [] ∧
    w.srcOk (13#4 == 0) 4 = true ∧ mayRun w [2, 4] ∧
    reaches w { w := true } (fun l => wrapInt 64 ((w.pair 2 l).toNat + (4#11).toInt)) 4 (fun l => part (0x10004 + 16 * l) 4) ∧
    noCow w (fun l => part (0x10004 + 16 * l) 4) := by
  refine ⟨by decide, by decide, by decide, by decide, by decide, by decide, by unfold mayRun; decide, by decide,
    w_reaches _ (by decide), by unfold noPoison; decide, by decide, by decide, by unfold mayRun; decide,
    w_reaches _ (by decide), by unfold noCow; decide⟩
/-- Crew 0 of w with a list of accesses, and a load that waits for the instruction of step 5. -/
def withPend (l : List Pend) : State :=
  let s := withMem w [(0x10000, 9)]
  { s.setCrew { s.crew with pend := l, loads := [{ reg := 6, pair := false, data := [(1, 0)], seq := 5, left := 1 }] } with poison := [(0x1000, true)] }
def aRead (seq : Nat) : Acc := { seq := seq, lane := 1, rd := true, pa := 0x10000, n := 4 }
def aWrite (seq pa : Nat) : Acc := { seq := seq, lane := 1, wr := true, pa := pa, n := 4, data := 7, full := true }
/-- Two stores with fences of CREW and TEAM that order writes, and a third: the fences hold back none, and the stores before them are
found by the observers of TEAM. Behind a fence that orders reads, a read does hold a store back. -/
theorem witness_LoadStore_order :
    let f (scope : Nat) : Pend := .fence 1 2 scope
    let late (n : Nat) (a : Acc) : Acc := { a with late := n }
    (let c := (withPend [.acc (aWrite 5 0x10010), f 0, .acc (aWrite 6 0x10020), f 1, .acc (aWrite 7 0x10030)]).crew
     c.pend[4]? = some (.acc (aWrite 7 0x10030)) ∧ (aWrite 7 0x10030).req = none ∧
       c.pass 4 = some (aWrite 7 0x10030, [.acc (late 2 (aWrite 5 0x10010)), f 0, .acc (late 2 (aWrite 6 0x10020)), f 1])) ∧
    (withPend [.acc (aRead 5), .fence 1 1 1, .acc (aWrite 6 0x10010)]).crew.pass 2 = none ∧
    (let c := (withPend [.acc (aRead 5)]).crew; c.pend[0]? = some (.acc (aRead 5)) ∧ ∀ i, ¬ i < 0) := by
  exact ⟨by decide, by decide, by decide, fun i h => by omega⟩
theorem witness_LoadStore_passed :
    (2#2).getLsbD 1 = true ∧ (withPend [.acc (aWrite 5 0x10010)]).crew.pend = [aWrite 5 0x10010].map .acc ∧ (3#3).toNat < 4 ∧
      (∀ a ∈ [aWrite 5 0x10010], a.wr = true ∧ a.rd = false ∧ a.req = none ∧ a.op = .plain) ∧ 4 ≤ (4#3).toNat ∧
      (∃ a ∈ [aWrite 5 0x10010], a.req = none ∧ a.late < 8) ∧ (withPend [.acc (aRead 5)]).crew.pend = [aRead 5].map .acc ∧
      ∃ a ∈ [aRead 5], a.rd = true ∧ a.req = none ∧ a.late < 8 := by decide
theorem witness_LoadStore_performed : ∀ a ∈ [aRead 5, aWrite 5 0x1000C, aWrite 5 (memTop - 4)], let s := withPend [.acc a]
    (s.crewAt 0).pass 0 = some (a, (s.crewAt 0).pend.take 0) ∧ noneLate s ∧ a.send = none ∧ a.op = .plain ∧ a.pa + a.n ≤ memTop ∧
      (s.crewAt 0).block = none := by
  intro a ha
  simp only [List.mem_cons, List.not_mem_nil, or_false] at ha
  rcases ha with rfl | rfl | rfl <;> exact ⟨by decide, noneLate_of (by decide), by decide, by decide, by decide, by decide⟩
/-- Crew 1 of the team has a store that its later accesses have passed; crew 0 reads or writes a byte of it. -/
def passedStore (late : Nat) (a : Acc) : State :=
  let s := withPend [.acc a]
  { s with crews := s.crews ++ [(1, { s.crew with pend := [.acc { aWrite 3 0x10002 with late := late }], loads := [] })] }
theorem witness_LoadStore_late : ∀ late ∈ [1, 2, 4], ∀ a ∈ [aRead 5, aWrite 5 0x10000], let s := passedStore late a
    let x : Acc := { aWrite 3 0x10002 with late := late }
    (s.crewAt 1).pend = [.acc x] ∧ (s.crewAt 0).pend = [.acc a] ∧ s.crews.all (fun e => e.1 == 1 || e.2.pend == [.acc a]) = true ∧ a.late = 0 ∧ 1 ≤ x.late ∧ x.late ≤ 4 ∧
      (∀ y ∈ [a, x], y.req = none ∧ y.send = none ∧ y.dev = none ∧ y.op = .plain ∧ 1 ≤ y.n ∧ y.pa + y.n ≤ memTop) ∧ x.wr = true ∧ x.rd = false ∧
      a.rd = !a.wr ∧ x.pa < a.pa + a.n ∧ a.pa < x.pa + x.n ∧ (s.crewAt 0).block = none ∧ (lookup s.crews 1).isSome = true ∧
      (s.crewAt 0).loads = [{ reg := 6, pair := false, data := [(1, 0)], seq := 5, left := 1 }] ∧ a.seq = 5 ∧ a.lane = 1 := by decide
theorem witness_LoadStore_return :
    let x : PendingLoad := { reg := 6, pair := true, data := [(0, 1), (31, 2)], fmt := 0 }
    let y : PendingLoad := { reg := 6, pair := false, data := [], left := 1 }
    let s := w.setCrew { w.crew with loads := [y, x, { reg := 6, pair := false, data := [] }] }
    (s.crewAt 0).loads = [y] ++ x :: [{ reg := 6, pair := false, data := [] }] ∧ x.reg = 6 ∧ x.left = 0 ∧ x.fmt < 16 ∧
      (∀ z ∈ [y], z.reg = 6 → z.left ≠ 0) ∧ (∀ e ∈ x.data, e.1 < 32) ∧ (x.data.map (·.1)).Nodup := by
  decide
theorem witness_Atomics : w.addrOk 2 = true ∧ w.srcOk ((4 : Nat) == 8) 4 = true ∧ (3#3 ≠ 7) ∧
    (∀ l ∈ w.active, wrapInt 64 ((w.pair 2 l).toNat + (1#6).toInt * (4 : Nat)) % 4 = 0) ∧
    reaches w { r := true, w := true } (fun l => wrapInt 64 ((w.pair 2 l).toNat + (1#6).toInt * (4 : Nat))) 4 (fun l => part (0x10004 + 16 * l) 4) ∧
    noCow w (fun l => part (0x10004 + 16 * l) 4) ∧ noPoison w (fun l => part (0x10004 + 16 * l) 4) ∧
    (0, 13, 4) ∈ atomForms ∧ (24, 13, 8) ∈ atomForms ∧ (13, 3, 4) ∈ atomForms ∧ w.dstOk ((4 : Nat) == 8) 6 = true ∧
    w.srcOk ((4 : Nat) == 8) 0x88 = true ∧ mayRun w [2, 4] ∧ mayRun w [2, 4, 0x88] ∧ 4 = (if (0#1 : BitVec 1) = 1 then 8 else 4) := by
  refine ⟨by decide, by decide, by decide, by decide, ?_, by unfold noCow; decide, by unfold noPoison; decide,
    by decide, by decide, by decide, by decide, by decide, by unfold mayRun; decide, by unfold mayRun; decide, by decide⟩
  have h2 : w.active = [0, 1] := by decide
  intro l hl
  rw [h2] at hl
  simp only [List.mem_cons, List.not_mem_nil, or_false] at hl
  rcases hl with rfl | rfl <;> exact ⟨ok_of_okIs (by decide +kernel), by decide⟩

/-- An atomic's step goes home, or near with the lease, without it, or while it waits for it. -/
theorem witness_Atomics_performed :
    let a (op : AccOp) (asked : Bool) : Acc := { seq := 5, lane := 1, rd := true, wr := true, pa := 0x10000, n := 4, data := 3, op := op, asked := asked }
    (0, 13, 4) ∈ atomForms ∧
    (∀ op ∈ [AccOp.atom 0 13, .cas 9], ∀ x ∈ [(2, [], []), (0, [{ line := 0x400, size := 4, used := 0 }], []), (1, [], []), (0, [], [(0x400, 4)])],
      let b := a op (x.2.2 != [])
      let s0 := withPend [.acc b]
      let s := s0.setClusterAt 0 { s0.clusterAt 0 with pred := [(predIndex 0x10000, x.1)], leases := x.2.1, wants := x.2.2 }
      (s.crewAt 0).pass 0 = some (b, (s.crewAt 0).pend.take 0) ∧ s.someLate = false ∧ b.send = none ∧ b.pa + b.n ≤ memTop ∧ b.pa % b.n = 0 ∧
        (s.crewAt 0).block = none ∧ fget 0 (s.clusterAt (slotOf 0 / 16)).pred (predIndex (64 * (b.pa / 64))) = x.1 ∧
        (s.clusterAt 0).leases = x.2.1 ∧ (s.clusterAt 0).wants = x.2.2 ∧ (b.asked = true ↔ (b.pa / 64, b.n) ∈ (s.clusterAt 0).wants)) := by decide +kernel

/-- Lane 0 on a mapped page, lanes 1 and 2 on unmapped addresses. -/
def unmapped : State := withMem (crewOf 7 [v 2 0 0x10000, v 3 1 1, v 3 2 2] []) []
theorem witness_AccessTraps : unmapped.crew.run = none ∧ elementSize 13 = some 4 ∧ (13#4 ≠ 7) ∧ unmapped.addrOk 2 = true ∧
    unmapped.dstOk (13#4 == 0) 6 = true ∧ mayRun unmapped [2] ∧ unmapped.active = [0, 1, 2] ∧
    okIs ((issued unmapped).check { r := true } 0x10000 4) (part 0x10000 4) = true ∧ unmapped.piecesPoisoned (part 0x10000 4) = false ∧
    (unmapped.pair 2 1).toNat = 0x100000000 ∧ errIs ((issued unmapped).check { r := true } 0x100000000 4) 2 = true ∧
    (unmapped.pair 2 2).toNat = 0x200000000 ∧ errIs ((issued unmapped).check { r := true } 0x200000000 4) 2 = true ∧
    (∀ l, l < 32 → ((6#32).getLsbD l = true ↔ l = 1 ∨ l = 2)) := by
  unfold mayRun; decide +kernel
theorem witness_AccessTraps_page : (issued w).check { r := true, w := true } 0x3FFFFFFC 4 = .ok (part 0x3FFFFFFC 4) ∧
    (∀ p ∈ part 0x3FFFFFFC 4, p.page.pte = 0x1F) ∧ errIs ((issued w).check { w := true } 0x40000000 4) 4 = true := by
  exact ⟨ok_of_okIs (by decide +kernel), by decide, by decide +kernel⟩

theorem alone (s : State) (h : s.crews.all (fun e => e.1 == s.cur) = true) : noGranuleWait s := by
  intro e he hne
  have := List.all_eq_true.mp h e he
  simp only [beq_iff_eq] at this
  exact absurd this hne

/-- Lane offsets 16 and 32 of a core part of 64 bytes, the granule of offset 32 empty. -/
def scratch (empty : List (Nat × Bool)) : State :=
  withPart (crewOf 3 [v 2 0 16, v 2 1 32, v 4 0 7] []) { size := 64, bytes := [(16, 7)], empty := empty }
theorem witness_Scratchpad : elementSize 13 = some 4 ∧ (0#2 ≠ 3) ∧ (2#2 ≠ 3) ∧
    (∀ m ∈ [[], [(1, true), (2, true)]], let s := scratch m
      let p := s.partAt (slotOf s.cur) 0
      s.offsetOk 2 = true ∧ s.crew.reissue = false ∧ s.active ≠ [] ∧ s.dstOk (13#4 == 0) 6 = true ∧ s.srcOk (13#4 == 0) 4 = true ∧
      (∀ l ∈ s.active, 0 ≤ ((s.lane 2 l).toNat : Int) + (0#11).toInt ∧ (((s.lane 2 l).toNat : Int) + (0#11).toInt) % 4 = 0 ∧
        ((s.lane 2 l).toNat : Int) + (0#11).toInt + 4 ≤ p.size) ∧
      (∀ l ∈ s.active, p.poisoned (s.lane 2 l).toNat 4 = false) ∧
      (m = [] → ∀ l ∈ s.active, p.isEmpty ((s.lane 2 l).toNat / 16) = false) ∧
      (m ≠ [] → ∀ l ∈ s.active, p.isEmpty ((s.lane 2 l).toNat / 16) = true)) ∧
    mayRun (scratch []) [2] ∧ mayRun (scratch []) [2, 4] ∧ noGranuleWait (scratch []) ∧ noGranuleWait (scratch [(1, true), (2, true)]) ∧
    (∀ x, accessFree (scratch []) x) ∧ ∀ x, accessFree (scratch [(1, true), (2, true)]) x := by
  exact ⟨by decide, by decide, by decide, by decide, by unfold mayRun; decide, by unfold mayRun; decide, alone _ (by decide), alone _ (by decide),
    accessFree_of (by decide), accessFree_of (by decide)⟩
theorem witness_Scratchpad_service :
    let g : GranWait := { level := 0, load := true, fe := 2, d := 6, fmt := 13, acc := [(0, 16), (1, 32)], data := [], wait := [1, 2] }
    let s0 := scratch [(2, true)]
    let s := s0.setCrew { s0.crew with block := some (.granules g) }
    (s.crewAt 0).block = some (.granules g) ∧ 1 ∈ g.wait ∧ s.mayServe 0 g 1 = true ∧ (s.partAt (slotOf 0) g.level).poisoned 16 16 = false := by
  decide

/-- The geometry of Table 10.8 with rows of 16 bytes, and what KVMAP reads for position 39. -/
def kv : State :=
  withPart (withMem (crewOf 1 [v 2 0 39, v 20 0 70] [(4, 0x10000)])
    ([(0x10001, 4), (0x10014, 1), (0x10016, 1), (0x10018, 16), (0x1001C, 32), (0x10021, 1), (0x10022, 1), (0x10029, 2), (0x1002A, 1),
      (0x10031, 3), (0x10032, 1), (0x10102, 0x40), (0x1010A, 0x41), (0x10112, 0x42), (0x10208, 1), (0x1020C, 16), (0x10210, 1), (0x10214, 6),
      (0x10300, 70)])) { size := 64, bytes := [(0, 9)] }
theorem witness_KvCache : isUniform 0x64 = true ∧ isUniform 0x65 = true ∧ (0#3 ≠ 7) ∧ mayRun kv [2, 0x64, 0x65] ∧ kv.active ≠ [] ∧
    ∃ kd, (issued kv).kvDesc (kv.uni 0x64).toNat (kv.uni 0x65).toNat = .ok kd ∧ kd.rowb = 16 ∧ kd.mode = 0 ∧ kd.s = 16 ∧ kd.w = 32 ∧ kd.bLog = 4 ∧
      kv.dPair 10 = true ∧ kv.laneOk 2 = true ∧ streamFree kv 0 ∧ noneLate kv ∧ (issued kv).kvRead { r := true } (kd.vl + 8 * 0) 8 = .ok 70 ∧
      (issued kv).kvRead { r := true } (kd.pr + 8 * 2) 8 = .ok 0x600000001 ∧ (issued kv).kvRead { r := true } (kd.bt + 8 * 2) 8 = .ok 0x420000 := by
  refine ⟨by decide, by decide, by decide, by unfold mayRun; decide, by decide, _, rfl, by decide, by decide, by decide, by decide, by decide,
    by decide, by decide, streamFree_of (by decide) _, noneLate_of (by decide), ok_of_okIs (by decide +kernel), ok_of_okIs (by decide +kernel), ok_of_okIs (by decide +kernel)⟩
theorem witness_KvCache_append : isV 20 = true ∧ kv.pairOk 20 = true ∧ kv.vOk 21 = true ∧ streamFree kv 0 ∧ noneLate kv ∧ kv.active = [0] ∧
    ∃ kd x, (issued kv).kvDesc 0x10000 0 = .ok kd ∧ (issued kv).kvAppLane kd 0 0 70 0 = ([], some x) ∧
      (∀ p ∈ x.pieces, pteCow p.page.pte = false ∧ p.page.pa + p.n ≤ memTop) ∧
      ((List.range 8).map (physAt x.entry) ++ (List.range 8).map (physAt x.len) ++ (List.range 16).map (physAt x.k) ++
        (List.range 16).map (physAt x.v)).Nodup ∧
      let a : Acc := { seq := 5, rd := true, wr := true, op := .kv kd x }
      let s := kv.setCrew { kv.crew with pend := [.acc a] }
      (s.crewAt 0).pass 0 = some (a, (s.crewAt 0).pend.take 0) ∧ noneLate s := by
  exact ⟨by decide, by decide, by decide, streamFree_of (by decide) _, noneLate_of (by decide), by decide, _, _, rfl, rfl, by decide, by decide,
    by decide, noneLate_of (by decide)⟩

theorem witness_AccessTraps_first :
    let fails (l : Nat) : Option Nat := match (issued unmapped).check { r := true } (wrapInt 64 ((unmapped.pair 2 l).toNat + (0#11).toInt)) 4 with
      | .error q => some q
      | .ok ps => if true && unmapped.piecesPoisoned ps then some 5 else none
    1 ∈ unmapped.active ∧ fails 1 = some 2 ∧ (∀ l ∈ unmapped.active, ∀ q, fails l = some q → 2 ≤ q) ∧
      (∀ l ∈ unmapped.active, l < 1 → fails l ≠ some 2) ∧ ∀ l, l < 32 → ((6#32).getLsbD l = true ↔ l ∈ unmapped.active ∧ fails l = some 2) := by
  intro fails
  have h0 : fails 0 = none := by decide +kernel
  have h1 : fails 1 = some 2 := by decide +kernel
  have h2 : fails 2 = some 2 := by decide +kernel
  have ha : unmapped.active = [0, 1, 2] := by decide
  refine ⟨by decide, h1, ?_, ?_, ?_⟩
  · intro l hl q hq
    rw [ha] at hl
    simp only [List.mem_cons, List.not_mem_nil, or_false] at hl
    rcases hl with rfl | rfl | rfl
    · rw [h0] at hq; cases hq
    · rw [h1] at hq; cases hq; decide
    · rw [h2] at hq; cases hq; decide
  · intro l _ h
    obtain rfl : l = 0 := by omega
    rw [h0]; decide
  · intro l hl
    rw [ha]
    simp only [List.mem_cons, List.not_mem_nil, or_false]
    constructor
    · intro h
      have : l = 1 ∨ l = 2 := by revert h; revert hl; revert l; decide +kernel
      rcases this with rfl | rfl
      · exact ⟨by decide, h1⟩
      · exact ⟨by decide, h2⟩
    · rintro ⟨rfl | rfl | rfl, h⟩
      · rw [h0] at h; cases h
      · decide
      · decide

/-! Crews that wait on each other. -/

/-- Crews 0 and 1 of one team, each with its wait. -/
def two (a b : Block) : State :=
  let s := w.setTeam { w.team with ncrew := 2 }
  { s with crews := [(0, { s.crew with block := some a, order := 1 }), (1, { s.crew with block := some b, order := 2 })] }
theorem witness_Rendezvous_issue : w.crew.run = none ∧ isV 2 = true ∧ w.vBlockOk 2 8 = true ∧ w.vBlockOk 2 4 = true ∧ mayRun w [2] ∧
    (88#7).toNat < 0x60 ∧ w.vBlockOk 88 8 = true ∧ w.laneOk 0x88 = true ∧ mayRun w [0x88] ∧ mayIssue w 2 1 ∧ mayIssue w 2 4 := by
  unfold mayRun
  exact ⟨by decide, by decide, by decide, by decide, by decide, by decide, by decide, by decide, by decide, mayIssue_of (by decide) _ _,
    mayIssue_of (by decide) _ _⟩
theorem witness_Rendezvous_match :
    let s := two (.rvsend 3 2 2) (.rvrecv 3 88 8 0x88)
    ∃ cs cr, lookup s.crews 0 = some cs ∧ lookup s.crews 1 = some cr ∧ cs.bound = true ∧ cs.halted = false ∧ cr.bound = true ∧ cr.halted = false ∧
      slotOf 0 = 0 ∧ slotOf 1 = 0 ∧ cs.block = some (.rvsend 3 2 2) ∧ cr.block = some (.rvrecv 3 88 8 0x88) ∧ 88 + 8 ≤ 96 ∧
      (∀ e ∈ s.crews, e.1 ≠ 0 → slotOf e.1 = 0 → (∃ a n, e.2.block = some (.rvsend 3 a n)) → cs.order < (s.crewAt e.1).order) ∧
      (∀ e ∈ s.crews, e.1 ≠ 1 → slotOf e.1 = 0 → (∃ d m c, e.2.block = some (.rvrecv 3 d m c)) → cr.order < (s.crewAt e.1).order) := by
  refine ⟨_, _, rfl, rfl, by decide, by decide, by decide, by decide, by decide, by decide, rfl, rfl, by decide, ?_, ?_⟩
  · intro e he hne _ h
    obtain ⟨a, n, h⟩ := h
    simp only [two, List.mem_cons, List.not_mem_nil, or_false] at he
    rcases he with rfl | rfl
    · exact absurd rfl hne
    · cases h
  · intro e he hne _ h
    obtain ⟨d, m, c, h⟩ := h
    simp only [two, List.mem_cons, List.not_mem_nil, or_false] at he
    rcases he with rfl | rfl
    · cases h
    · exact absurd rfl hne
theorem witness_Rendezvous_pair :
    let s := two (.xchgx 5 4 2 1) (.xchgx 5 92 8 4)
    ∃ c1 c2, lookup s.crews 0 = some c1 ∧ lookup s.crews 1 = some c2 ∧ c1.bound = true ∧ c1.halted = false ∧ c2.bound = true ∧ c2.halted = false ∧
      (s.teamAt (slotOf 0)).launch = 0 ∧ (s.teamAt (slotOf 1)).launch = 0 ∧ c1.block = some (.xchgx 5 4 2 1) ∧ c2.block = some (.xchgx 5 92 8 4) ∧
      4 + 1 ≤ 96 ∧ 92 + 4 ≤ 96 ∧
      (∀ e ∈ s.crews, e.1 ≠ 0 → (s.teamAt (slotOf e.1)).launch = 0 → (∃ d a n, e.2.block = some (.xchgx 5 d a n)) →
        c1.order < (s.crewAt e.1).order ∧ (e.1 ≠ 1 → c2.order < (s.crewAt e.1).order)) := by
  refine ⟨_, _, rfl, rfl, by decide, by decide, by decide, by decide, by decide, by decide, rfl, rfl, by decide, by decide, ?_⟩
  intro e he hne _ _
  simp only [two, List.mem_cons, List.not_mem_nil, or_false] at he
  rcases he with rfl | rfl
  · exact absurd rfl hne
  · exact ⟨by decide, fun h => absurd rfl h⟩

/-- An open phase of barrier 2 at a scope, the crew's arrival bits, and CORESIDENT. -/
def atBarrier (scope : Nat) (arrivals : BitVec 16) (co : Bool) : State :=
  let s := (w.setTeam { w.team with coresident := co }).setLaunchAt 0 { phases := [{ id := 2, scope := scope, inst := 0, arrived := [0] }] }
  s.setCrew { s.crew with arrivals := arrivals }
theorem witness_Barriers : w.crew.run = none ∧ w.crew.reissue = false ∧ w.crew.arrivals.getLsbD 15 = false ∧
    (w.launchAt w.team.launch).phases = [] ∧
    (atBarrier 1 4 false).crew.arrivals.getLsbD 2 = true ∧
    ((atBarrier 4 0 true).launchAt 0).phases = [{ id := 2, scope := 4, inst := 0, arrived := [0] }] ∧ (atBarrier 1 0 false).team.coresident = false ∧
    ((atBarrier 1 4 false).launchAt 0).phases[0]? = some { id := 2, scope := 1, inst := 0, arrived := [0] } ∧
    (atBarrier 1 4 false).phaseDone 0 { id := 2, scope := 1, inst := 0, arrived := [0] } = true := by decide
theorem witness_Barriers_release : mayIssue w (3#2 ||| 2#2) 4 := mayIssue_of (by decide) _ _

theorem crewAt_other (s : State) (c : Crew) (h : s.crews = [(0, c)]) (j : Nat) (hj : j ≠ 0) : (s.crewAt j).block = none := by
  simp [State.crewAt, fget, h, lookup, hj]
theorem witness_HandleQueues : ∀ n ∈ [0, 1, 2], let s := withQueue w (queue n)
    s.hwOf (slotOf 0) 3 = some (0, queue n) ∧ 0 = s.cur ∧ 3 < 32 ∧ s.crew.run = none ∧ isUniform 0x64 = true ∧ mayRun s [0x64] ∧ dS 0x65 = true ∧
      mayIssue s 2 1 ∧ (∀ x, accessFree s x) ∧ (∀ j u v, j ≠ 0 → (s.crewAt j).block ≠ some (.qpush u v)) ∧ (∀ j u v, j ≠ 0 → (s.crewAt j).block ≠ some (.qpop u v)) := by
  intro n hn
  simp only [List.mem_cons, List.not_mem_nil, or_false] at hn
  rcases hn with rfl | rfl | rfl <;>
    exact ⟨by decide, by decide, by decide, by decide, by decide, by unfold mayRun; decide, by decide, mayIssue_of (by decide) _ _,
      accessFree_of (by decide), fun j u v hj => by rw [crewAt_other _ _ rfl j hj]; exact nofun, fun j u v hj => by rw [crewAt_other _ _ rfl j hj]; exact nofun⟩
theorem witness_HandleQueues_service :
    let s0 := withQueue w (queue 1)
    let a := s0.setCrew { s0.crew with block := some (.qpush 3 9) }
    let b := s0.setCrew { s0.crew with block := some (.qpop 3 5) }
    (a.crewAt 0).block = some (.qpush 3 9) ∧ (queue 1).count < (queue 1).cap ∧ a.firstInQueue 0 0 true = true ∧
      a.hwOf (slotOf 0) 3 = some (0, queue 1) ∧ (b.crewAt 0).block = some (.qpop 3 5) ∧ 0 < (queue 1).count ∧ b.firstInQueue 0 0 false = true := by
  decide
theorem witness_EventVector : rising none w.crews = true ∧ w.crew.block = none ∧ isUniform 0x64 = true ∧ isUniform 0x88 = true ∧
    (7#3 ≠ 0) ∧ mayRun w [0x64] ∧ (w.uni 0x88 = 0) ∧
    (let s := { w with vectors := [(0, (4 : BitVec 256))] }; eventMet (s.vector s.team.ctx) 0 (s.uni 0x64) true) ∧
    (w.uni 0x64 ≠ 0 ∧ ¬ eventMet (w.vector w.team.ctx) 3 (w.uni 0x64) false) ∧ dS 0x61 = true ∧ (0x1D#16).toNat = 0x1A + 3 := by
  unfold mayRun eventMet window; decide
theorem witness_EventVector_release : mayIssue w 2 4 := mayIssue_of (by decide) _ _

/-- A queued command of the matrix unit's accumulator 2, token at the unit. -/
def mat : MatOp := { w := 0xD3020001, e := 0x88000000, tcs := [0x3, 0x3], issue := 0, step := 0 }
def busy : State := w.setTeam { w.team with tokhold := 4, matrix := [mat], issues := 1, tc := [(0, 0x3), (1, 0x3)] }
theorem witness_FencesAndTokens : w.crew.run = none ∧ isUniform 0x64 = true ∧ mayRun w [0x64] ∧ (w.uni 0x64).toNat < 65536 ∧
    65536 ≤ (w.uni 0x62).toNat ∧ dS 0x66 = true ∧ (7#8).toNat < w.team.nacc ∧ w.team.tokhold.getLsbD 7 = false ∧
    (busy.team.tokhold.getLsbD 2 = true ∧ busy.team.accNamed 2 busy.team.issues = true) ∧ w.team.outstanding.length < 64 ∧ (1#2).toNat ≤ 1 ∧
    w.crew.reissue = false ∧ w.team.outstanding.length ≤ (0#8).toNat ∧
    (let s := w.setTeam { w.team with outstanding := [1] }; (0#8).toNat < s.team.outstanding.length) := by unfold mayRun; decide
theorem witness_FencesAndTokens_release : mayIssue w 2 1 := mayIssue_of (by decide) _ _

/-- A register tensor of handle 0: 32 F32 elements, one per lane, in V16; its target image swaps two lane bits. -/
def entry : Nat :=
  1 + 1 * 2 ^ 4 + 5 * 2 ^ 16 + 16 * 2 ^ 24 + 2 ^ 31 + 5 * 2 ^ (64 + 12) + 31 * 2 ^ 448 +
    ((List.range 5).map fun j => 2 ^ j * 2 ^ (1024 + 64 * j)).sum
def registers : State :=
  let s := crewOf 0xFFFFFFFF [] [(4, 0x12000), (5, 0), (8, 0x4000000080)]
  (((withMem s []).writeNat 88 8 0x11000).writeNat 0x11000 512 entry).writeNat 0x12000 40
    (2 + 1 * 2 ^ 64 + 4 * 2 ^ 128 + 8 * 2 ^ 192 + 16 * 2 ^ 256)
/-- 16 F32 elements in the core part. -/
def scratchEntry : Nat :=
  1 + 1 * 2 ^ 4 + 1 * 2 ^ 8 + 4 * 2 ^ 16 + 2 ^ 31 + 4 * 2 ^ (64 + 42) + 15 * 2 ^ 448 +
    ((List.range 4).map fun j => 2 ^ j * 2 ^ (1024 + 64 * j)).sum
/-- A REMAP of them is a command. -/
theorem witness_EngineIssue_remapCommand : let s := registers.writeNat 0x11000 512 scratchEntry
    noneLate registers ∧ okIs ((issued s).readEntry { (issued s).engOf (slotOf s.cur) none with got := s.crew.got } 0) scratchEntry = true ∧
      eRes scratchEntry ≠ 0 :=
  ⟨noneLate_of (by decide), by decide +kernel, by decide +kernel⟩
theorem witness_EngineIssue_release : mayIssue w 1 3 ∧ mayIssue registers 2 1 := ⟨mayIssue_of (by decide) _ _, mayIssue_of (by decide) _ _⟩
theorem witness_EngineIssue : dS 0x66 = true ∧ (0#3 ≠ 7) ∧ w.teamHeld (slotOf w.cur) = false ∧ (w.team.queue 7).length < 32 ∧
    (0x81#8 ≠ 0) ∧ (∀ k, k < 8 → (w.team.queue k).length < 32) ∧ isS 0x68 = true ∧ isUniform 0x62 = true ∧ (15#8).toNat < w.team.ntile ∧
    mayRun w [0x68, 0x62] ∧ mayRun w [0x62, 0x63, 0x64] ∧ isUniform 0x88 = true ∧ (0x7C#8).toNat ≤ 0x7C ∧ (13#4 ∈ [(0 : BitVec 4), 1, 2, 3, 13]) ∧
    (let r := (w.crew.getS (0x61 - 0x60 + 3)).toNat; 1 ≤ r % 2 ^ 24 ∧ r % 2 ^ 24 ≤ 2 ^ 20 ∧ r / 2 ^ 48 = 0) ∧
    (let s := w.setTeam { w.team with tokhold := 2, tc := [(4, 0x50001)] }
     (1#8).toNat < s.team.nacc ∧ (4#8).toNat < s.team.ntile ∧ (fget 0 s.team.tc 4).toNat % 16 = 1 ∧ s.team.tokhold.getLsbD 1 = true) := by
  unfold mayRun; decide
theorem witness_EngineIssue_remap : isUniform 0x64 = true ∧ isUniform 0x65 = true ∧ mayRun registers [0x64, 0x65] ∧
    (let x := (issued registers).engOf (slotOf registers.cur) none
     ∃ e r, (issued registers).readEntry x ((registers.uni 0x65).toNat % 1024) = .ok e ∧ eRes e = 0 ∧ eSt e = 0 ∧
       (issued registers).crewRemaps x.ctx 0 = false ∧ (issued registers).describing x.ctx 0 = false ∧
       (issued registers).prepareRemap x registers.team.nvreg registers.team.ncrew registers.width e 0 (registers.uni 0x64).toNat = .ok r ∧
       r.passes.length = 1) := by
  refine ⟨by decide, by decide, by unfold mayRun; decide, entry, _, ok_of_okIs (by decide +kernel), by decide +kernel, by decide +kernel,
    by decide +kernel, by decide +kernel, rfl, by decide +kernel⟩

/-! Matrix unit, token trees and conversations. -/

/-- Tiles 0 and 1 of 4 rows of E4M3, scales in tile 2, a mask in tile 3; the matrix unit holds accumulator 2. -/
def tiles : State :=
  w.setTeam { w.team with tc := [(0, 0x1F0304), (1, 0x1F0304), (2, 0x1F030E), (3, 0x1F030F)], tokhold := 4 }
theorem witness_MatrixIssue : tiles.crew.run = none ∧ tiles.mmaOk 2 0 1 = true ∧ tiles.team.tokhold.getLsbD 2 = true ∧
    tiles.team.tokhold.getLsbD 3 = false ∧ tiles.mmaOk 3 0 1 = true ∧ tiles.team.matrix.length < 32 ∧
    (tiles.scaleOk 2 (tcCols (fget 0 tiles.team.tc 0)) (tcRows (fget 0 tiles.team.tc 0)) = true ∧ 4 ≤ (fget 0 tiles.team.tc 0).toNat % 16) ∧
    ((3#4).toNat < tiles.team.ntile ∧ (fget 0 tiles.team.tc 3).toNat % 16 = 15 ∧ tcRows (fget 0 tiles.team.tc 0) ≤ tcRows (fget 0 tiles.team.tc 3)) ∧
    (15#7).toNat < tiles.team.ntile ∧ (7#7).toNat < tiles.team.nacc ∧
    (isUniform 0x64 = true ∧ (tiles.uni 0x64).toNat + (51#6).toNat < 64 ∧ mayRun tiles [0x64] ∧ tiles.accV 94 = true ∧
      mayRun tiles [0x64, 6] ∧ tiles.accV 6 = true) := by unfold mayRun; decide
theorem witness_TokenTree :
    let t := tree w
    w.team.ttf = true ∧ w.crew.run = none ∧ isUniform 0x61 = true ∧ mayRun w [0x61] ∧ dS 0x66 = true ∧ w.vSrcOk 6 = true ∧ w.vSrcOk 4 = true ∧
      (w.team.count + w.active.length ≤ 256 ∧ w.team.count = 0 ∧
        ∀ m, m < w.active.length → w.team.count + m ≠ 0 → (w.lane 6 (w.active.getD m 0)).toNat < w.team.count + m) ∧
      (let s := w.setTeam { w.team with count := 255 }; 256 < s.team.count + s.active.length ∧ s.active.length ≠ 0) ∧
      (w.lane 4 (w.active.getD 1 0)).toNat = 5 ∧
      ((15#8).toNat < t.team.ntile ∧ tcFmt (fget 0 (t.setTeam { t.team with tc := [(15, 0x0000050F)] }).team.tc 15) = 15 ∧
        t.team.clear t.team.issues { writes := [15] } = true) ∧
      w.dV 6 = true ∧ (let path (i : Nat) : Nat := [0, 1, 3, 5].getD i 0
        5 < t.team.count ∧ depthOf (fget 0 t.team.tree 5) = 3 ∧ path 3 = 5 ∧ (∀ i, i < 4 → depthOf (fget 0 t.team.tree (path i)) = i) ∧
          ∀ i, i < 4 → 0 < i → parentOf (fget 0 t.team.tree (path i)) = path (i - 1)) ∧
      w.team.count ≤ (w.uni 0x61).toNat := by unfold mayRun; decide

/-- A protocol table at 0x10000: two states, two roles, one kind; role 0 sends to role 1 in state 0. -/
def table : State := { w with mem := pages [(0x10001, 1), (0x10003, 1), (0x10040, 1), (0x10041, 0x90)] }
def roles : State :=
  let s := w.setCrew { w.crew with cvrole := [(1, 0x0001000100000005)], sr := [(4, 0x8000000000000010), (5, 16), (6, 12), (8, 0x0001000000003005)] }
  withPart s { size := 64 }
theorem witness_ConversationIssue_release : mayIssue roles 2 3 ∧ (∀ x, accessFree roles x) ∧ (∀ x ps, readsFree table x ps) ∧ noneLate table :=
  ⟨mayIssue_of (by decide) _ _, accessFree_of (by decide), readsFree_of (by decide), noneLate_of (by decide)⟩
theorem witness_ConversationIssue : roles.crew.run = none ∧ (3#3 ≠ 7) ∧ dS 0x66 = true ∧ isUniform 0x66 = true ∧
    mayRun roles [0x66] ∧ (roles.uni 0x66).toNat % 64 ≠ 0 ∧ fget 0 roles.crew.cvrole 0 = 0 ∧ fget 0 roles.crew.cvrole 1 ≠ 0 ∧
    isUniform 0x64 = true ∧ isUniform 0x65 = true ∧ mayRun roles [0x64, 0x65] ∧ roles.uni 0x64 = BitVec.ofNat 64 (2 ^ 63 + 16) ∧
    (roles.uni 0x65).toNat = 16 ∧ 16 + 16 ≤ roles.team.part.size ∧ roleDev (fget 0 roles.crew.cvrole 1) = roles.ownDev ∧
    roleDev (roles.uni 0x68) ≠ roles.ownDev ∧ (0x6A#7).toNat % 2 = 0 ∧ (1#2 ≠ 2#2) := by unfold mayRun; decide
theorem witness_ConversationIssue_table : (w.uni 0x62).toNat % 64 = 0 ∧
    (issued table).check { r := true } 0x10000 64 = .ok (part 0x10000 64) ∧ anyRemote (part 0x10000 64) = false ∧
    table.piecesPoisoned (part 0x10000 64) = false ∧ (issued table).readPieces (part 0x10000 64) = 0x1000100 ∧ tableSize 0x1000100 = 72 ∧
    (issued table).check { r := true } 0x10000 72 = .ok (part 0x10000 72) ∧
    tableOk 0x1000100 (bytesOf 72 ((issued table).readPieces (part 0x10000 72))) = true ∧
    tableOk 0x1000101 (bytesOf 72 ((issued table).readPieces (part 0x10000 72))) = false := by
  refine ⟨by decide, ok_of_okIs (by decide +kernel), by decide, by decide +kernel, by decide +kernel, by decide, ok_of_okIs (by decide +kernel),
    by decide +kernel, by decide +kernel⟩

/-- Conversation 5 with the table above, role 0 bound with nonce 9, role 1 unbound; its crew waits with a request. -/
def conv : Conv := { isOpen := true, gen := 1, ns := 2, nr := 2, nk := 1, entries := [0x9001, 0, 0, 0], nonces := [(0, 9)] }
def home (b : Block) (c : Conv) : State :=
  let s := w.setCrew { w.crew with block := some b, cvrole := [(0, 0x0009000100000005), (1, 0x0007000101000005)] }
  { s with convs := [(5, c)] }
def send : ConvReq := { op := 2, role := 0x0009000100000005, kind := 0, payload := [7], imm := true }
theorem witness_ConversationHome_request :
    let bind (role : DWord) (sec : Bool) : ConvReq := { op := 1, role := role, sec := sec }
    0 < 24576 ∧ (home (.conv send) conv).crew.run = none ∧ ((home (.conv send) conv).crewAt 0).block = some (.conv send) ∧ send.checked = false ∧
      conv.queue = [] ∧ conv.closing = none ∧ (home (.conv send) conv).convAt 5 = conv ∧ send.role.toNat % 4096 = 5 ∧
      send.role.toNat / 2 ^ 12 % 512 = (home (.conv send) conv).ownDev ∧
      conv.messageRefusal send = none ∧ conv.refusal send.role true = some 5 ∧
      ((bind 0x0000000201000005 false).role.toNat / 2 ^ 32 % 2 ^ 16 ≠ conv.gen) ∧
      ((bind 0x0000000101000005 false).role.toNat / 2 ^ 32 % 2 ^ 16 = conv.gen ∧ (bind 0 true).sec ≠ conv.sec) ∧
      fget 0 conv.nonces 0 ≠ 0 ∧ fget 0 conv.nonces 1 = 0 := by decide
/-- A message request with a role value fails the generation's or the nonce's test; one of the other world, and of a kind without an
entry, fails a later one. -/
def sendAs (role : DWord) (op : Nat) (sec : Bool) : ConvReq := { op := op, role := role, kind := 0, payload := [7], imm := true, sec := sec }
def genOf (r : ConvReq) : Nat := r.role.toNat / 2 ^ 32 % 2 ^ 16
def boundAs (r : ConvReq) : Bool := r.role.toNat / 2 ^ 48 != 0 && r.role.toNat / 2 ^ 48 == fget 0 conv.nonces (r.role.toNat / 2 ^ 24 % 8)
theorem witness_ConversationHome_refusals : genOf (sendAs 0x0009000200000005 2 false) ≠ conv.gen ∧
    (genOf (sendAs 0x0008000100000005 2 false) = conv.gen ∧ boundAs (sendAs 0x0008000100000005 2 false) = false) ∧
    (genOf (sendAs 0x0000000101000005 2 false) = conv.gen ∧ boundAs (sendAs 0x0000000101000005 2 false) = false) ∧
    (genOf send = conv.gen ∧ boundAs send = true ∧ (sendAs send.role 2 true).sec ≠ conv.sec ∧ send.sec = conv.sec) ∧
    ¬ 1 < conv.nk ∧ (conv.entries.getD 0 0).getLsbD 15 = true ∧ ¬ (16 ≤ send.kind ↔ (sendAs send.role 3 false).op = 3) := by
  exact ⟨by decide, by decide, by decide, by decide, by decide, by decide, by decide⟩
theorem witness_ConversationHome_accept :
    let c := { conv with queue := [0] }
    (home (.conv { send with checked := true }) c).convAt 5 = c ∧ c.queue = 0 :: [] ∧ c.msgs.length < 16 := by decide
theorem witness_ConversationHome_deliver :
    let m : Msg := { slot := 3, code := 1, kind := 0, sender := 0, recv := 1, len := 8, imm := true }
    let other : Msg := { m with recv := 0 }
    let c := { conv with nonces := [(0, 9), (1, 7)], msgs := [other, m] }
    let s := home (.cvrecv 30 1 0 true) c
    (s.crewAt 0).block = some (.cvrecv 30 1 0 true) ∧ fget 0 (s.crewAt 0).cvrole 1 = 0x0007000101000005 ∧ 30 + 1 < 32 ∧
      (0x0007000101000005#64).toNat / 2 ^ 48 = fget 0 c.nonces 1 ∧ (s.teamAt (slotOf 0)).sec = c.sec ∧ (∀ j ∈ s.receivers 5, j = 0) ∧
      c.msgs = [other] ++ m :: [] ∧ m.recv = 1 ∧ (∀ x ∈ [other], x.recv ≠ 1) ∧ m.imm = true ∧ c.isOpen = true ∧ c.closing = none ∧
      (s.reg 0 (0x40 + 8 * (5 / 512))).toNat + 272 * (16 * (5 % 512) + m.slot) + 16 + m.len ≤ memTop := by decide

/-! Engines. -/

/-- A CPY of 16 bytes from offset 0 to offset 32 of the core part, status in S6. -/
def copyCmd (n : Nat) (r : CmdRun) : Cmd :=
  { w := 0xE0666263, e := 0x64000100, ops := [0x8000000000000000, 0x8000000000000020, BitVec.ofNat 64 n], crew := 0, d := 6, run := r }
def queued (q : Nat) (c : Cmd) : State :=
  let s := withPart w { size := 64, bytes := [(0, 7)] }
  (s.setTeam { s.team with queues := [(q, [c])] }).setCrew { s.crew with pendS := [6] }
theorem witness_CommandEvents :
    (let s := queued 2 (copyCmd 16 .waiting)
     (s.teamAt 0).queue 2 = copyCmd 16 .waiting :: [] ∧ s.teamRuns 0 = true ∧ (s.teamAt 0).clear 0 (copyCmd 16 .waiting).foot = true ∧
       (copyCmd 16 .waiting).w.toNat / 2 ^ 24 % 256 ∉ [0xBD, 0xDA, 0xE7, 0xE8] ∧ s.handlesFree (s.cmdEng 0 (copyCmd 16 .waiting)) (copyCmd 16 .waiting) = true ∧
       (copyCmd 16 .waiting).handles = []) ∧
    (∀ n ∈ [0, 16], let c := copyCmd n .started
      let s := queued 2 c
      (s.teamAt 0).queue 2 = c :: [] ∧ s.queueOutstanding 0 2 = false ∧ c.w.toNat / 2 ^ 24 % 256 = 0xE0 ∧ c.e.toNat / 128 % 2 = 0 ∧ c.cow = none ∧
        c.owed = [] ∧ c.told = false ∧ s.wrote = [] ∧ (∀ g, 0 ≤ g → g < (0 + n) / 16 → fget false (s.teamAt 0).part.poison g = false) ∧
        c.e.toNat / 8 % 16 = 0 ∧ c.ops.getD 0 0 = BitVec.ofNat 64 (2 ^ 63 + 0) ∧ c.ops.getD 1 0 = BitVec.ofNat 64 (2 ^ 63 + 32) ∧
        (c.ops.getD 2 0).toNat = n ∧ s.slotOfTeam (s.teamAt 0).launch (s.teamAt 0).teamid = some 0 ∧ 32 + n ≤ (s.teamAt 0).part.size ∧ c.progress = 0 ∧ c.poisonAt = none ∧
        c.seen = [] ∧ c.got = [] ∧ c.pages = []) ∧
    (copyCmd 16 (.ended 5)).run = .ended 5 ∧ (queued 2 (copyCmd 16 (.ended 5))).queueOutstanding 0 2 = false ∧
    (let c : Cmd := { w := 0xBD660000, e := 4, crew := 0, d := 6 }
     let s := queued 2 c
     c.w.toNat / 2 ^ 24 % 256 = 0xBD ∧ ∀ p, p < 8 → c.e.getLsbD p = true → ((s.teamAt 0).queue p).head?.any (fun h => h.issue == c.issue) = true) := by
  refine ⟨by decide, ?_, by decide, by decide, by decide⟩
  intro n hn
  simp only [List.mem_cons, List.not_mem_nil, or_false] at hn
  rcases hn with rfl | rfl <;> exact ⟨by decide, by decide, by decide, by decide, by decide, by decide, by decide, by decide, fun g _ _ => rfl,
    by decide, by decide, by decide, by decide, by decide, by decide, by decide, by decide, by decide, by decide, by decide⟩
theorem witness_CommandEvents_owed : ∀ key ∈ [2 ^ 64 + 3, 0x1000], let o : Owed := { key := key, mask := 2 ^ 128 - 1, mark := false, data := 9 }
    let c := { copyCmd 16 (.ended 5) with owed := [o] }
    ((queued 2 c).teamAt 0).queue 2 = c :: [] ∧ c.owed[0]? = some o ∧ o.mask = 2 ^ 128 - 1 ∧ o.opened = false ∧ c.told = false ∧ c.owed ≠ [] ∧
      (key = (1 + 0) * 2 ^ 64 + 3 ∨ key < 2 ^ 32 ∧ 16 * key + 16 ≤ memTop) := by decide
theorem witness_CommandEvents_error : ∀ run ∈ [CmdRun.started, .ended 5], let c := copyCmd 16 run
    ((queued 2 c).teamAt 0).queue 2 = c :: [] ∧ c.w.toNat / 2 ^ 24 % 256 ∉ [0xBD, 0xD8, 0xE7, 0xE8] ∧ c.told = false ∧ c.owed = [] ∧
      (queued 2 c).queueOutstanding 0 2 = false ∧ (run = .started ∨ run = .ended 5) := by decide

/-- A tile task whose dependence word stands at an address. -/
def task (dep : Nat) (core : Option Nat) : Task :=
  { record := BitVec.ofNat 512 dep, addr := 0, launch := 0, teamid := 0, ctx := 0, sec := false, core := core }
def tasks (k : Task) : State := w.setClusterAt 0 { w.clusterAt 0 with tasks := [k] }
/-- A matrix step in the format of a tile control value. -/
def matOp (tc : DWord) : MatOp := { mat with tcs := [tc, tc] }
def stepping (tc : DWord) : State := w.setTeam { w.team with matrix := [matOp tc] }
theorem witness_MatrixEvents_steps : 0 < 2 ∧ ((stepping 3).teamAt (2 * 0 + 0)).nextMat = some (matOp 3) ∧
    ((stepping 0).teamAt (2 * 0 + 1 - 1)).nextMat = some (matOp 0) ∧ (matOp 3).w.toNat / 2 ^ 24 % 256 ∈ [0xD3, 0xD4, 0xD5] ∧
    (accFmt (tcFmt ((matOp 3).tcs.headD 0)) == 0) = false ∧ (accFmt (tcFmt ((matOp 0).tcs.headD 0)) == 0) = true :=
  ⟨by decide, by decide, by decide, by decide, by decide, by decide⟩
/-- The entry of a tensor of one element in memory, and a task of one chunk that multiplies two of them into a third at c, with its
record at rec_. -/
def oneElement (fmt base : Nat) : Nat := fmt + 2 * 2 ^ 4 + 2 * 2 ^ 8 + 2 ^ 31 + base * 2 ^ 192
def product (rec_ c cmp chunk : Nat) : Task :=
  { task 0 (some 3) with
    record := BitVec.ofNat 512 (cmp * 2 ^ 128 + 2 ^ 352), addr := BitVec.ofNat 64 rec_, chunk := chunk
    ents := [(0, BitVec.ofNat 4096 (oneElement 4 0x10000)), (0, BitVec.ofNat 4096 (oneElement 4 0x10000)), (0, BitVec.ofNat 4096 (oneElement 1 c))] }
theorem witness_MatrixEvents_taskStep : let k := product 0x10080 0x10040 0 0
    let s := tasks k
    let x := s.taskEng 0 k
    2 ≤ 2 ∧ (s.clusterAt 0).tasks[0]? = some k ∧ k.core = some 3 ∧ 3 / 8 = 0 ∧ k.cow = none ∧ k.stage = 0 ∧
      okIs (taskEntries x k) (oneElement 4 0x10000, oneElement 4 0x10000, oneElement 1 0x10040) = true ∧ taskDone x k = false ∧
      (match s.taskChunk x k with | .ok _ => true | .error _ => false) = true :=
  ⟨by decide, rfl, rfl, rfl, rfl, rfl, by decide +kernel, by decide +kernel, by decide +kernel⟩
theorem witness_MatrixEvents_errors :
    (∃ x, lookup busy.teams 0 = some x ∧ x.matrix ≠ []) ∧ 0 / 2 = 0 ∧
    (let s := tasks (task 0 (some 3)); ∃ u ∈ (s.clusterAt 0).tasks, u.core = some 3 ∧ s.slotOfTeam u.launch u.teamid = some 0) ∧
    (let s := w.setClusterAt 0 { w.clusterAt 0 with sessions := [{ launch := 0, slot := 3, n := 2, f := 1, nr := 1, merged := 0, result := [], triples := [] }] }
     768 = 768 + 0 ∧ lookup s.teams 0 ≠ none ∧ ∃ x ∈ (s.clusterAt 0).sessions, x.launch = (s.teamAt 0).launch) ∧
    (let c : Cmd := { copyCmd 0 .started with w := 0xE7660104 }
     let s := queued 2 c
     ∃ e ∈ (s.teamAt 0).queues, e.2 = c :: [] ∧ c.w.toNat / 2 ^ 24 % 256 = 0xE7 ∧ c.run = .started) := by
  exact ⟨⟨_, rfl, by decide⟩, by decide, by decide, by decide, by decide⟩
/-- A task whose dependence word stands here, or on the remote page. -/
theorem witness_MatrixEvents_starts :
    (let k := task 0x10000 none
     let s := tasks k
     (s.clusterAt 0).tasks[0]? = some k ∧ k.core = none ∧ taskDep k.record ≠ 0 ∧ okIs (s.engReadable (s.taskEng 0 k) 0x10000 8) (part 0x10000 8) = true ∧
       s.engPoison (s.taskEng 0 k) (part 0x10000 8) = []) ∧
    (let k := task 0xC0000000 none
     let s := tasks k
     taskDep k.record ≠ 0 ∧ (match s.engReadable (s.taskEng 0 k) 0xC0000000 8 with | .error f => isFetch f | .ok _ => false) = true ∧
       s.readsOut (k.asks 0) = false) ∧
    (let k := task 0 none
     let s := tasks k
     s.taskReady 0 k = true ∧ (taskHandles k.record).all (fun h => (fetchOf (s.readEntry (s.taskEng 0 k) h)).isNone) = true ∧ 8 * 0 ≤ 0 ∧ 0 < 8 * 0 + 8 ∧
       s.coreFree 0 0 = true) := by decide +kernel
/-- A task ends with a fault, on copy-on-write pages, and by forming its write; then come TSTAT and its counter. -/
theorem witness_MatrixEvents_ends :
    (∀ rec_ ∈ [0, 0x80000000], let k := { task 0 (some 3) with addr := BitVec.ofNat 64 rec_ }
     let s := tasks k
     k.core ≠ none ∧ k.cow = none ∧ k.stage = 0 ∧ (match s.taskEnd (s.taskEng 0 k) k with | .fault _ => true | _ => false) = true ∧
       (s.wordCow (s.taskEng 0 k) (k.addr.toNat + 56)).isSome = (rec_ == 0x80000000)) ∧
    (let k := product 0x10080 0x80000000 0 1
     (match (tasks k).taskEnd ((tasks k).taskEng 0 k) k with | .cow va => va == 0x80000000 | _ => false) = true) ∧
    (let k := product 0x10080 0x10040 0 1
     (match (tasks k).taskEnd ((tasks k).taskEng 0 k) k with | .writes _ ws => ws.length == 1 | _ => false) = true) ∧
    (let k := { product 0x10080 0x10040 0 1 with hurt := [(0, true)] }
     (match (tasks k).taskEnd ((tasks k).taskEng 0 k) k with | .writes _ ws => ws.length == 1 && ws.all (·.bad) | _ => false) = true) ∧
    (∀ stage ∈ [1, 2], ∀ at_ ∈ [0x10080, 0x80000000], let k := { product at_ 0x10040 at_ 1 with stage := stage }
     let s := tasks k
     k.stage = stage ∧ k.owed = [] ∧ s.taskOutstanding 0 k = false ∧ taskCmp k.record ≠ 0 ∧
       (s.wordCow (s.taskEng 0 k) (k.addr.toNat + 56)).isSome = (at_ == 0x80000000) ∧
       (s.wordCow (s.taskEng 0 k) (taskCmp k.record)).isSome = (at_ == 0x80000000) ∧
       okIs (s.engCheck (s.taskEng 0 k) { r := true, w := true } 0x10080 8) (part 0x10080 8) = true) ∧
    taskCmp (product 0x10080 0x10040 0 1).record = 0 := by decide +kernel

/-- A CPYACC of 16 bytes into offset 32 of the core part, index 0 of 1. -/
def addCmd : Cmd :=
  { w := 0xE1666263, e := 0x64010100, ops := [0x8000000000000000, 0x8000000000000020, 16], crew := 0, d := 6, run := .started }
/-- A page of its own at 0x100000000, for a CPYDD of one zero page from a core part of 4 KiB. -/
def paged : State :=
  let c : Cmd := { w := 0xE2666263, e := 0x64000100, ops := [0x8000000000000000, 0x100000000, 1], crew := 0, d := 6, run := .started }
  ((((withPart w { size := 4096 }).setTeam { (withPart w { size := 4096 }).team with queues := [(2, [c])] }).writeNat 0x3020 8 0x4001).writeNat 0x4000 8 0x5001).writeNat 0x5000 8 0x3000F
theorem witness_AccumulationEvents_add : (addCmd.w.toNat / 2 ^ 24 % 256 = 0xE1 ∧ addCmd.cow = none ∧
    (let s := queued 2 addCmd
     (match s.accNext (s.cmdEng 0 addCmd) addCmd with
       | .granule _ (.part k level off) _ false _ _ => k == 0 && level == 0 && off == 32
       | _ => false) = true ∧
     s.expected (1 + s.partId 0 0) 2 = (addCmd.ops.getD 2 0).toNat / 2 ^ 32 % 2 ^ 16 ∧ fget false (s.partAt 0 0).poison 2 = false)) := by
  decide +kernel
theorem witness_AccumulationEvents_page :
    (match (paged.teamAt 0).queue 2 with
      | c :: _ =>
        let x := paged.cmdEng 0 c
        (match paged.ddNext x c with
        | .page src ps p va ptepa => (match ((paged.engKeep x ps).keepSpan x.cl x.ctx x.sec va 4096).ddStep x (dieOf 0) src c.progress ps p va ptepa with
          | .ok (s1, _, _) => s1.teams == paged.teams && paged.frameSettled (paged.teamAt 0).ctx va && paged.cowHold.isEmpty
          | _ => false)
        | _ => false)
      | [] => false) = true := by decide +kernel
/-- A session of two ranks with one row, the first merged or none. -/
def sessions (merged : Nat) : State :=
  let row (m : Word) : List (Nat × Word) := [(0, m), (1, 0x40000000), (2, 0x41200000)]
  let x : Session := { launch := 0, slot := 3, n := 2, f := 1, nr := 1, merged := merged, result := if merged = 0 then [] else row 0x40400000
                       triples := [{ rank := 0, rows := row 0x40400000 }, { rank := 1, rows := row 0x3F800000 }] }
  let c : Cmd := { w := 0xE8660104, e := 0x69000003, ops := [0], tcs := [0x000001], crew := 0, d := 6, run := .joined }
  let s := queued 2 c
  s.setClusterAt 0 { s.clusterAt 0 with sessions := [x] }
theorem witness_AccumulationEvents_merge : ∀ n ∈ [0, 1, 2], ∃ x, (sessions n).session 0 0 3 = some x ∧ x.merged = n ∧
    (n < 2 → (x.triples.find? fun k => k.rank == x.merged).isSome = true) ∧
    (n = 2 → x.merged = x.n ∧ ∃ c, ((sessions n).teamAt 0).queue 2 = c :: [] ∧ c.run = .joined ∧ mergeSlot c = 3 ∧ clusterOf 0 = 0) := by
  intro n hn
  simp only [List.mem_cons, List.not_mem_nil, or_false] at hn
  rcases hn with rfl | rfl | rfl
  · exact ⟨_, rfl, rfl, fun _ => by decide, fun h => by cases h⟩
  · exact ⟨_, rfl, rfl, fun _ => by decide, fun h => by cases h⟩
  · exact ⟨_, rfl, rfl, fun h => by omega, fun _ => ⟨rfl, _, rfl, rfl, by decide, by decide⟩⟩
/-- A REMAP that swaps two lane bits of a tensor, in its only pass, at a point of its course. -/
def remapRun (e : Nat) (n done : Nat) (mid : Bool) : RemapRun :=
  { ctx := 0, handle := 0, entry := 0x11000, target := 0x12000, old := (List.range n).map (2 ^ ·)
    new := [2, 1] ++ ((List.range n).drop 2).map (2 ^ ·), passes := [[2, 1] ++ ((List.range n).drop 2).map (2 ^ ·)], done := done
    desc := BitVec.ofNat 4096 e, mid := mid }
theorem witness_AccumulationEvents_remap : ∀ n ∈ [0, 1], let r := remapRun entry 5 n false
    let s := registers.setCrew { registers.crew with block := some (.remap 6 r) }
    let x := s.engOf (slotOf 0) none
    let place (p : Nat) : Option (Nat × Nat × Nat × Nat) := match s.locate x entry p 0 with
      | .ok (.reg crew lane reg bit) => some (16 * slotOf 0 + crew, reg, lane, bit)
      | _ => none
    (s.crewAt 0).block = some (.remap 6 r) ∧ (s.teamAt (slotOf 0)).full = false ∧ r.desc.toNat = entry ∧
      okIs (s.entryWritable x r.handle) (part 0x11000 512) = true ∧ s.otherUses x.ctx r.handle none = false ∧
      (n == 1 || (r.moves entry).all fun m => match place m.2.1 with
        | some y => slotOf y.1 == 0 && decide (y.2.2.1 < 32) && y.2.2.2 == 0 &&
          (r.moves entry).all fun m' => m' == m || (match place m'.2.1 with | some y' => y.2.2.1 != y'.2.2.1 | none => true)
        | none => true) = true ∧
      (r.done < r.passes.length ∨ r.passes.length ≤ r.done) := by
  decide +kernel
theorem witness_AccumulationEvents_engineRemap : ∀ y ∈ [(0, false), (0, true), (1, false)],
    let r := remapRun scratchEntry 4 y.1 y.2
    let c : Cmd := { w := 0xD9666463, e := 0, crew := 0, d := 6, run := .remap r }
    let s0 := withPart registers { size := 64 }
    let s := s0.setTeam { s0.team with queues := [(0, [c])] }
    let x := s.engOf 0 c.bad
    (s.teamAt 0).queue 0 = c :: [] ∧ c.cow = none ∧ c.owed = [] ∧ c.poisonAt = none ∧ s.teamRuns 0 = true ∧
      okIs (s.entryWritable x r.handle) (part 0x11000 512) = true ∧ s.otherUses x.ctx r.handle (some (0, 0)) = false ∧
      (match s.passWrites x r.desc.toNat r with | .ok (ws, _) => y.1 == 1 || (ws.length == 16 && ws.all fun w => cowAt w.ps == none) | _ => y.1 == 1) = true := by
  decide +kernel

/-! Crews between instructions, the fabric, placement. -/

def waiting (i : Word) : State :=
  let s := fetching i.toNat 0 1 [] []
  s.setCrew { s.crew with nL := 1, head := some 0, loads := [{ reg := 1, pair := false, data := [], left := 1 }] }
/-- A team in whose handler a crew waits for S3, which a command has not written. -/
def awaiting : State :=
  let s := fetching 0x81636162 0 1 [] []
  s.setCrew { s.crew with inHandler := true, pendS := [sIndex { s.crew with inHandler := true } 1] }
/-- Both groups of a hardware crew before a word that is no instruction. -/
def twins : State :=
  let s := fetching 0xFFFFFFFF 0 1 [] []
  let s1 := s.setTeam { s.team with compat := true, ncrew := 2, hndl := true }
  { s1 with crews := [(0, s1.crew), (1, s1.crew)] }
/-- Crew 0 stands in a chain and waits on a load; crew 1 is ready for the same pipe. -/
def idlePipe : State :=
  let s := fetching 0x00018088 0x00060204 1 [] []
  let s1 := s.setTeam { s.team with ncrew := 2 }
  { s1 with crews := [(0, { s1.crew with nL := 1, head := some 0, loads := [{ reg := 1, pair := false, data := [], left := 1 }] }), (1, { s1.crew with pc := 4 })] }
theorem witness_CrewEvents_fetch :
    (let s := fetching 0xFFFFFFFF 0 1 [] []
     (s.crewAt 0).run = none ∧ (s.at_ 0).canIssue = true ∧ errIs (s.at_ 0).fetch 1 = true ∧ otherGroup s 0 = none) ∧
    (let s0 := waiting 0x00018088
     let s := s0.setCrew { s0.crew with fin := true, loads := [] }
     (s.crewAt 0).run = none ∧ (s.at_ 0).canIssue = true ∧ okIs (s.at_ 0).fetch (.iadd false 1 0x80 0x88) = true ∧
       (Instr.iadd false 1 0x80 0x88).readsLatch = true ∧ (s.crewAt 0).fin = true ∧ otherGroup s 0 = none) ∧
    (otherGroup twins 0 = some 1 ∧ (twins.crewAt 1).pc = (twins.crewAt 0).pc ∧ (∀ j ∈ [0, 1], (twins.crewAt j).run = none ∧
      (twins.at_ j).canIssue = true ∧ errIs (twins.at_ j).fetch 1 = true ∧ (twins.crewAt j).inHandler = false) ∧
      (twins.teamAt (slotOf 0)).hndl = true ∧ slotOf 1 = slotOf 0) := by decide
theorem witness_CrewEvents :
    (let s := waiting 0x00018088
     let i := Instr.iadd false 1 0x80 0x88
     okIs (s.at_ 0).fetch i = true ∧ (s.at_ 0).crewReady = true ∧ i.readsLatch = true ∧ (s.at_ 0).awaits i = true) ∧
    (let s := w.setCrew { w.crew with block := some (.abandoned [6] [1]), loads := [{ reg := 2, pair := true, data := [] }] }
     (s.crewAt 0).block = some (.abandoned [6] [1]) ∧ (∀ x ∈ (s.crewAt 0).loads, x.reg ∉ [1] ∧ (x.pair = true → x.reg + 1 ∉ [1])) ∧
       ∀ n ∈ [6], n ∉ (s.crewAt 0).pendS) ∧
    (∀ x ∈ [(0x00018988, false), (0x81636162, true)], ∀ n ∈ [0, 64], let s0 := fetching x.1 0 1 [] []
      let s := s0.setCrew (s0.crew.waitOn x.2 n)
      rising none s.crews = true ∧ s.readyFor 0 = some x.2 ∧ (s.crewAt 0).urgent x.2 = false ∧ (s.crewAt 0).waited x.2 = n) ∧
    (rising none idlePipe.crews = true ∧ idlePipe.readyFor 1 = some false ∧ (idlePipe.crewAt 1).urgent false = false ∧
      (idlePipe.crewAt 1).waited false < 64 ∧ pipeIdle idlePipe 1 false = true) ∧
    ((awaiting.crewAt 0).bound = true ∧ (awaiting.crewAt 0).inHandler = true ∧ (awaiting.crewAt 0).halted = false ∧
      (awaiting.crewAt 0).block = none ∧ (awaiting.at_ 0).blockedOnStatus = true) ∧
    (let s := inHandler.setCrew { inHandler.crew with handlerCount := 65536 }
     (s.at_ 0).crewReady = true ∧ (s.crewAt 0).inHandler = true ∧ 65536 ≤ (s.crewAt 0).handlerCount) ∧
    (let s := inHandler.setCrew { inHandler.crew with block := some (.bwait 0) }
     (s.crewAt 0).bound = true ∧ (s.crewAt 0).inHandler = true ∧ (s.crewAt 0).halted = false ∧ (s.crewAt 0).block ≠ none) ∧
    (let s := w.setCrew { w.crew with irq := true }; (s.crewAt 0).run = none ∧ (s.at_ 0).mayInterrupt = true) := by decide
/-- An interrupt before an instruction that keeps no repeat, before a resumed REP and before a resumed MCALL. -/
theorem witness_CrewEvents_interrupt : ∀ x ∈ [(false, 0, 0), (true, 0, 2), (true, 8, 0x8102)],
    let s := resumes.setCrew { resumes.crew with resuming := x.1, pc := BitVec.ofNat 32 x.2.1, irq := true }
    (s.crewAt 0).run = none ∧ (s.at_ 0).mayInterrupt = true ∧ (s.at_ 0).keptRep = BitVec.ofNat 64 x.2.2 := by decide

def req (kind : Nat) : FabReq :=
  { kind := kind, dev := 3, rctx := 1, sec := false, va := 0xC0000000, size := 4, aop := 0, fmt := 13, data := 0, data2 := 0, crew := 0, lane := 1
    plane := 0 }
def parked : Parked :=
  { d := 6, pair := false, fmt := 13, load := true, lanes := 3, next := 8, at_ := 0, wait := [(1, 9)], data := [(0, 5)], refused := [], since := 0 }
theorem witness_FabricEvents :
    (let s := { w.setCrew { w.crew with block := some (.parked parked) } with fabric := [(9, req 3)] }
     lookup s.fabric 9 = some (req 3) ∧ (req 3).kind ∈ [3, 4, 5] ∧ s.toSelf (req 3) = false ∧ s.planeDown (req 3) = false ∧
       (s.crewAt 0).block = some (.parked parked) ∧ parked.wait = [((req 3).lane, 9)] ∧ parked.refused = [] ∧ (req 3).lane < 32 ∧
       parked.lanes.getLsbD (req 3).lane = true ∧ parked.left = 0 ∧ (s.crewAt 0).run = none ∧ s.teamSaves (slotOf 0) = false ∧
       ∀ m, m < 32 → s.vigilSrc m ≠ 1) ∧
    (let s := { w.setCrew { w.crew with pend := [.acc { seq := 1, wr := true, dev := some 3, req := some 9 }] } with fabric := [(9, req 0)] }
     lookup s.fabric 9 = some (req 0) ∧ (req 0).kind ∈ [0, 1, 2, 6] ∧ 9 ∈ (s.crewAt (req 0).crew).posted ∧ s.toSelf (req 0) = false ∧
       s.planeDown (req 0) = false ∧ (req 0).kind ≠ 7) ∧
    (let s := (w.writeNat 0x20000 8 1).setReg 0 8 0x20000
     s.halted = false ∧ s.someLate = false ∧ s.loadPhys ((s.reg 0 8).toNat + 8 * 0) 8 % 2 = 1 ∧
       s.loadPhys ((s.reg 0 8).toNat + 8 * 0) 8 / 256 % 2 ^ 31 * 256 = 0 ∧
       ∀ k, k < 6 → okIs (s.checkSpan noCluster 0 false (needOf k) 0x10000 4) (part 0x10000 4) = true ∧
         s.piecesPoisoned (part 0x10000 4) = false ∧ ∀ p ∈ part 0x10000 4, pteRemote p.page.pte = false ∧ p.page.pa + p.n ≤ memTop ∧ pteCow p.page.pte = false) ∧
    (let s := w.setClusterAt 0 { w.clusterAt 0 with wants := [(7, 64)] }
     (7, 64) ∈ (s.clusterAt 0).wants ∧ ∀ e ∈ s.clusters, ∀ l ∈ e.2.leases, l.line ≠ 7) ∧
    (let s := w.setClusterAt 0 { w.clusterAt 0 with leases := [{ line := 7, size := 64, used := 0 }] }
     ({ line := 7, size := 64, used := 0 } : Lease) ∈ (s.clusterAt 0).leases) := by decide +kernel
/-- A page of zeros at 0x100000000 that the dedup table counts ref times, of a context whose tables stand at 0x20000; a crew waits on an
address. -/
def shared (ref va : Nat) : State :=
  let s := (((w.writeNat 88 8 0x20000).writeNat 0x3020 8 0x4001).writeNat 0x4000 8 0x5001).writeNat 0x5000 8 0x3008F
  let s1 := s.writeNat (0x20000 + 0x80000 + 16 * (32640 % 4096)) 16 (ref * 2 ^ 96 + 2 ^ 92 + 0x30 * 2 ^ 64 + 32640)
  let s2 := s1.setTeam { s1.team with hndl := true }
  s2.setCrew { s2.crew with block := some (.cow va 1 va) }
theorem witness_FabricEvents_cow : ∀ x ∈ [(1, 0x10000, 0), (1, 0x100000000, 0), (1, 0x80000000, 1), (2, 0x100000000, 2)], let s := shared x.1 x.2.1
    (s.crewAt 0).block = some (.cow x.2.1 1 x.2.1) ∧ s.cowWaiters 0 (x.2.1 / 4096) = [.crew 0 1 x.2.1] ∧
      s.serialHeld 0 (x.2.1 / 4096) = false ∧ s.frameSettled 0 (4096 * (x.2.1 / 4096)) = true ∧ s.cowHold.isEmpty = true ∧
      (match s.cowPath (CowWaiter.die (.crew 0 1 x.2.1)) 0 (4096 * (x.2.1 / 4096)) with
        | .done _ => x.2.2 == 0
        | .failed _ => x.2.2 == 1 && (s.teamAt (slotOf 0)).hndl && !(s.crewAt 0).inHandler
        | .noFrame _ => x.2.2 == 2) = true := by decide +kernel

/-- A launch of two teams of one crew with 8 registers, on the image at 0; the region's RCB with every budget. -/
def record : BitVec 1024 := BitVec.ofNat 1024 (8 * 2 ^ 72 + 2 * 2 ^ 128)
def launch : Launch := { record := record, read := true, eligible := true }
def slots (e : Slot) (l : Launch) : State :=
  { (w.writeNat 8 56 (2 ^ 448 - 1)) with crews := [], teams := [], slots := [(0, e)], launches := [(0, l)] }
theorem witness_SlotCommands :
    (∀ op ∈ [1, 2], let s := slots { op := op } launch
      (s.slotAt 0).op = op ∧ (match s.bindCheck 0 with | .ok (l, _) => l == launch | _ => false) = true) ∧
    errIs ((slots { op := 1, teamid := 2 } launch).bindCheck 0) (4, 0) = true ∧
    errIs ((slots { op := 1 } { launch with record := record ||| 0x100 }).bindCheck 0) (5, 1) = true ∧
    (∀ st ∈ [1, 2, 5], ((slots { st := st } launch).slotAt 0).st = st) ∧ ((slots { op := 3, st := 1 } launch).slotAt 0).op = 3 ∧
    ((slots { op := 3 } launch).slotAt 0).st ≠ 1 ∧ 4 ≤ ((slots { op := 4 } launch).slotAt 0).op ∧
    (0 < 1536 ∧ 15 < 16 ∧ (slots {} launch).slotAt 0 = {}) := by decide +kernel
theorem witness_SlotCommands_restore :
    let base := 0x20000
    let y := layoutOf launch.ncrew launch.nvreg launch.ntile launch.nacc launch.cspb launch.ttf
    let s := ((slots { op := 2, saveaddr := 0x20000 } launch).writeNat base 4 0x45564153).writeNat (base + 8) 4 1
    base + y.len ≤ 412316860416 ∧ (match s.bindCheck 0 with | .ok (l, _) => l == launch | _ => false) = true ∧
      s.readNat base 4 = 0x45564153 ∧ s.readNat (base + 8) 4 = launch.ncrew ∧ BitVec.ofNat 64 (s.readNat (base + 40) 8) = (s.slotAt 0).lrec ∧
      s.readNat (base + 33) 3 = (s.slotAt 0).teamid := by decide +kernel
/-- The team of w being saved: its crew blocked in a barrier. -/
def saving : State := (w.setSlotAt 0 { st := 2 }).setCrew { w.crew with block := some (.barrier 1) }
theorem witness_SlotEvents :
    (let s := w.setCrew { w.crew with live := 0 }; s.teamDone 0 = true ∧ s.teamRuns 0 = true) ∧
    (∀ st ∈ [2, 4], let s := (w.setSlotAt 0 { st := st }).setTeam { w.team with saving := true }; s.teamSaves 0 = true) ∧
    ((w.setSlotAt 0 { st := 2 }).teamSaves 0 = true ∧ (w.setSlotAt 0 { st := 2 }).othersStop 0 none = false ∧ (w.teamAt 0).full = false ∧ (lookup w.teams 0).isSome = true) ∧
    (saving.teamSaves 0 = true ∧ (∀ level, level < 3 → (saving.partAt 0 level).poison = []) ∧ saving.othersStop 0 none = true ∧ saving.quiet 0 = true ∧ saving.teamDone 0 = false ∧
      (saving.teamAt 0).part.poison = [] ∧ (saving.slotAt 0).saveaddr.toNat + (saving.teamAt 0).layout.len ≤ 412316860416) ∧
    (let s := { w with vectors := [(0x40000, (5 : BitVec 256))] }
     lookup s.vectors 0x40000 = some 5 ∧ (∀ x ∈ s.teams, x.2.ctx ≠ 0x40000) ∧ 0x40000 + 128 ≤ 412316860416) := by decide +kernel
theorem witness_PlacementEvents :
    (let s := slots {} { launch with read := false }
     (lookup s.launches 0).isSome = true ∧ s.noOp = true ∧ (match s.chain 0 8 0 with | some c => s.launchOk { launch with read := false } c | none => false) = true ∧
       (match s.chain 0 8 0 with | some c => s.launchOk { launch with record := 0 } c | none => true) = false) ∧
    (let s := slots {} launch
     launch.read = true ∧ launch.eligible = true ∧ launch.ended = false ∧ launch.coresident = false ∧ s.turn launch = true ∧
       s.domainStands launch = true ∧ launch.nextTeam = some 0 ∧ (s.placeAt 0 0 1 0 (s.prioOf launch) 0).isSome = true) ∧
    (let l : Launch := { launch with saved := [(1, { addr := 0x20000 })] }
     let s := slots {} l
     l.saved = [(1, { addr := 0x20000 })] ∧ lookup s.teams (otherSlot 0) = none ∧ (s.placeAt 0 1 2 0x20000 (s.prioOf l) 0).isSome = true ∧
       ∀ x ∈ s.launches, ¬ (s.prioOf l < s.prioOf x.2)) ∧
    (let s := { w with ends := [{ ctx := 0, fdom := 7, crew := none, driver := false }] }
     ∃ d ∈ s.ends, d.ctx = 0 ∧ d.fdom = 7) ∧
    767 < 768 ∧ fget false w.fenced 767 = false ∧ 767 ∉ w.fencing ∧
    (let s := { w with fencing := [0] }
     0 ∈ s.fencing ∧ (lookup s.teams (2 * 0)).isSome = true ∧ (s.slotAt (2 * 0)).st = 1 ∧ (s.slotAt (2 * 0)).op = 0) ∧
    (let s := { w with fencing := [5] }
     5 ∈ s.fencing ∧ ∀ k ∈ [10, 11], (lookup s.teams k).isNone = true ∧ (s.slotAt k).op = 0) := by decide +kernel

/-- n fenced cores from core a on. -/
def fencedRun : Nat → Nat → List (Nat × Bool)
  | _, 0 => []
  | a, n + 1 => (a, true) :: fencedRun (a + 1) n
theorem fget_fencedRun (n a c : Nat) (h : a ≤ c) (h2 : c < a + n) : fget false (fencedRun a n) c = true := by
  induction n generalizing a with
  | zero => omega
  | succ n ih =>
    by_cases e : c = a
    · simp [fencedRun, fget, lookup, e]
    · have := ih (a + 1) (by omega) (by omega)
      simpa [fencedRun, fget, lookup, e] using this
/-- A launch whose team asks for a tile: the team of w holds all 16 of core 0, and every other core is fenced. -/
def wanting : Launch := { launch with record := record ||| (1 * 2 ^ 80) }
def starved : State :=
  { (w.writeNat 8 56 (2 ^ 448 - 1)) with launches := [(0, {}), (5, wanting)], fenced := fencedRun 1 767 }
theorem placeAt_fenced (s : State) (key tm op a prio k : Nat) (b : Bool) (h : fget false s.fenced (coreOf k) = true) :
    s.placeAt key tm op a prio k b = none := by
  unfold State.placeAt
  rw [if_pos (Or.inr (Or.inr (Or.inl h)))]
theorem slotOrder_lt (s : State) (key k : Nat) (h : k ∈ s.slotOrder key) : k < 1536 := by
  simp only [State.slotOrder, List.mem_flatMap, List.mem_range, List.mem_append, List.mem_filter, List.mem_map] at h
  obtain ⟨die, hd, ⟨⟨a, ha, rfl⟩, _⟩ | ⟨⟨a, ha, rfl⟩, _⟩⟩ := h <;> omega
/-- Where neither slot of core 0 takes a team and the other cores are fenced, no slot does. -/
theorem placeAll_fenced (s : State) (key prio tm a : Nat) (hf : s.fenced = fencedRun 1 767) (h0 : (s.placeAt key tm 1 a prio 0 true).isNone = true)
    (h1 : (s.placeAt key tm 1 a prio 1 true).isNone = true) (more : List (Nat × Nat)) : s.placeAll key 1 prio ((tm, a) :: more) true = none := by
  have : s.placeTeam key tm 1 a prio true = none := by
    simp only [State.placeTeam, List.findSome?_eq_none_iff]
    intro k hk
    rw [if_neg (fun h => by cases h.1)]
    have hlt := slotOrder_lt _ _ _ hk
    by_cases e0 : k = 0
    · subst e0; rw [Option.isNone_iff_eq_none.mp h0]; rfl
    · by_cases e1 : k = 1
      · subst e1; rw [Option.isNone_iff_eq_none.mp h1]; rfl
      · rw [placeAt_fenced _ _ _ _ _ _ _ _ (by rw [hf]; exact fget_fencedRun _ _ _ (by unfold coreOf; omega) (by unfold coreOf; omega))]
        rfl
  simp only [State.placeAll, this]
theorem starved_slots : (starved.placeAt 5 0 1 0 (starved.prioOf wanting) 0 true).isNone = true ∧
    (starved.placeAt 5 0 1 0 (starved.prioOf wanting) 1 true).isNone = true := by decide +kernel
theorem wanting_batch : wanting.batch = (0, 0) :: [] := by decide
theorem starved_none : starved.placeAll 5 1 (starved.prioOf wanting) wanting.batch true = none :=
  wanting_batch ▸ placeAll_fenced starved 5 (starved.prioOf wanting) 0 0 rfl starved_slots.1 starved_slots.2 []
theorem witness_PlacementEvents_starving : lookup starved.launches 5 = some wanting ∧ starved.noOp = true ∧ wanting.ended = false ∧
    starved.starving 5 wanting = true ∧ (starved.slotAt 0).prio < starved.prioOf wanting ∧ (starved.slotAt 0).st = 1 ∧
    lookup starved.teams 0 ≠ none ∧ (∀ e ∈ starved.slots, starved.teamSaves e.1 = false) ∧ (starved.teamAt 0).coresident = false := by
  refine ⟨by decide, by decide, by decide, ?_, by decide +kernel, by decide, by decide, by decide, by decide⟩
  simp only [State.starving, State.needsCores, starved_none]
  decide +kernel
def core4 : State :=
  { w with launches := [(0, { launch with record := record ||| (2 ^ 224), retired := 1 })], slots := [(0, { st := 1, hold := true })] }
theorem witness_PlacementEvents_hold :
    (let l : Launch := { launch with record := record ||| (2 ^ 224), retired := 1 }
     lookup core4.launches 0 = some l ∧ core4.noOp = true ∧ l.ended = false ∧ l.coresident = true ∧
     (core4.slotsOf 0).length + l.retired = l.nteams ∧ (∀ k ∈ core4.slotsOf 0, (core4.slotAt k).st = 1) ∧
     (∃ k ∈ core4.slotsOf 0, (core4.slotAt k).hold = true) ∧ core4.domainStands l = true) := by decide

/-! The host, the package, the monitors. -/

/-- Ring 0 of function 0 with its records of 128 bytes at 0x20000, HEAD 0 and two kicks. -/
def ringed (loc : Nat) : State :=
  let s := (((w.setReg 0 0x1000 0x20000).setReg 0 0x1008 (dw (0x41 + 2 * loc))).writeNat 0x20078 8 1)
  { s with rings := [(0, { kicks := 2, since := some 0 })] }
theorem witness_LaunchRings : 1 < 2 ∧ 7 < 8 ∧ ((ringed 0).ring 0 0).kicks = 2 ∧ (ringed 0).reg 0 0x1018 = 0 ∧
    (2 ≤ 2 ∧ 2 < 17 ∧ 16 < 17 - 0 ∧ 2 < 16 ∧ 16 - 0 ≤ 16 ∧ 2 ^ (((ringed 0).reg 0 0x1008).toNat / 16 % 16) = 16) ∧
    ((ringed 0).reg 0 0x1020).getLsbD 0 = false ∧ ((ringed 0).reg 0 0x1020).getLsbD 1 = false ∧
    (w.reg 0 0x1008).getLsbD 0 = false ∧ ((0x41#64) &&& 0xF3#64).getLsbD 0 = true ∧
    (∀ loc ∈ [0, 1], ((ringed loc).reg 0 0x1008).getLsbD 0 = true ∧ ((ringed loc).reg 0 0x1008).getLsbD 1 = (loc == 1) ∧
      ((ringed loc).ring 0 0).since = some 0) ∧ 0x20000 + 128 ≤ 412316860416 ∧
    ((BitVec.ofNat 1024 ((ringed 0).readNat 0x20000 128)).extractLsb' 960 64).toNat = (0 + 1) % 2 ^ 64 ∧
    ¬ (((2 * 2 ^ 960 : BitVec 1024)).extractLsb' 960 64).toNat = (0 + 1) % 2 ^ 64 := by decide +kernel
theorem witness_HostCommands : (w.reg 0 0x3020).getLsbD 0 = false ∧ ((w.setReg 0 0x3020 1).reg 0 0x3020).getLsbD 0 = true ∧
    (∀ e ∈ w.clusters, e.2.tasks = []) ∧
    (∀ k ∈ ({ w with fabric := [(9, req 0)], drain := [3] } : State).drain, lookup ({ w with fabric := [(9, req 0)] } : State).fabric k = none) ∧
    (∀ e ∈ w.crews, e.2.pend = []) ∧ (∀ e ∈ w.teams, e.2.queues = []) ∧
    (∀ off ∈ [0x5030, 0x6318, 0x6350], (w.reg 0 off).getLsbD 0 = false ∧ ((w.setReg 0 off 1).reg 0 off).getLsbD 0 = true) ∧
    ({ w with attest := some (5, 0) } : State).attest = some (5, 0) ∧
    412316860416 < 412316860416 + 1 ∧ 412316860416 + 1 ≤ 2 ^ 39 ∧ 0x20000 + 8 ≤ 412316860416 ∧ (∀ i, i < 8 → w.inSecure (0x20000 + i) = false) ∧
    w.poisoned 0x20000 8 = false ∧ (fget 0 w.secure 1).getLsbD 1 = false ∧
    (fget 0 ({ w with secure := [(1, 2)] } : State).secure 1).getLsbD 1 = true := by decide
theorem witness_HostCommands_secure :
    (let s := { w with secure := [(0, 0x200000), (1, 0x400001)] }
     s.inSecure (0x200000 + 0) = true ∧ s.inSecure (0x100000 + 0) = false) ∧
    (let s := w.setReg 0 0x6408 5
     ¬ (5 < (s.reg 0 0x6408).toNat ∨ 512 < 5 - (s.reg 0 0x6410).toNat) ∧ 4 < (s.reg 0 0x6408).toNat ∧ 512 < 513 - (s.reg 0 0x6410).toNat ∧
       (s.reg 0 0x6408).toNat ≤ 512 ∧ 512 - (s.reg 0 0x6410).toNat ≤ 512) ∧
    w.ctxSec (w.reg 0 0x6300).toNat = false ∧
    (∃ e ∈ w.teams, e.2.ctx = (w.reg 0 0x6300).toNat ∧ e.2.fdom = (w.reg 0 0x6308).toNat % 65536 ∧ w.teamAt e.1 = e.2) ∧
    (w.slotAt (2 * ((w.reg 0 0x6340).toNat % 1024))).st = 1 ∧ (w.teamAt 0).sec = false ∧ 0 < (w.teamAt 0).ncrew ∧
    (w.at_ 0).liveMask ≠ 0 ∧ (w.crewAt 0).halted = false ∧ ((w.setCrew { w.crew with live := 0 }).at_ 0).liveMask = 0 ∧
    768 ≤ ((w.setReg 0 0x6340 768).reg 0 0x6340).toNat % 1024 := by decide
/-- A CIRQCMD of every crew of a team of two, one of which has no live lane, and of a crew beyond a team. -/
theorem witness_HostCommands_interrupts :
    (let s0 := w.setTeam { w.team with ncrew := 2 }
     let s := { s0 with crews := [(0, s0.crew), (1, { s0.crew with live := 0 })] }.setReg 0 0x6340 65536
     let v := (s.reg 0 0x6340).toNat
     v % 1024 < 768 ∧ (s.slotAt 0).st = 1 ∧ (s.teamAt 0).sec = false ∧ v / 65536 % 2 = 1 ∧ (s.teamAt 0).ncrew ≤ 16 ∧ (s.at_ 0).liveMask ≠ 0 ∧
       (s.crewAt 0).halted = false ∧ (s.at_ 1).liveMask = 0) ∧
    (let v := ((w.setReg 0 0x6340 2048).reg 0 0x6340).toNat
     v / 65536 % 2 = 0 ∧ (w.teamAt 0).ncrew ≤ v / 2048 % 32) := by decide
theorem witness_HostCommands_registers : (∀ x ∈ [(0x2000, RegKind.rw 0xFFFFFFFFFFFFFFFF#64), (0x1020, .w1c 3#64), (0x1018, .ro), (0x7000, .special)],
    x.1 % 8 = 0 ∧ x.1 < 65536 ∧ ((regAt x.1).1 == x.2) = true ∧ ((regAt x.1).1 ≠ .special ∨ (0x7000 ≤ x.1 ∧ x.1 < 0x8000 ∧ (5#64).getLsbD 1 = false))) := by
  decide
theorem witness_PackageEvents : State.reset.booted = false ∧ w.booted = true ∧ 3600 < 3601 ∧ 3399 < 3400 ∧ 7 < 8 ∧
    (∀ x ∈ [(0, 0, 71), (7, 70, 23), (4, 71, 48)], x.1 < 8 ∧ portUnit x.1 x.2.1 ≠ none ∧ portUnit x.1 x.2.2 ≠ none) ∧
    (∃ q, q ≠ 2 ∧ farPort 2 = some q) ∧
    (∀ link ∈ [32, 95, 0 + 3, 2, 11, 23], ((32 ≤ link ∧ link < 96) ∨ (link < 24 ∧ (link % 3 = 0 → link / 3 % 4 ≠ 0) ∧ (link % 3 = 1 → link / 3 % 4 ≠ 3))) ∧
      ∀ x ∈ [(0, 0, false), (8, 1, false), (8, 2, false)], ((w.setLink link x).link link) = x) ∧ fget 0 w.limits 3 = 0 ∧
    fget 0 ({ w with limits := [(3, 2)] } : State).limits 3 = 2 := by
  refine ⟨by decide, by decide, by decide, by decide, by decide, by decide, ⟨_, ?_, rfl⟩, by decide, by decide, by decide⟩
  decide
theorem witness_MonitorEvents : (2#64).getLsbD 1 = true ∧ 31 < 32 ∧ 2 ^ 32 - 1 < 2 ^ 32 ∧
    (let s := w.setReg 0 0x7000 0x200; (s.reg 0 0x7000).getLsbD 0 = false ∧ (s.reg 0 0x7000).toNat / 2 ^ 8 % 256 ∈ [2, 3, 5, 8]) ∧
    (∀ src ∈ [2, 8], let s := w.setReg 0 0x7000 (dw (9 * 2 ^ 32 + 1 + 256 * src))
     (s.reg 0 0x7000).getLsbD 0 = true ∧ (s.reg 0 0x7000).getLsbD 2 = false ∧ (s.reg 0 0x7000).toNat / 2 ^ 32 ≤ 9 ∧
       (s.reg 0 0x7000).toNat / 2 ^ 8 % 256 ∈ [2, 3, 5, 8]) ∧
    (∀ src ∈ [6, 7], let s := w.setReg 0 0x7000 (dw (1 + 256 * src))
     (s.reg 0 0x7000).toNat / 2 ^ 8 % 256 = src ∧ (s.reg 0 0x7000).getLsbD 0 = true ∧ (s.reg 0 0x7000).getLsbD 2 = false) ∧
    (w.reg 0 0x8000).getLsbD 0 = false ∧ ((w.setReg 0 0x8000 1).reg 0 0x8000).getLsbD 0 = true ∧
    (let s := { w with capture := some {} }; s.capture = some {} ∧ (s.reg 0 0x8000).toNat / 4096 * 4096 + 76288 ≤ 412316860416) ∧
    (∀ x ∈ [(0, 8), (1, 16), (2, 2)], let k := x.1 * 2 ^ 40 + 5
      let s := { w with errors := [(k, x.2, false, false)] }
      k / 2 ^ 40 = x.1 ∧ rising none s.errors = true) := by decide
/-- R439: an uncorrectable error of a DRAM page is an error and a lasting fault in one cycle: one capture records both. -/
theorem test_equinox_oneCapture :
    let t := (w.setReg 0 0x8000 0xFF).strike (.memory 3 true)
    t.reg 0 0x8018 = 0x18#64 ∧ t.reg 0 0x8028 = 0 ∧ t.reg 0 0x8000 = 0xFE#64 := by decide +kernel
/-- R436, R437: monitor 1 counts core 3 of die 0, with five errors in the window that ends. -/
theorem test_errorWindowEnd_vigil :
    let s := { w.setReg 0 0x7080 0xFFFFFFFF00030601 with tally := [(tallyKey 0 6 3, 5)] }
    let t := s.vigilWindow
    t.reg 0 0x7090 = 5 ∧ t.reg 0 0x7098 = 1 ∧ t.reg 0 0x7018 = 0 ∧ t.tally = [] := by decide +kernel
/-- An error that meets its unit's condition: the count of a window, or the second window with a poisoned granule. -/
theorem witness_MonitorEvents_strike :
    (let s := { w with errors := [(errorKey 2 1, 1, false, false)] }
     256 < 25769803776 ∧ 256 ∉ s.struck ∧ fget (0, false, false) s.errors (errorKey 2 (256 / 256)) = (1, false, false)) ∧
    (fget (0, false, false) w.errors (errorKey 2 1) = (0, false, false)) ∧
    (let s := withPart { w with errors := [(errorKey 0 0, 7, false, true)] } { size := 64 }
     3 < (s.teamAt 0).part.size / 16 ∧ fget (0, false, false) s.errors (errorKey 0 (coreOf 0)) = (7, false, true)) ∧
    (let s := { w with errors := [(errorKey 1 2, 15, true, false)] }
     fget (0, false, false) s.errors (errorKey 1 2) = (15, true, false)) := by decide

/-! Encoding, order and the step. -/

theorem witness_RoundTrip : wellFormed (.iaddExt false 0x02 0x00 0xB 0x01) = true ∧
    encode (.iaddExt false 0x02 0x00 0xB 0x01) = 0x0002008F#32 :: [0x880B0001#32] := by decide
theorem witness_DecodeEncode : decode (some 0x0002008F#32) (some 0x880B0001#32) = .ok (.iaddExt false 0x02 0x00 0xB 0x01, 2) := rfl
/-- A crew whose lanes add register 2 and register 4, and the state with a kick that comes in. -/
def adding : State := State.reset.withFetchWord 32 0x00060204
theorem witness_StepRunsDecoded : adding.booted = true ∧ adding.upsets = [] ∧ adding.inputs = [] ∧ moves adding = [.issue 0] ∧
    joined (adding.idle.at_ 0) 0 = none ∧ (adding.crewAt 0).run = none ∧
    (let u := adding.idle.at_ 0
     ∃ img, u.image = some img ∧ img.text[0]? = some 0x00060204#32 ∧ (adding.crewAt 0).pc = 0 ∧ u.textWord 4 = some 0#32) ∧
    decode (some 0x00060204#32) (some 0#32) = .ok (.iadd false 6 2 4, 1) := by
  refine ⟨by decide, by decide, by decide, by decide, by decide, by decide, ⟨_, rfl, by decide, by decide, by decide⟩, rfl⟩
/-- The two groups of a hardware crew of a team in compatibility mode, both urgent at the same PC: whatever the free values of log
entry 88, the lower group's issue is the one move. -/
def paired : State :=
  let s := adding.setTeam { adding.team with compat := true, ncrew := 2 }
  { s with crews := [(0, { s.crew with v := [v 2 0 5], urgentL := true }), (1, { s.crew with urgentL := true })] }
theorem paired_picks (k : Nat) (hk : k = 0 ∨ k = 1) : mayPick paired k false = true := by
  have key : ∀ s : State, ∀ m, coreMates s k = [m] → groupHeld s k = false →
      ((k :: [m]).any fun j => s.readyFor j == some false && decide (64 ≤ (s.crewAt j).waited false) && !(s.crewAt j).urgent false) = false →
      ((k :: [m]).filter fun j => chainPipe s j == some false) = [] → ((k :: [m]).filter fun j => s.readyFor j == some false) = k :: [m] →
      joined s k = some m → (∀ cs ∈ [[k, m], [k], [m]], (winner s false cs).any (fun j => j == k || j == m) = true) → mayPick s k false = true := by
    intro s m h1 h2 h3 h4 h5 h6 h7
    have done : ∀ cs ∈ [[k, m], [k], [m]], ∃ j, winner s false cs = some j ∧ (j = k ∨ joined s k = some j) := by
      intro cs hcs
      have h := h7 cs hcs
      cases hw : winner s false cs with
      | none => rw [hw] at h; cases h
      | some j =>
        rw [hw] at h
        simp only [Option.any_some, Bool.or_eq_true, beq_iff_eq] at h
        exact ⟨j, rfl, h.imp_right fun h => by rw [h6, h]⟩
    obtain ⟨j1, w1, d1⟩ := done [k, m] (by simp)
    obtain ⟨j2, w2, d2⟩ := done [k] (by simp)
    obtain ⟨j3, w3, d3⟩ := done [m] (by simp)
    unfold mayPick contenders
    simp only [h1, h2, h3, h4, h5]
    cases ha : Config.operandsLate s.fresh k <;> cases hb : Config.operandsLate s.fresh m <;> simp [List.filter, ha, hb, w1, w2, w3] <;> assumption
  rcases hk with rfl | rfl
  · exact key _ 1 (by decide) (by decide) (by decide) (by decide) (by decide) (by decide) (by decide)
  · exact key _ 0 (by decide) (by decide) (by decide) (by decide) (by decide) (by decide) (by decide)
theorem paired_moves : moves paired = [.issue 0] := by
  have h0 : crewMoves paired 0 = [.issue 0] := by
    unfold crewMoves
    rw [if_pos (by decide), show (paired.at_ 0).rejects = none by decide, show paired.readyFor 0 = some false by decide]
    simp only [paired_picks 0 (Or.inl rfl)]
    decide
  have h1 : crewMoves paired 1 = [] := by
    unfold crewMoves
    rw [if_pos (by decide), show (paired.at_ 1).rejects = none by decide, show paired.readyFor 1 = some false by decide]
    simp only [paired_picks 1 (Or.inr rfl)]
    decide
  unfold moves
  rw [if_neg (by decide), if_neg (by decide)]
  have hc : paired.crews.flatMap (fun e => crewCandidates paired e.1 e.2) = [.issue 0, .event (.pickerUrgent 0), .event (.pickerUrgent 1)] := by
    show crewCandidates paired 0 _ ++ (crewCandidates paired 1 _ ++ []) = _
    unfold crewCandidates
    rw [h0, h1]
    rfl
  rw [hc]
  decide
theorem witness_StepRunsDecoded_joined :
    let u := paired.idle.at_ 0
    let i := Instr.iadd false 6 2 4
    (paired.booted = true ∧ paired.upsets = [] ∧ paired.inputs = [] ∧ moves paired = [.issue 0] ∧ (paired.crewAt 0).run = none ∧ joined u 0 = some 1) ∧
    ∃ t t2, exec i u = .next t ∧ t.fresh ≠ u.fresh ∧ (t.at_ 1).canIssue = true ∧ (t.crewAt 1).pc = (u.crewAt 0).pc ∧
      okIs (t.at_ 1).fetch i = true ∧ exec i (sameCycle u i (t.at_ 1)) = .next t2 ∧ t2.fresh ≠ (sameCycle u i (t.at_ 1)).fresh := by
  exact ⟨⟨by decide, by decide, by decide, paired_moves, by decide, by decide⟩, _, _, rfl, by decide, by decide, by decide, by decide, rfl, by decide⟩
theorem witness_StepRunsDecoded_input : isInput (.kick 0 0 1) = true ∧ isRequest (.kick 0 0 1) = true ∧ adding.opened = true ∧
    (∃ t, exec (.kick 0 0 1) { ({ adding with inputs := [some (.kick 0 0 1)] } : State) with inputs := [], fresh := adding.fresh + 1 } = .next t) ∧
    isInput (.rsvtail 0) = true ∧ isRequest (.rsvtail 0) = false ∧
    (let s := { adding with opened := false, inputs := [some (.kick 0 0 1)], upsets := [] }
     s.booted = true ∧ s.opened = false ∧ s.inputs = some (.kick 0 0 1) :: []) ∧
    (let s := { adding with upsets := [.memory 1 true] }; s.booted = true ∧ s.upsets = .memory 1 true :: []) :=
  ⟨by decide, by decide, by decide, ⟨_, rfl⟩, by decide, by decide, by decide, by decide⟩
theorem witness_StepKeepsOrder : Memory.wf State.reset.mem = true ∧ rising none State.reset.crews = true ∧
    Memory.wf adding.mem = true ∧ rising none adding.crews = true ∧ (match step adding with | .next t => t.crew.pc == 4 | _ => false) = true := by
  decide

end Sys2Proof.Tests
end

section
/-! SUPPORT. The order of the codes of a floating-point format (R101, R115): on a format's common grid the members rise strictly with
their magnitude code, so the order of values is the order of the codes' places. Minimum and maximum follow. -/
namespace Sys2Proof.FloatOrder
open Sys2Proof Sys2Proof.Machine Sys2Proof.Claims

/-! Signs of differences of plain exact values. -/

theorem pow2_pos (k : Int) : 0 < pow2 k := Int.pow_pos (by decide)

theorem pow2_add {i j : Int} (hi : 0 ≤ i) (hj : 0 ≤ j) : pow2 (i + j) = pow2 i * pow2 j := by
  rw [pow2, Int.toNat_add hi hj, Int.pow_add]; rfl

theorem sgn_eq_sign (a : Int) : sgn a = a.sign := by
  obtain h | rfl | h := Int.lt_trichotomy a 0
  · rw [sgn, if_neg (by omega), if_pos h, Int.sign_eq_neg_one_of_neg h]
  · rfl
  · rw [sgn, if_pos h, Int.sign_eq_one_of_pos h]

theorem plain_iff {x : Ex} : x.plain = true ↔ x.b = 0 ∧ x.c = 0 ∧ x.d = 0 := by simp [Ex.plain, and_assoc]

theorem sign_of_plain {x : Ex} (h : x.plain = true) : x.sign = sgn x.a := by rw [Ex.sign, if_pos h]

/-- Bringing a value to a lower exponent in two stages. -/
theorem at_a_of_le {x : Ex} {e e' : Int} (h : e ≤ e') (hx : e' ≤ x.e) : (x.at_ e).a = (x.at_ e').a * pow2 (e' - e) := by
  have hp : pow2 (x.e - e) = pow2 (x.e - e') * pow2 (e' - e) := by
    rw [← pow2_add (by omega) (by omega)]; congr 1; omega
  simp only [Ex.at_, hp, Int.mul_assoc]

theorem neg_at_a (x : Ex) (e : Int) : (x.neg.at_ e).a = -(x.at_ e).a := Int.neg_mul _ _

/-- The difference of two plain values has the sign of the difference of their multiples of 2^e, at any e that is low enough. -/
theorem sub_sign_of_plain {x y : Ex} {e : Int} (hx : x.plain = true) (hy : y.plain = true) (hxe : e ≤ x.e) (hye : e ≤ y.e) :
    (x.sub y).sign = sgn ((x.at_ e).a - (y.at_ e).a) := by
  have hm : e ≤ min x.e y.e := by omega
  have hs : (x.sub y).plain = true := by
    obtain ⟨hb, hc, hd⟩ := plain_iff.1 hx
    obtain ⟨hb', hc', hd'⟩ := plain_iff.1 hy
    exact plain_iff.2 (by simp [Ex.sub, Ex.add, Ex.at_, Ex.neg, *])
  have ha : (x.sub y).a = (x.at_ (min x.e y.e)).a - (y.at_ (min x.e y.e)).a := by
    rw [Int.sub_eq_add_neg, ← neg_at_a]; rfl
  rw [sign_of_plain hs, ha, at_a_of_le hm (Int.min_le_left _ _), at_a_of_le hm (Int.min_le_right _ _), ← Int.sub_mul, sgn_eq_sign,
    sgn_eq_sign, Int.sign_mul, Int.sign_eq_one_of_pos (pow2_pos _), Int.mul_one]

/-! The members of a format on its common grid. -/

/-- The member of a magnitude code as a multiple of the least subnormal. -/
def height (t : FloatFmt) (k : Nat) : Nat :=
  if k / 2 ^ t.m ≤ 1 then k else (2 ^ t.m + k % 2 ^ t.m) * 2 ^ (k / 2 ^ t.m - 1)

theorem height_zero (t : FloatFmt) : height t 0 = 0 := by simp [height]

theorem member_plain (t : FloatFmt) (k : Nat) : (t.member k).plain = true := by
  simp only [FloatFmt.member]; split <;> rfl

theorem grid_le_member (t : FloatFmt) (k : Nat) : t.emin - t.m ≤ (t.member k).e := by
  simp only [FloatFmt.member]
  split
  case isTrue => exact Int.le_refl _
  case isFalse => exact Int.le_add_of_nonneg_right (Int.natCast_nonneg _)

theorem member_at_grid (t : FloatFmt) (k : Nat) : ((t.member k).at_ (t.emin - t.m)).a = height t k := by
  simp only [FloatFmt.member, height]
  split
  case isTrue => simp only [Ex.at_, pow2, Int.sub_self, Int.toNat_zero, Int.pow_zero, Int.mul_one]
  case isFalse =>
    have he (g : Int) (i : Nat) : (g + i - g).toNat = i := by omega
    simp only [Ex.at_, pow2, he, Int.natCast_mul, Int.natCast_pow]; rfl

theorem member_sign_eq_zero (t : FloatFmt) (k : Nat) : (t.member k).sign = 0 ↔ k = 0 := by
  have hp : 0 < 2 ^ t.m := Nat.two_pow_pos _
  rw [sign_of_plain (member_plain t k), sgn_eq_sign, Int.sign_eq_zero_iff_zero]
  simp only [FloatFmt.member]
  split
  case isTrue => simp
  case isFalse h =>
    have hk : k ≠ 0 := by rintro rfl; simp at h
    simp only [hk, iff_false]
    omega

/-- The height by exponent field and fraction: a subnormal's is its fraction, a normal's its significand scaled. -/
theorem height_of_parts (t : FloatFmt) (e : Nat) {r : Nat} (hr : r < 2 ^ t.m) :
    height t (2 ^ t.m * e + r) = if e = 0 then r else (2 ^ t.m + r) * 2 ^ (e - 1) := by
  have hd : (2 ^ t.m * e + r) / 2 ^ t.m = e := by rw [Nat.mul_add_div (Nat.two_pow_pos _), Nat.div_eq_of_lt hr, Nat.add_zero]
  have hm : (2 ^ t.m * e + r) % 2 ^ t.m = r := by rw [Nat.mul_add_mod, Nat.mod_eq_of_lt hr]
  rw [height, hd, hm]
  match e with
  | 0 => simp
  | 1 => simp
  | e + 2 => simp

/-- One code up: within a binade the fraction grows by one, and past its last code the next binade opens at twice the height. -/
theorem height_lt_succ (t : FloatFmt) (k : Nat) : height t k < height t (k + 1) := by
  have hp : 0 < 2 ^ t.m := Nat.two_pow_pos _
  obtain ⟨e, r, hr, rfl⟩ : ∃ e r, r < 2 ^ t.m ∧ k = 2 ^ t.m * e + r := ⟨_, _, Nat.mod_lt k hp, (Nat.div_add_mod k _).symm⟩
  rw [height_of_parts t e hr]
  by_cases hc : r + 1 < 2 ^ t.m
  case pos =>
    rw [Nat.add_assoc, height_of_parts t e hc]
    split
    · exact Nat.lt_succ_self r
    · exact Nat.mul_lt_mul_of_pos_right (by omega) (Nat.two_pow_pos _)
  case neg =>
    have hk : 2 ^ t.m * e + r + 1 = 2 ^ t.m * (e + 1) + 0 := by rw [Nat.mul_add_one]; omega
    rw [hk, height_of_parts t (e + 1) hp, if_neg (Nat.succ_ne_zero e), Nat.add_sub_cancel, Nat.add_zero]
    match e with
    | 0 => simpa using hr
    | e + 1 =>
      rw [if_neg (Nat.succ_ne_zero e), Nat.add_sub_cancel, Nat.pow_succ', ← Nat.mul_assoc]
      exact Nat.mul_lt_mul_of_pos_right (by omega) (Nat.two_pow_pos _)

theorem height_lt_of_lt (t : FloatFmt) {k k' : Nat} (h : k < k') : height t k < height t k' := by
  induction h with
  | refl => exact height_lt_succ t k
  | step _ ih => exact Nat.lt_trans ih (height_lt_succ t _)

theorem height_lt_iff (t : FloatFmt) (k k' : Nat) : height t k < height t k' ↔ k < k' := by
  refine ⟨fun h => ?_, height_lt_of_lt t⟩
  obtain hlt | rfl | hgt := Nat.lt_trichotomy k k'
  · exact hlt
  · exact absurd h (Nat.lt_irrefl _)
  · exact absurd h (Nat.lt_asymm (height_lt_of_lt t hgt))

/-! The order of values. -/

/-- A number's value as a multiple of the least subnormal. -/
theorem real_at_grid (t : FloatFmt) (n : Bool) (k : Nat) :
    ((Val.num n (t.member k)).real.at_ (t.emin - t.m)).a = if n then -(height t k : Int) else height t k := by
  cases n with
  | false => exact member_at_grid t k
  | true => exact (neg_at_a _ _).trans (congrArg Neg.neg (member_at_grid t k))

theorem real_plain (t : FloatFmt) (n : Bool) (k : Nat) : (Val.num n (t.member k)).real.plain = true := by
  cases n with
  | false => exact member_plain t k
  | true => simpa [Val.real, plain_iff, Ex.neg] using member_plain t k

theorem grid_le_real (t : FloatFmt) (n : Bool) (k : Nat) : t.emin - t.m ≤ (Val.num n (t.member k)).real.e := by
  cases n <;> exact grid_le_member t k

/-- The place of a sign with a magnitude code. -/
def signedPlace (n : Bool) (k : Nat) : Int := if n then -1 - k else k

theorem signedPlace_bounds (n : Bool) (k : Nat) : -1 - (k : Int) ≤ signedPlace n k ∧ signedPlace n k ≤ k := by
  cases n <;> simp only [signedPlace] <;> omega

/-- Against a greater magnitude code only the other sign counts. -/
theorem signedPlace_lt_of_lt {k k' : Nat} (n n' : Bool) (h : k < k') : signedPlace n k < signedPlace n' k' ↔ n' = false := by
  have hb := signedPlace_bounds n k
  cases n' <;> simp [signedPlace] <;> omega

theorem signedPlace_lt_of_gt {k k' : Nat} (n n' : Bool) (h : k' < k) : signedPlace n k < signedPlace n' k' ↔ n = true := by
  have hb := signedPlace_bounds n' k'
  cases n <;> simp [signedPlace] <;> omega

theorem signedPlace_lt_same (n n' : Bool) (k : Nat) : signedPlace n k < signedPlace n' k ↔ n = true ∧ n' = false := by
  cases n' with
  | true => simpa [signedPlace] using (signedPlace_bounds n k).1
  | false => cases n <;> simp [signedPlace]; omega

/-- Numbers are ordered as their places: where the values are equal both are zeros, and the sign decides. -/
theorem vLess_num (t : FloatFmt) (n n' : Bool) (k k' : Nat) :
    vLess (.num n (t.member k)) (.num n' (t.member k')) = decide (signedPlace n k < signedPlace n' k') := by
  have hs : ((Val.num n' (t.member k')).real.sub (Val.num n (t.member k)).real).sign =
      Int.sign ((if n' then -(height t k' : Int) else height t k') - (if n then -(height t k : Int) else height t k)) := by
    rw [sub_sign_of_plain (real_plain t n' k') (real_plain t n k) (grid_le_real t n' k') (grid_le_real t n k), real_at_grid,
      real_at_grid, sgn_eq_sign]
  have hlt : height t k < height t k' ↔ k < k' := height_lt_iff t k k'
  have hgt : height t k' < height t k ↔ k' < k := height_lt_iff t k' k
  have h0 : 0 < height t k ↔ 0 < k := by simpa only [height_zero] using height_lt_iff t 0 k
  have hz : (Val.num n (t.member k)).isZero = decide (k = 0) := by
    rw [Bool.eq_iff_iff, decide_eq_true_iff, ← member_sign_eq_zero t k]; exact beq_iff_eq
  rw [Bool.eq_iff_iff]
  simp only [vLess, hs, hz, Val.neg, Int.sign_eq_zero_iff_zero, Int.sign_pos_iff, signedPlace]
  clear hs hz
  match n, n' with
  | false, false => simp; omega
  | false, true => simp; omega
  | true, false => simp; split <;> omega
  | true, true => simp; omega

/-! What a code says. -/

theorem zOf_pos (f : Nat) : 0 < zOf f := by unfold zOf; split <;> decide

/-- A code that is no NaN is a number of its magnitude code, or an infinity one magnitude code past the largest number. -/
inductive Says (t : FloatFmt) (n : Bool) (k : Nat) : Val → Prop
  | num (h : k ≤ t.maxCode) : Says t n k (.num n (t.member k))
  | inf (h : k = t.maxCode + 1) : Says t n k (.inf n)

/-- The order of what two codes of a format say is the order of their places. -/
theorem vLess_of_says {t : FloatFmt} {n n' : Bool} {k k' : Nat} {a b : Val} (ha : Says t n k a) (hb : Says t n' k' b) :
    vLess a b = decide (signedPlace n k < signedPlace n' k') := by
  rw [Bool.eq_iff_iff, decide_eq_true_iff]
  cases ha with
  | num h =>
    cases hb with
    | num => rw [vLess_num, decide_eq_true_iff]
    | inf h' => rw [signedPlace_lt_of_lt n n' (by omega)]; simp [vLess]
  | inf h =>
    cases hb with
    | num h' => rw [signedPlace_lt_of_gt n n' (by omega)]; rfl
    | inf h' => rw [h, h', signedPlace_lt_same]; simp [vLess]

theorem valOf_says {f x : Nat} (hf : isFloat f = true) (hx : x < 2 ^ zOf f) (hn : (valOf f x).isNaN = false) :
    Says (floatFmt f) (field x (zOf f - 1) 1 == 1) (x % 2 ^ (zOf f - 1)) (valOf f x) := by
  rw [valOf, if_pos hf, Nat.mod_eq_of_lt hx] at hn ⊢
  simp only [floatVal] at hn ⊢
  split at hn
  case isTrue h => rw [if_pos h]; exact .num h
  case isFalse h =>
    split at hn
    case isTrue hi =>
      split at hn
      case isTrue he => rw [if_neg h, if_pos hi, if_pos he]; exact .inf he
      case isFalse => cases hn
    case isFalse => cases hn

theorem place_eq (z x : Nat) : place z x = if x < 2 ^ (z - 1) then (x : Int) else (2 ^ (z - 1) : Nat) - 1 - (x : Int) := by
  rw [Int.natCast_pow]; rfl

theorem place_eq_signedPlace {f x : Nat} (hx : x < 2 ^ zOf f) :
    place (zOf f) x = signedPlace (field x (zOf f - 1) 1 == 1) (x % 2 ^ (zOf f - 1)) := by
  obtain ⟨n, hz⟩ : ∃ n, zOf f = n + 1 := Nat.exists_eq_add_one.2 (zOf_pos f)
  have hp : 2 ^ zOf f = 2 * 2 ^ n := by rw [hz, Nat.pow_succ']
  rw [place_eq, hz, Nat.add_sub_cancel, field]
  by_cases h : x < 2 ^ n
  · simp [h, Nat.div_eq_of_lt, Nat.mod_eq_of_lt, signedPlace]
  · have hd : x / 2 ^ n = 1 := Nat.div_eq_of_lt_le (by omega) (by omega)
    have hm : x % 2 ^ n = x - 2 ^ n := by rw [Nat.mod_eq_sub_mod (by omega), Nat.mod_eq_of_lt (by omega)]
    simp only [if_neg h, hd, hm, signedPlace, Nat.pow_one, Nat.mod_eq_of_lt Nat.one_lt_two, beq_self_eq_true, if_true]
    omega

theorem vLess_valOf {f x y : Nat} (hf : isFloat f = true) (hx : x < 2 ^ zOf f) (hy : y < 2 ^ zOf f)
    (hnx : (valOf f x).isNaN = false) (hny : (valOf f y).isNaN = false) :
    vLess (valOf f x) (valOf f y) = decide (place (zOf f) x < place (zOf f) y) := by
  rw [vLess_of_says (valOf_says hf hx hnx) (valOf_says hf hy hny), place_eq_signedPlace hx, place_eq_signedPlace hy]

theorem place_injective (z : Nat) : Function.Injective (place z) := by
  intro x y h
  simp only [place_eq] at h
  generalize 2 ^ (z - 1) = p at h
  split at h <;> split at h <;> omega

/-! Minimum and maximum. -/

theorem isSNaN_of_not_nan {v : Val} (h : v.isNaN = false) : v.isSNaN = false := by
  cases v with
  | nan => cases h
  | inf => rfl
  | num => rfl

theorem fminmax_of_nan {f x y : Nat} (mx number : Bool) (h : ((valOf f x).isNaN || (valOf f y).isNaN) = true) :
    fminmax f mx number x y =
      { code := if (valOf f x).isNaN && (valOf f y).isNaN then (defaultNaN f).getD 0
          else if number then (if (valOf f x).isNaN then y else x) else (defaultNaN f).getD 0
        fl := if (valOf f x).isSNaN || (valOf f y).isSNaN then 1 else 0 } := by
  cases hx : (valOf f x).isNaN with
  | true =>
    cases hy : (valOf f y).isNaN with
    | true => simp [fminmax, snan, hx, hy]
    | false => simp [fminmax, snan, hx, hy, isSNaN_of_not_nan hy]
  | false =>
    have hy : (valOf f y).isNaN = true := by simpa [hx] using h
    simp [fminmax, snan, hx, hy, isSNaN_of_not_nan hx]

theorem fminmax_of_numbers {f x y : Nat} (mx number : Bool) (hx : (valOf f x).isNaN = false) (hy : (valOf f y).isNaN = false) :
    fminmax f mx number x y = { code := if vLess (valOf f x) (valOf f y) != mx then x else y } := by
  simp [fminmax, hx, hy]

/-- Settles O8: a NaN is treated by Table 5.10, and numbers are ordered as their places. -/
theorem minimumMaximum : Obligations.MinimumMaximum := by
  unfold Obligations.MinimumMaximum
  intro k hk number x y hx hy
  have hfmt : ∀ k ∈ [(0, 64), (1, 32), (2, 16), (3, 16)], isFloat k.1 = true ∧ zOf k.1 = k.2 := by decide
  obtain ⟨hf, hz⟩ := hfmt k hk
  rw [← hz] at hx hy ⊢
  dsimp only
  split
  case isTrue h => rw [fminmax_of_nan _ _ h, fminmax_of_nan _ _ h]; exact ⟨rfl, rfl, rfl, rfl⟩
  case isFalse h =>
    obtain ⟨hnx, hny⟩ : (valOf k.1 x).isNaN = false ∧ (valOf k.1 y).isNaN = false := by simpa using h
    rw [fminmax_of_numbers _ _ hnx hny, fminmax_of_numbers _ _ hnx hny, vLess_valOf hf hx hy hnx hny]
    obtain hlt | heq | hgt := Int.lt_trichotomy (place (zOf k.1) x) (place (zOf k.1) y)
    · simp [hlt, Int.le_of_lt hlt]
    · simp [place_injective _ heq]
    · simp [Int.not_lt.2 (Int.le_of_lt hgt), Int.not_le.2 hgt]

end Sys2Proof.FloatOrder
end

section
/-! SUPPORT. The word instructions of the lane pipe (R178 to R183): each value of the model as the value of its table, the bit-field
instructions bit by bit. -/
namespace Sys2Proof.IntegerWords
open Sys2Proof Sys2Proof.Machine Sys2Proof.Safety Sys2Proof.Claims

/-! Shifts and rotations (R179, R180). -/

theorem shl32_eq (x : Word) (c : Nat) : shl32 x c = BitVec.ofNat 32 (x.toNat * 2 ^ c) := by
  unfold shl32
  split
  case isTrue => exact BitVec.eq_of_toNat_eq (by rw [BitVec.toNat_shiftLeft, Nat.shiftLeft_eq, BitVec.toNat_ofNat])
  case isFalse h =>
    have hd : 2 ^ 32 ∣ x.toNat * 2 ^ c := Nat.dvd_trans (Nat.pow_dvd_pow 2 (Nat.le_of_not_lt h)) (Nat.dvd_mul_left _ _)
    exact BitVec.eq_of_toNat_eq (by rw [BitVec.toNat_ofNat, Nat.mod_eq_zero_of_dvd hd]; rfl)

theorem shr32_eq (x : Word) (c : Nat) : shr32 x c = BitVec.ofNat 32 (x.toNat / 2 ^ c) := by
  have hle : x.toNat / 2 ^ c < 2 ^ 32 := Nat.lt_of_le_of_lt (Nat.div_le_self _ _) x.isLt
  apply BitVec.eq_of_toNat_eq
  rw [BitVec.toNat_ofNat, Nat.mod_eq_of_lt hle, shr32]
  split
  case isTrue => rw [BitVec.toNat_ushiftRight, Nat.shiftRight_eq_div_pow]
  case isFalse h =>
    have hp : 2 ^ 32 ≤ 2 ^ c := Nat.pow_le_pow_right (by decide) (Nat.le_of_not_lt h)
    rw [Nat.div_eq_of_lt (Nat.lt_of_lt_of_le x.isLt hp)]; rfl

theorem sar32_eq (x : Word) (c : Nat) : sar32 x c = BitVec.ofInt 32 (x.toInt / 2 ^ min c 31) := by
  rw [sar32, BitVec.sshiftRight_eq, Int.shiftRight_eq_div_pow, Int.natCast_pow]; rfl

theorem rotateLeft_eq (x : Word) (r : Nat) : x.rotateLeft (r % 32) = x <<< (r % 32) ||| x >>> (32 - r % 32) := by
  rw [BitVec.rotateLeft_def, Nat.mod_mod]

/-! Counts of bits (R179). -/

theorem popc_eq_countP (v n : Nat) : popc v n = (List.range n).countP v.testBit := by
  induction n generalizing v with
  | zero => rfl
  | succ n ih =>
    have hs : v.testBit ∘ Nat.succ = (v / 2).testBit := funext (Nat.testBit_succ v)
    rw [popc, ih, List.range_succ_eq_map, List.countP_cons, List.countP_map, hs, Nat.testBit_zero, Nat.add_comm]
    congr 1
    rcases Nat.mod_two_eq_zero_or_one v with h | h <;> simp [h]

theorem popc_eq (x : Word) : popc x.toNat 32 = countBits x := popc_eq_countP x.toNat 32

/-- A run of the range that ends at m, where the test first fails, has m members. -/
theorem length_takeWhile_range {p : Nat → Bool} {n m : Nat} (hm : m < n) (hp : p m = false) (hlt : ∀ k < m, p k = true) :
    ((List.range n).takeWhile p).length = m := by
  have hi : (List.range n).findIdx (fun k => !p k) = m := by
    rw [List.findIdx_eq (by simpa using hm)]
    simpa [hp] using hlt
  rw [List.takeWhile_eq_take_findIdx_not, hi, List.length_take, List.length_range, Nat.min_eq_left (Nat.le_of_lt hm)]

theorem leadingZeros_eq (x : Word) : leadingZeros 32 x.toNat = leading x := by
  unfold leadingZeros leading
  split
  case isTrue h =>
    have hx : x = 0#32 := BitVec.eq_of_toNat_eq h
    subst hx; decide
  case isFalse h =>
    have hlog : x.toNat.log2 < 32 := (Nat.log2_lt h).2 x.isLt
    have hsub : 31 - (32 - 1 - x.toNat.log2) = x.toNat.log2 := by omega
    refine (length_takeWhile_range (by omega) ?_ fun k hk => ?_).symm
    · rw [hsub, ← BitVec.testBit_toNat, Nat.testBit_log2 h]; rfl
    · have hp : 2 ^ (x.toNat.log2 + 1) ≤ 2 ^ (31 - k) := Nat.pow_le_pow_right (by decide) (by omega)
      rw [← BitVec.testBit_toNat, Nat.testBit_lt_two_pow (Nat.lt_of_lt_of_le Nat.lt_log2_self hp)]; rfl

/-! Minima and maxima (R179). -/

theorem sle_ite (x y p q : Word) : (if x.sle y then p else q) = if x.toInt ≤ y.toInt then p else q := by
  simp only [BitVec.sle_iff_toInt_le]

theorem ule_ite (x y p q : Word) : (if x.ule y then p else q) = if x.toNat ≤ y.toNat then p else q := by
  simp only [BitVec.ule_iff_toNat_le]

/-! Words formed bit by bit. -/

/-- The number with the bits of a test below n, as BFX, BFI and BITF sum it up. -/
def bitSum (bit : Nat → Bool) (n : Nat) : Nat := (List.range n).foldl (fun r k => r + (if bit k then 2 ^ k else 0)) 0

theorem bitSum_succ (bit : Nat → Bool) (n : Nat) : bitSum bit (n + 1) = 2 ^ n * (bit n).toNat + bitSum bit n := by
  rw [bitSum, List.range_succ, List.foldl_append, Nat.add_comm, bitSum]
  cases h : bit n <;> simp [h]

theorem bitSum_lt (bit : Nat → Bool) (n : Nat) : bitSum bit n < 2 ^ n := by
  induction n with
  | zero => exact Nat.one_pos
  | succ n ih =>
    have hle : 2 ^ n * (bit n).toNat ≤ 2 ^ n * 1 := Nat.mul_le_mul_left _ (Bool.toNat_le _)
    rw [bitSum_succ, Nat.pow_succ]; omega

theorem testBit_bitSum (bit : Nat → Bool) (n k : Nat) : (bitSum bit n).testBit k = (decide (k < n) && bit k) := by
  induction n with
  | zero => simp [bitSum]
  | succ n ih =>
    rw [bitSum_succ, Nat.testBit_two_pow_mul_add _ (bitSum_lt bit n), ih]
    obtain hlt | rfl | hgt := Nat.lt_trichotomy k n
    · simp [hlt, Nat.lt_succ_of_lt hlt]
    · cases bit k <;> simp
    · have hne : k - n ≠ 0 := Nat.sub_ne_zero_of_lt hgt
      simp [Nat.not_lt_of_gt hgt, show ¬ k < n + 1 by omega, Nat.testBit_bool_toNat, hne]

theorem getLsbD_w32_bitSum (bit : Nat → Bool) {n k : Nat} (hk : k < 32) :
    (w32 (bitSum bit n)).getLsbD k = (decide (k < n) && bit k) := by
  rw [BitVec.getLsbD_ofNat, testBit_bitSum]; simp [hk]

/-- Sign extension of n low bits to a word is that of a bit vector. -/
theorem w32_signExt {n : Nat} (hn : 0 < n) (v : Nat) : w32 (wrapInt 32 (signExt n v)) = (BitVec.ofNat n v).signExtend 32 := by
  have hi : signExt n v = (BitVec.ofNat n v).toInt := by
    have hp : 2 ^ n = 2 * 2 ^ (n - 1) := by rw [← Nat.pow_succ', Nat.succ_eq_add_one, Nat.sub_add_cancel hn]
    rw [signExt, BitVec.toInt_eq_toNat_cond, BitVec.toNat_ofNat]
    split <;> split <;> omega
  rw [BitVec.signExtend, ← hi]
  apply BitVec.eq_of_toNat_eq
  rw [BitVec.toNat_ofNat, BitVec.toNat_ofInt, wrapInt, Nat.mod_eq_of_lt (by omega)]

/-! BFX, BFI, BPERM and BITF (R181 to R183). -/

/-- Bit k of the field of A at pos, past bit 31 zero or the sign of A. -/
def fieldBit (sx : Bool) (x : Word) (pos k : Nat) : Bool := if pos + k < 32 then x.getLsbD (pos + k) else sx && x.getLsbD 31

/-- BFX is the sum of the field's bits, its highest one spread upwards when SX is set. -/
theorem bfx_eq (sx : Bool) (x y : Word) : bfx sx x y =
    let len := min (field y.toNat 8 8) 32
    let res := bitSum (fieldBit sx x (field y.toNat 0 8)) len
    if sx && decide (0 < len) && decide (len < 32) then w32 (wrapInt 32 (signExt len res)) else w32 res := rfl

theorem bfxBit_eq (sx : Bool) (x y : Word) (k : Nat) : bfxBit sx x y k =
    let pos := field y.toNat 0 8
    let len := min (field y.toNat 8 8) 32
    if k < len then fieldBit sx x pos k else sx && decide (0 < len) && fieldBit sx x pos (len - 1) := by
  simp only [field, Nat.pow_zero, Nat.div_one]; rfl

theorem bfx_getLsbD (sx : Bool) (x y : Word) {k : Nat} (hk : k < 32) : (bfx sx x y).getLsbD k = bfxBit sx x y k := by
  rw [bfx_eq, bfxBit_eq]
  have hlen : min (field y.toNat 8 8) 32 ≤ 32 := Nat.min_le_right _ _
  dsimp only
  generalize min (field y.toNat 8 8) 32 = len at hlen ⊢
  generalize fieldBit sx x (field y.toNat 0 8) = bit
  split
  case isTrue h =>
    obtain ⟨⟨hsx, hpos⟩, -⟩ : (sx = true ∧ 0 < len) ∧ len < 32 := by simpa using h
    have htop : len - 1 < len := Nat.sub_lt hpos Nat.one_pos
    rw [w32_signExt hpos, BitVec.getLsbD_signExtend, BitVec.getLsbD_ofNat, BitVec.msb_eq_getLsbD_last, BitVec.getLsbD_ofNat,
      testBit_bitSum, testBit_bitSum]
    simp only [hk, hsx, hpos, htop, decide_true, Bool.true_and]
    split <;> simp [*]
  case isFalse h =>
    rw [getLsbD_w32_bitSum bit hk]
    split
    case isTrue hlt => simp [hlt]
    case isFalse hge =>
      have hno : (sx && decide (0 < len)) = false := by simpa [show len < 32 by omega] using h
      simp [hge, hno]

theorem bfi_getLsbD (x y z : Word) {k : Nat} (hk : k < 32) : (bfi x y z).getLsbD k = bfiBit x y z k := by
  have heq : bfi x y z = w32 (bitSum (bfiBit x y z) 32) := by
    simp only [bfi, field, Nat.pow_zero, Nat.div_one]; rfl
  rw [heq, getLsbD_w32_bitSum _ hk]; simp [hk]

theorem bitf_getLsbD (f0 f1 : BitVec 4) (x y z : Word) {k : Nat} (hk : k < 32) : (bitf f0 f1 x y z).getLsbD k =
    (if z.getLsbD k then f1 else f0).getLsbD (2 * (y.getLsbD k).toNat + (x.getLsbD k).toNat) := by
  refine (getLsbD_w32_bitSum _ hk).trans ?_
  simp only [hk, decide_true, Bool.true_and]
  cases x.getLsbD k <;> cases y.getLsbD k <;> cases z.getLsbD k <;> rfl

theorem getLsbD_ones {i : Nat} (hi : i < 8) : (0xFF#8).getLsbD i = true :=
  (BitVec.getLsbD_allOnes (v := 8)).trans (decide_eq_true hi)

/-- The byte of B:A that the selector byte c of C names, reversed, spread or cleared by its upper bits (R182). -/
def permutedByte (v : DWord) (c : BitVec 8) : BitVec 8 :=
  let y0 := v.extractLsb' (8 * (c.toNat % 8)) 8
  let y1 := if c.getLsbD 7 then y0.reverse else y0
  let y2 := if c.getLsbD 6 then (if y1.getLsbD 7 then 0xFF#8 else 0#8) else y1
  if c.getLsbD 5 then 0#8 else y2

theorem permutedByte_getLsbD (x y z : Word) (j : Nat) {i : Nat} (hi : i < 8) :
    (permutedByte (y ++ x) (z.extractLsb' (8 * j) 8)).getLsbD i = bpermBit x y z j i := by
  have hsel : (z.extractLsb' (8 * j) 8).toNat = z.toNat / 2 ^ (8 * j) % 256 := by
    rw [BitVec.extractLsb'_toNat, Nat.shiftRight_eq_div_pow]
  have hbyte : ∀ i < 8, ∀ n, ((y ++ x).extractLsb' n 8).getLsbD i = (y ++ x).getLsbD (n + i) := fun i hi n => by
    rw [BitVec.getLsbD_extractLsb', decide_eq_true hi, Bool.true_and]
  unfold permutedByte bpermBit
  simp only [← BitVec.testBit_toNat (z.extractLsb' (8 * j) 8), hsel]
  generalize z.toNat / 2 ^ (8 * j) % 256 = sel
  have hturned : ∀ i < 8, (if sel.testBit 7 then ((y ++ x).extractLsb' (8 * (sel % 8)) 8).reverse
      else (y ++ x).extractLsb' (8 * (sel % 8)) 8).getLsbD i =
      if sel.testBit 7 then (y ++ x).getLsbD (8 * (sel % 8) + (7 - i)) else (y ++ x).getLsbD (8 * (sel % 8) + i) := fun i hi => by
    split
    · rw [BitVec.getLsbD_reverse, BitVec.getMsbD, decide_eq_true hi, Bool.true_and, hbyte _ (by omega)]
    · exact hbyte i hi _
  rw [← hturned 7 (by decide), ← hturned i hi]
  generalize (if sel.testBit 7 then _ else _ : BitVec 8) = turned
  cases sel.testBit 5 with
  | true => simp
  | false =>
    cases sel.testBit 6 with
    | true => cases turned.getLsbD 7 <;> simp [getLsbD_ones hi]
    | false => rfl

/-- Bit i of byte j of four bytes in a word. -/
theorem fourBytes_getLsbD (byte : Nat → BitVec 8) {j i : Nat} (hj : j < 4) (hi : i < 8) :
    (byte 3 ++ (byte 2 ++ (byte 1 ++ byte 0))).getLsbD (8 * j + i) = (byte j).getLsbD i := by
  simp only [BitVec.getLsbD_append]
  match j, hj with
  | 0, _ => rw [if_pos (by omega), if_pos (by omega), if_pos (by omega), Nat.mul_zero, Nat.zero_add]
  | 1, _ => rw [if_pos (by omega), if_pos (by omega), if_neg (by omega), Nat.mul_one, Nat.add_sub_cancel_left]
  | 2, _ => rw [if_pos (by omega), if_neg (by omega), Nat.add_sub_cancel_left]
  | 3, _ => rw [if_neg (by omega), Nat.add_sub_cancel_left]

theorem bperm_getLsbD (x y z : Word) {j i : Nat} (hj : j < 4) (hi : i < 8) :
    (bperm x y z).getLsbD (8 * j + i) = bpermBit x y z j i :=
  (fourBytes_getLsbD (fun j => permutedByte (y ++ x) (z.extractLsb' (8 * j) 8)) hj hi).trans (permutedByte_getLsbD x y z j hi)

/-! The instructions. -/

/-- Each two-operand form applies the word operation of its table lane by lane. -/
theorem exec_wordForm (s : State) (nw : Bool) (d : BitVec 7) (a b : BitVec 8) :
    ∀ e ∈ wordForms nw d a b, ∃ f, exec e.1 s = laneOp2 s nw d a b 1 f ∧ ∀ x y, f x y = e.2 x y := by
  simp only [wordForms, List.forall_mem_cons, List.not_mem_nil, false_imp_iff, implies_true, and_true]
  exact ⟨⟨_, exec_imin s, fun x y => sle_ite x y x y⟩, ⟨_, exec_imax s, fun x y => sle_ite x y y x⟩,
    ⟨_, exec_umin s, fun x y => ule_ite x y x y⟩, ⟨_, exec_umax s, fun x y => ule_ite x y y x⟩,
    ⟨_, exec_vand s, fun _ _ => rfl⟩, ⟨_, exec_vor s, fun _ _ => rfl⟩, ⟨_, exec_vxor s, fun _ _ => rfl⟩,
    ⟨_, exec_vandn s, fun _ _ => rfl⟩, ⟨_, exec_shl s, fun x y => shl32_eq x y.toNat⟩,
    ⟨_, exec_shr s, fun x y => shr32_eq x y.toNat⟩, ⟨_, exec_sar s, fun x y => sar32_eq x y.toNat⟩,
    ⟨_, exec_rotl s, fun x y => rotateLeft_eq x y.toNat⟩⟩

/-- Each one-operand and each immediate form applies the word operation of its table lane by lane. -/
theorem exec_oneWordForm (s : State) (nw : Bool) (d : BitVec 7) (a imm : BitVec 8) :
    ∀ e ∈ unaryForms nw d a ++ immForms nw d a imm, ∃ f, exec e.1 s = laneOp1 s nw d a 1 f ∧ ∀ x, f x = e.2 x := by
  simp only [unaryForms, immForms, List.cons_append, List.nil_append, List.forall_mem_cons, List.not_mem_nil, false_imp_iff,
    implies_true, and_true]
  exact ⟨⟨_, exec_popc s, fun x => congrArg w32 (popc_eq x)⟩, ⟨_, exec_clz s, fun x => congrArg w32 (leadingZeros_eq x)⟩,
    ⟨_, exec_brev s, fun _ => rfl⟩, ⟨_, exec_iaddi s, fun _ => rfl⟩, ⟨_, exec_shli s, fun x => shl32_eq x imm.toNat⟩,
    ⟨_, exec_shri s, fun x => shr32_eq x imm.toNat⟩, ⟨_, exec_sari s, fun x => sar32_eq x imm.toNat⟩,
    ⟨_, exec_andi s, fun _ => rfl⟩, ⟨_, exec_ori s, fun _ => rfl⟩, ⟨_, exec_xori s, fun _ => rfl⟩⟩

theorem wordResults : Claims.wordResults := by
  unfold Claims.wordResults
  intro s nw d a b imm hd ha hma
  refine ⟨fun hb hm e he => ?_, fun e he => ?_⟩
  · obtain ⟨f, hexec, hf⟩ := exec_wordForm s nw d a b e he
    rw [hexec]
    exact laneOp2_done hd ha hb hm fun l _ => congrArg (BitVec.setWidth 64) (hf _ _)
  · obtain ⟨f, hexec, hf⟩ := exec_oneWordForm s nw d a imm e he
    rw [hexec]
    exact laneOp1_done hd ha hma fun l _ => congrArg (BitVec.setWidth 64) (hf _)

theorem bitFieldResults : Claims.bitFieldResults := by
  unfold Claims.bitFieldResults
  intro s nw d a b c sx f0 f1 hd ha hb hm
  refine ⟨⟨fun l => bfx (sx == 1#1) (s.lane a l) (s.lane b l), fun l _ k hk => bfx_getLsbD _ _ _ hk,
    laneOp2_done hd ha hb hm fun _ _ => rfl⟩, fun hc hm3 => ?_⟩
  have word (f : Word → Word → Word → Word) : laneDone (laneOp3 s nw d a b c f) s false nw d [a, b, c] 2 0
      fun l => (f (s.lane a l) (s.lane b l) (s.lane c l)).setWidth 64 := laneOp3_done hd ha hb hc hm3 fun _ _ => rfl
  exact ⟨word fun x y z => x * y + z, ⟨_, fun l _ k hk => bfi_getLsbD _ _ _ hk, word bfi⟩,
    ⟨_, fun l _ j i hj hi => bperm_getLsbD _ _ _ hj hi, word bperm⟩,
    ⟨_, fun l _ k hk => bitf_getLsbD f0 f1 _ _ _ hk, word (bitf f0 f1)⟩⟩

/-- Settles O2: every word instruction gives the value of its table, the bit-field instructions bit by bit. -/
theorem integerWordResults : Obligations.IntegerWordResults := ⟨wordResults, bitFieldResults⟩

end Sys2Proof.IntegerWords
end

section
/-! SUPPORT. The butterfly of LRED (R203): at every step the lanes of an aligned block hold one value, the combination of the
block's two halves, so the result is that of a balanced tree over the lanes. -/
namespace Sys2Proof.Reduction
open Sys2Proof Sys2Proof.Machine Sys2Proof.Safety Sys2Proof.Claims

/-! The butterfly as a tree over aligned blocks. -/

/-- The combination of the 2^s lanes of block b. -/
def blockValue (f : Nat → Nat → Res) (v : Nat → Part_) : Nat → Nat → Part_
  | 0, b => v b
  | s + 1, b => comb f (blockValue f v s (2 * b)) (blockValue f v s (2 * b + 1))

theorem min_max_xor_one (m : Nat) : min m (m ^^^ 1) = 2 * (m / 2) ∧ max m (m ^^^ 1) = 2 * (m / 2) + 1 := by
  have hhalf : (m ^^^ 1) / 2 = m / 2 := by rw [Nat.xor_div_two]; exact Nat.xor_zero _
  have hparity : (m ^^^ 1) % 2 = 1 ↔ ¬ m % 2 = 1 := by simpa only [iff_true] using Nat.xor_mod_two_eq_one (a := m) (b := 1)
  omega

/-- Division by c keeps the order of two numbers. -/
theorem min_max_div (a b c : Nat) : min a b / c = min (a / c) (b / c) ∧ max a b / c = max (a / c) (b / c) := by
  obtain h | h := Nat.le_total a b
  · have hc := Nat.div_le_div_right (c := c) h
    rw [Nat.min_eq_left h, Nat.max_eq_right h, Nat.min_eq_left hc, Nat.max_eq_right hc]; exact ⟨rfl, rfl⟩
  · have hc := Nat.div_le_div_right (c := c) h
    rw [Nat.min_eq_right h, Nat.max_eq_left h, Nat.min_eq_right hc, Nat.max_eq_left hc]; exact ⟨rfl, rfl⟩

/-- Of a lane and its partner at step s the lower lies in the first half of their block of 2^(s+1) lanes, the higher in the
second. -/
theorem partner_blocks (s l : Nat) :
    min l (l ^^^ 2 ^ s) / 2 ^ s = 2 * (l / 2 ^ (s + 1)) ∧ max l (l ^^^ 2 ^ s) / 2 ^ s = 2 * (l / 2 ^ (s + 1)) + 1 := by
  obtain ⟨hmin, hmax⟩ := min_max_div l (l ^^^ 2 ^ s) (2 ^ s)
  rw [hmin, hmax, Nat.xor_div_two_pow, Nat.div_self (Nat.two_pow_pos s), Nat.pow_succ, ← Nat.div_div_eq_div_mul]
  exact min_max_xor_one _

theorem reduced_eq_blockValue (f : Nat → Nat → Res) (v : Nat → Part_) (s l : Nat) :
    reduced f v s l = blockValue f v s (l / 2 ^ s) := by
  induction s generalizing l with
  | zero => rw [reduced, blockValue, Nat.pow_zero, Nat.div_one]
  | succ s ih =>
    obtain ⟨hmin, hmax⟩ := partner_blocks s l
    rw [reduced, ih, ih, hmin, hmax, blockValue]

/-- After n steps the first 2^n lanes hold the same value. -/
theorem reduced_eq_first (f : Nat → Nat → Res) (v : Nat → Part_) {n l : Nat} (h : l < 2 ^ n) :
    reduced f v n l = reduced f v n 0 := by
  rw [reduced_eq_blockValue, reduced_eq_blockValue, Nat.div_eq_of_lt h, Nat.zero_div]

/-! The model's lists hold the butterfly's values. -/

theorem partOf_map_range (g : Nat → Part_) {w l : Nat} (h : l < w) : partOf ((List.range w).map g) l = g l := by
  simp [partOf, h]

theorem redSteps_eq (f : Nat → Nat → Res) (v : Nat → Part_) (k n s : Nat) (h : s + n ≤ k) :
    redSteps f (2 ^ k) n s ((List.range (2 ^ k)).map (reduced f v s)) = (List.range (2 ^ k)).map (reduced f v (s + n)) := by
  induction n generalizing s with
  | zero => rfl
  | succ n ih =>
    have hstep : ∀ l ∈ List.range (2 ^ k), comb f (partOf ((List.range (2 ^ k)).map (reduced f v s)) (min l (l ^^^ 2 ^ s)))
        (partOf ((List.range (2 ^ k)).map (reduced f v s)) (max l (l ^^^ 2 ^ s))) = reduced f v (s + 1) l := fun l hl => by
      have hl : l < 2 ^ k := List.mem_range.1 hl
      have hq : l ^^^ 2 ^ s < 2 ^ k := Nat.xor_lt_two_pow hl (Nat.pow_lt_pow_right (by decide) (by omega))
      rw [partOf_map_range _ (Nat.lt_of_le_of_lt (Nat.min_le_left _ _) hl), partOf_map_range _ (Nat.max_lt.2 ⟨hl, hq⟩), reduced]
    rw [redSteps, List.map_congr_left hstep, ih (s + 1) (by omega), Nat.add_assoc, Nat.add_comm 1 n]

theorem width_eq_two_pow (s : State) : s.width = 2 ^ s.width.log2 := by unfold State.width; split <;> decide

theorem width_pos (s : State) : 0 < s.width := width_eq_two_pow s ▸ Nat.two_pow_pos _

theorem mem_active_iff (s : State) (l : Nat) : l ∈ s.active ↔ l < s.width ∧ s.actMask.getLsbD l = true := by
  simp [State.active, lanesOf]

theorem lanesIn_eq (s : State) (wide : Bool) (a : BitVec 8) : s.lanesIn wide a = (List.range s.width).map (brought s wide a) := by
  refine List.map_congr_left fun l hl => ?_
  simp only [brought, mem_active_iff, List.mem_range.1 hl, true_and]

@[simp] theorem begin_lanesIn (s : State) (ch wide : Bool) (a : BitVec 8) : (s.begin ch).lanesIn wide a = s.lanesIn wide a := by
  simp [State.lanesIn]

@[simp] theorem begin_mode (s : State) (ch : Bool) : (s.begin ch).crew.mode = s.crew.mode := by simp [Crew.mode]

/-- What every lane holds after the last step. -/
def finalValue (s : State) (a : BitVec 8) (fmt opr : BitVec 4) : Nat → Part_ :=
  reduced (redOp opr.toNat fmt.toNat s.crew.mode) (brought s (fmt == 0#4) a) s.width.log2

theorem redSteps_lanesIn (s : State) (a : BitVec 8) (fmt opr : BitVec 4) :
    redSteps (redOp opr.toNat fmt.toNat s.crew.mode) s.width s.width.log2 0 (s.lanesIn (fmt == 0#4) a) =
      (List.range s.width).map (finalValue s a fmt opr) := by
  have h := redSteps_eq (redOp opr.toNat fmt.toNat s.crew.mode) (brought s (fmt == 0#4) a) s.width.log2 s.width.log2 0
    (Nat.le_of_eq (Nat.zero_add _))
  rw [← width_eq_two_pow, Nat.zero_add] at h
  rw [lanesIn_eq]
  exact h

theorem finalValue_eq_first (s : State) (a : BitVec 8) (fmt opr : BitVec 4) {l : Nat} (h : l < s.width) :
    finalValue s a fmt opr l = finalValue s a fmt opr 0 := reduced_eq_first _ _ (width_eq_two_pow s ▸ h)

theorem allFlags_testBit (g : Nat → Part_) (w k : Nat) :
    (allFlags ((List.range w).map g)).testBit k = true ↔ ∃ l, l < w ∧ (g l).2.testBit k = true := by
  rw [allFlags, List.foldl_map, foldl_or_testBit]
  simp

/-! LRED. -/

theorem redOk_of_reductionOk {opr fmt : Nat} (h : reductionOk opr fmt) : redOk opr fmt = true := by
  unfold redOk
  obtain ⟨hlt, rfl⟩ | ⟨hge, hle, hfmt⟩ := h
  · simp [hlt]
  · simp [Nat.not_lt.2 hge, hle, hfmt]

theorem dS_of_dstOk {s : State} {wide : Bool} {d : BitVec 7} (h : s.dstOk wide d = true) : dS d = false := by
  have hv : s.dV d = true := by
    cases wide with
    | true => exact (Bool.and_eq_true_iff.1 h).1
    | false => exact h
  have hlt : d.toNat < 0x60 := of_decide_eq_true (Bool.and_eq_true_iff.1 hv).1
  exact decide_eq_false (Nat.not_le.2 hlt)

section
variable {s : State} {nw : Bool} {d : BitVec 7} {a : BitVec 8} {fmt opr : BitVec 4}

theorem lred_laneDone (hm : mayRun s [a]) (hr : reductionOk opr.toNat fmt.toNat) (ha : s.srcOk (fmt == 0#4) a = true)
    (hd : s.dstOk (fmt == 0#4) d = true) :
    laneDone (exec (.lred nw d a fmt opr) s) s (fmt == 0#4) nw d [a] 2
      (allFlags ((List.range s.width).map (finalValue s a fmt opr))) fun _ => dw ((finalValue s a fmt opr 0).1.getD 0) := by
  have hdS := dS_of_dstOk hd
  rw [exec_lred, execLred]
  refine laneDone_perform rfl (by rfl) (by rfl) hm ?_ ?_ fun _ _ => rfl
  · simp [redOk_of_reductionOk hr, hd, ha]
  · simp only [begin_mode, begin_lanesIn, State.begin_width, redSteps_lanesIn, hdS,
      partOf_map_range _ (width_pos s), Bool.false_eq_true, if_false]

theorem lred_uniformDone (hm : mayRun s [a]) (hr : reductionOk opr.toNat fmt.toNat) (ha : s.srcOk (fmt == 0#4) a = true)
    (hd : dS d = true) :
    uniformDone (exec (.lred nw d a fmt opr) s) s (nw || s.active.isEmpty) d [a] 2
      (allFlags ((List.range s.width).map (finalValue s a fmt opr))) (dw ((finalValue s a fmt opr 0).1.getD 0)) := by
  rw [exec_lred, execLred]
  refine uniformDone_perform rfl (by rfl) (by rfl) hm ?_ ?_
  · simp [redOk_of_reductionOk hr, hd, ha]
  · simp only [begin_mode, begin_lanesIn, State.begin_width, State.begin_active, redSteps_lanesIn, hd,
      partOf_map_range _ (width_pos s), if_true]

end

theorem reductionResult : Claims.reductionResult := by
  unfold Claims.reductionResult
  intro s nw d a fmt opr hm hr ha
  exact ⟨allFlags ((List.range s.width).map (finalValue s a fmt opr)), allFlags_testBit _ _,
    fun l hl => congrArg Prod.fst (finalValue_eq_first s a fmt opr hl), lred_laneDone hm hr ha, lred_uniformDone hm hr ha⟩

/-! The wrapping integer add: the tree's value is the sum over its lanes. -/

/-- A part as a summand: an absent one adds nothing. -/
def summand (p : Part_) : Nat := p.1.getD 0

theorem summand_comb_add (fmt : Nat) (mode : Mode) (x y : Part_) :
    summand (comb (redOp 0 fmt mode) x y) % 2 ^ 32 = (summand x + summand y) % 2 ^ 32 := by
  obtain ⟨x, fx⟩ := x
  obtain ⟨y, fy⟩ := y
  cases x with
  | none => exact congrArg (· % 2 ^ 32) (Nat.zero_add _).symm
  | some x =>
    cases y with
    | none => rfl
    | some y => exact Nat.mod_mod _ _

theorem blockValue_add (fmt : Nat) (mode : Mode) (v : Nat → Part_) (s b : Nat) :
    summand (blockValue (redOp 0 fmt mode) v s b) % 2 ^ 32 =
      ((List.range (2 ^ s)).map fun i => summand (v (2 ^ s * b + i))).sum % 2 ^ 32 := by
  induction s generalizing b with
  | zero => simp [blockValue]
  | succ s ih =>
    have hlow : 2 ^ s * (2 * b) = 2 ^ (s + 1) * b := by rw [Nat.pow_succ, Nat.mul_assoc]
    have hhigh : ∀ i, 2 ^ s * (2 * b + 1) + i = 2 ^ (s + 1) * b + (2 ^ s + i) := fun i => by
      rw [Nat.mul_add, hlow, Nat.mul_one, Nat.add_assoc]
    rw [blockValue, summand_comb_add, Nat.add_mod, ih, ih, ← Nat.add_mod, hlow]
    simp only [hhigh]
    rw [Nat.two_pow_succ s, List.range_add, List.map_append, List.sum_append_nat, List.map_map, ← Nat.two_pow_succ s]
    rfl

/-- A list of summands of which those that fail a test count nothing. -/
theorem sum_map_filter (p : Nat → Bool) (f : Nat → Nat) (ls : List Nat) :
    (ls.map fun l => if p l then f l else 0).sum = ((ls.filter p).map f).sum := by
  induction ls with
  | nil => rfl
  | cons l ls ih =>
    rw [List.map_cons, List.sum_cons, ih]
    cases h : p l with
    | true => rw [List.filter_cons_of_pos h, List.map_cons, List.sum_cons, if_pos rfl]
    | false => rw [List.filter_cons_of_neg (Bool.eq_false_iff.1 h), if_neg Bool.false_ne_true, Nat.zero_add]

theorem sum_brought (s : State) (a : BitVec 8) :
    ((List.range s.width).map fun l => summand (brought s false a l)).sum = (s.active.map fun q => (s.lane a q).toNat).sum := by
  have hb : ∀ l ∈ List.range s.width,
      summand (brought s false a l) = if s.actMask.getLsbD l then (s.lane a l).toNat else 0 := by
    intro l hl
    have hlane : (s.laneW false a l).toNat = (s.lane a l).toNat :=
      BitVec.toNat_setWidth_of_le (b := s.lane a l) (show 32 ≤ 64 by decide)
    simp only [brought, mem_active_iff, List.mem_range.1 hl, true_and, hlane]
    split <;> rfl
  rw [List.map_congr_left hb, sum_map_filter, State.active, lanesOf]

/-- The whole crew is block 0 of the last step. -/
theorem finalValue_add (s : State) (a : BitVec 8) :
    summand (finalValue s a 13#4 0#4 0) % 2 ^ 32 = (s.active.map fun q => (s.lane a q).toNat).sum % 2 ^ 32 := by
  have h := blockValue_add 13 s.crew.mode (brought s false a) s.width.log2 0
  rw [← width_eq_two_pow, Nat.mul_zero] at h
  simp only [Nat.zero_add, sum_brought] at h
  rw [finalValue, reduced_eq_blockValue, Nat.zero_div]
  exact h

theorem vIndex_of_keeps {c c' : Crew} (h : crewKeeps c c') (r : Nat) : vIndex c' r = vIndex c r := by
  have hin : c'.inHandler = c.inHandler := (congrArg Crew.inHandler (show rest c' = rest c from h) :)
  simp only [vIndex, hin]

theorem reductionSum : Claims.reductionSum := by
  unfold Claims.reductionSum
  intro s d a hm hd ha
  obtain ⟨t, ht, -, hkeeps, -, -, -, -, hwritten, -⟩ :=
    lred_laneDone (nw := false) (fmt := 13#4) (opr := 0#4) hm (.inl (by decide)) ha hd
  refine ⟨t, ht, fun l hl => ?_⟩
  have hl32 := mem_active_lt s hl
  have hlane : (32 * vIndex s.crew d.toNat + l) % 32 = l := by omega
  rw [Crew.getV, vIndex_of_keeps hkeeps, hwritten, if_pos ⟨rfl, by omega, hlane.symm ▸ hl⟩]
  rw [BitVec.extractLsb'_toNat, BitVec.toNat_ofNat, Nat.shiftRight_zero, Nat.mod_mod_of_dvd _ (by decide)]
  exact finalValue_add s a

/-- Settles O14: the butterfly is a balanced tree over the lanes, by induction on its steps. -/
theorem reductions : Obligations.Reductions := ⟨reductionResult, reductionSum⟩

end Sys2Proof.Reduction
end
